-- ==== Sys2Proof/Word.lean ====
section
/-! DEFINITION. The words of the TA-8: widths the manual names (00_scope.md R6, R10). -/

namespace Sys2Proof

/-- One byte. -/
abbrev Byte := BitVec 8
/-- A 16-bit value. -/
abbrev Half := BitVec 16
/-- A register or packet word (00 R10). -/
abbrev Word := BitVec 32
/-- A 64-bit quantity (00 R11). -/
abbrev DWord := BitVec 64
/-- One scratchpad row: 32 words of 32 bits, word 0 at the lowest byte address (04 R102, R105). -/
abbrev Row := Vector Word 32

/-- The row of 32 zero words. -/
def Row.zero : Row := Vector.replicate 32 0

end Sys2Proof
end

