-- ==== Sys2Proof/Syntax.lean ====
section
/-! DEFINITION. The commands of the block: one constructor for each row of spec/opcode_table.json, those
without operands last, and the operand types they carry. An operand that the environment decides (whether a PCIe access failed,
what an ADC code read) is part of the command. -/

namespace Sys2Proof

/-- Who makes a register access (16_hub_processors_and_fabric.md Table 16.2): a host function, where
function 0 is the physical function and k the virtual function k (18 R518), a hub agent, or the
management chain, which reads and writes the operator view (20 R590). -/
inductive Requester where
  | host (f : Fin 65)
  | mp
  | sp
  | pp
  | serving
  | chain
deriving DecidableEq, Repr

/-- A command packet as the MP read it (17 Table 17.2): the ring's function, bits [23:0] of word 0,
TAG, ring index, and the 14 parameter words from 0x08. -/
structure Packet where
  fn    : Fin 65
  low   : BitVec 24
  tag   : Word
  idx   : BitVec 12
  words : Vector Word 14
deriving DecidableEq, Repr

/-- A PAM4 level of one lane in one UI: −3, −1, +1, +3 (11 R287). -/
inductive Pam where
  | m3 | m1 | p1 | p3
deriving DecidableEq, Repr

/-- What brings up blind (11 R297): a sheaf under loopback test or a Stem port. -/
inductive BlindUnit where
  | sheaf (n : Fin 20)
  | stem (p : Fin 4)
deriving DecidableEq, Repr

/-- A capability record (11 Table 11.8): its words at 0x00, 0x04, 0x08, C_M, M and the taps. -/
structure CapRecord where
  w0   : Word
  w4   : Word
  w8   : Word
  cm   : DWord
  m    : Half
  taps : BitVec 24
deriving DecidableEq, Repr

/-- A SPAN_FORM control record (12 R326): span ID, digest of the member table, the sender's rank, hop
distance and subtree height; `horizon` is the H that the root sends down, `hops` the members of the
sender's subtree (R327 row 6), `lat` the HOLD_CC of the far end of the edge (R331). -/
structure FormRecord where
  span    : BitVec 12
  digest  : BitVec 384
  rank    : BitVec 13
  dist    : Nat
  height  : Nat
  members : Nat
  lat     : Nat
  horizon : Option Nat
deriving DecidableEq, Repr

/-- A DISPATCH_POST control record (12 R334): span ID, entry and start cycle. -/
structure PostRecord where
  span  : BitVec 12
  entry : BitVec 4
  start : Nat
deriving DecidableEq, Repr

/-- What a locked sequence covers (16 Table 16.6). -/
inductive LockRange where
  | partTable
  | keys
  | partition (p : Fin 64)
deriving DecidableEq, Repr

/-- A frame from the busbar-side controller (19 R536): status values, or the loss frame; `crcOk` is
the outcome of its CRC-8. -/
structure IsoFrame where
  loss  : Bool
  crcOk : Bool
  volt  : Half
  amps  : Half
  watts : Half
  flags : Byte
deriving DecidableEq, Repr

/-- A management chain frame (20 Table 20.3). -/
structure ChainFrame where
  dst     : Byte
  src     : Byte
  cmd     : Byte
  payload : List Byte
  crc     : Half
deriving DecidableEq, Repr

/-- What a boot stage found (20 Table 20.8): self-test map, trained Granary channels, the header version of each
firmware bank whose header is valid, whether each bank passes full verification, the keys of a key block whose
signature verifies, and a rail fault. The stages that do not use a field ignore it. -/
structure BootReport where
  stallOk   : DWord
  channels  : Word
  verA      : Option Word
  verB      : Option Word
  fullA     : Bool
  fullB     : Bool
  keyBlock  : Option (List (List Byte))
  railFault : Bool
deriving DecidableEq, Repr

/-- The commands of the block, in the order of spec/opcode_table.json, those without operands last. -/
inductive Instr where
  /-- REGISTER_WRITE (R12). A host or agent write to a register field that has no row of its own takes effect according to its access code (RW, W1C, WO), ignoring reserved bits. -/
  | registerWrite (rq : Requester) (off : BitVec 24) (v : Word)
  /-- RS_REGISTER_READ (R12). A read of an RS register returns its current value and clears it, or removes the oldest entry of a log register. -/
  | rsRegisterRead (rq : Requester) (off : BitVec 24)
  /-- LOW_WORD_READ (R11). A read of the low word of a 64-bit register latches the high word into the requester's holding register. -/
  | lowWordRead (rq : Requester) (off : BitVec 24)
  /-- MISALIGNED_REGISTER_ACCESS (R17). A register access that is not an aligned 32-bit access returns 0xFFFF_FFFF or is dropped, and is recorded in FAB.BADACC. -/
  | misalignedRegisterAccess (rq : Requester) (off : BitVec 24) (width : Nat) (write : Bool)
  /-- NOP (R232). A slot whose opcode is 0x00 issues nothing for that slot. -/
  | nop (st : Fin 64) (slot : Fin 6)
  /-- TALLY_SET (R114). Writes a value to a tally counter in step 1 of the same-cycle update order. -/
  | tallySet (st : Fin 64) (w : BitVec 96)
  /-- TALLY_WAIT (R46). A hold point tests a tally counter against its threshold, optionally consuming it, and raises Hold if the test fails. -/
  | tallyWait (st : Fin 64) (w : BitVec 96)
  /-- KEY_SET (R238). Writes a compare-and-count key pair, usable from the next cycle. -/
  | keySet (st : Fin 64) (w : BitVec 96)
  /-- CNT (R120). Compare-and-count reads one row, counts matching elements and adds the count to a tally counter or writes it to a word. -/
  | cnt (st : Fin 64) (w : BitVec 96)
  /-- SCYC (R238). Writes the 64-bit schedule cycle of its issue cycle into a row in the next cycle. -/
  | scyc (st : Fin 64) (w : BitVec 96)
  /-- IDLE (R243). Issues its bundle's engine slots and then issues no bundle for COUNT schedule cycles. -/
  | idle (st : Fin 64) (w : BitVec 96)
  /-- IDLE_COUNT_END (R243). The IDLE count of schedule cycles expires and issue resumes at PC + 1. -/
  | idleCountEnd (st : Fin 64)
  /-- LOOP_SET (R242). Writes COUNT into a loop counter and its start count. -/
  | loopSet (st : Fin 64) (w : BitVec 96)
  /-- LOOP_END (R242). Decrements a loop counter and branches to TARGET while it is non-zero. -/
  | loopEnd (st : Fin 64) (w : BitVec 96)
  /-- JUMP (R238). Sets the next bundle address to TARGET. -/
  | jump (st : Fin 64) (w : BitVec 96)
  /-- STEP_MARK (R244). A step boundary: records tally counters, PC, loop counters and key pairs, clears engine constants and TILE_VALID, and writes SQ_STEP. -/
  | stepMark (st : Fin 64) (w : BitVec 96)
  /-- EPOCH_SYNC (R245). Passes an activity forecast for the next epoch to the Power Processor. -/
  | epochSync (st : Fin 64) (w : BitVec 96)
  /-- PAGE (R250). Copies scratchpad lines into bundle store lines and sets their valid bits. -/
  | page (st : Fin 64) (w : BitVec 96)
  /-- END (R246). Closes the last step and ends the dispatch for this Stall; the end cycle writes CHOICE_LAST, REPRO_LAST and the Ledger counts. -/
  | endDispatch (st : Fin 64) (w : BitVec 96)
  /-- CA_LOAD (R167). Loads a stationary weight tile and its tables into the Cube Array over 512 cc, clearing TILE_VALID at issue. -/
  | caLoad (st : Fin 64) (w : Word)
  /-- CA_LOAD_COMPLETE (R165). A CA_LOAD completes and sets STALL.CA_STATUS.TILE_VALID. -/
  | caLoadComplete (st : Fin 64)
  /-- CA_RUN (R170). Runs n tile steps of activations against the stationary tile, accumulating into slots. -/
  | caRun (st : Fin 64) (w : Word)
  /-- CA_RUNT (R177). Runs n tile steps against the stationary tile read along its transposed axis. -/
  | caRunt (st : Fin 64) (w : Word)
  /-- CA_STORE (R173). Requantizes accumulator slots and writes them to scratchpad rows. -/
  | caStore (st : Fin 64) (w : Word)
  /-- ZERO_SKIP_BUDGET_END (R175). At schedule cycle c + B the implicit hold point of a zero-skip run raises Hold if the run has not ended. -/
  | zeroSkipBudgetEnd (st : Fin 64)
  /-- ZERO_SKIP_RUN_COMPLETE (R50). A zero-skip run that raised Hold completes its last pass and releases the Hold in the next cycle. -/
  | zeroSkipRunComplete (st : Fin 64)
  /-- LE_MUL (R154). Log Engine LNS16 multiplication. -/
  | leMul (st : Fin 64) (w : Word)
  /-- LE_DIV (R190). Log Engine LNS16 division. -/
  | leDiv (st : Fin 64) (w : Word)
  /-- LE_ADD (R157). Log Engine LNS16 addition. -/
  | leAdd (st : Fin 64) (w : Word)
  /-- LE_SUB (R157). Log Engine LNS16 subtraction. -/
  | leSub (st : Fin 64) (w : Word)
  /-- LE_NEG (R190). Log Engine sign inversion. -/
  | leNeg (st : Fin 64) (w : Word)
  /-- LE_ABS (R190). Log Engine sign clear. -/
  | leAbs (st : Fin 64) (w : Word)
  /-- LE_RECIP (R190). Log Engine reciprocal. -/
  | leRecip (st : Fin 64) (w : Word)
  /-- LE_SQRT (R190). Log Engine square root. -/
  | leSqrt (st : Fin 64) (w : Word)
  /-- LE_SCALE (R190). Log Engine multiplication by a power of two from a constant. -/
  | leScale (st : Fin 64) (w : Word)
  /-- LE_MAX (R190). Log Engine lane-wise maximum. -/
  | leMax (st : Fin 64) (w : Word)
  /-- LE_MIN (R190). Log Engine lane-wise minimum. -/
  | leMin (st : Fin 64) (w : Word)
  /-- LE_LSUM (R193). Log Engine segment sum in rank-tree lane order. -/
  | leLsum (st : Fin 64) (w : Word)
  /-- LE_LMAX (R193). Log Engine segment maximum. -/
  | leLmax (st : Fin 64) (w : Word)
  /-- LE_FROMFP (R192). Converts FP32 or BF16 to LNS16. -/
  | leFromfp (st : Fin 64) (w : Word)
  /-- LE_TOFP (R191). Converts LNS16 to FP32 or BF16. -/
  | leTofp (st : Fin 64) (w : Word)
  /-- LE_FROMLIN (R192). Forms 2^x in LNS16 from a linear FP value. -/
  | leFromlin (st : Fin 64) (w : Word)
  /-- LE_TOLIN (R190). Returns the log2 of an LNS16 value as FP32 or BF16. -/
  | leTolin (st : Fin 64) (w : Word)
  /-- LE_LDC (R189). Loads 16 Log Engine constant registers from half a row. -/
  | leLdc (st : Fin 64) (w : Word)
  /-- VE_ADD (R194). Vector Engine addition. -/
  | veAdd (st : Fin 64) (w : Word)
  /-- VE_SUB (R194). Vector Engine subtraction. -/
  | veSub (st : Fin 64) (w : Word)
  /-- VE_MUL (R194). Vector Engine multiplication. -/
  | veMul (st : Fin 64) (w : Word)
  /-- VE_FMA (R194). Vector Engine fused multiply-add with one rounding. -/
  | veFma (st : Fin 64) (w : Word)
  /-- VE_ADDS (R194). Vector Engine saturating INT32 addition. -/
  | veAdds (st : Fin 64) (w : Word)
  /-- VE_SUBS (R194). Vector Engine saturating INT32 subtraction. -/
  | veSubs (st : Fin 64) (w : Word)
  /-- VE_AND (R194). Vector Engine bitwise AND. -/
  | veAnd (st : Fin 64) (w : Word)
  /-- VE_OR (R194). Vector Engine bitwise OR. -/
  | veOr (st : Fin 64) (w : Word)
  /-- VE_XOR (R194). Vector Engine bitwise XOR. -/
  | veXor (st : Fin 64) (w : Word)
  /-- VE_SHL (R194). Vector Engine shift left. -/
  | veShl (st : Fin 64) (w : Word)
  /-- VE_SHR (R194). Vector Engine logical shift right. -/
  | veShr (st : Fin 64) (w : Word)
  /-- VE_SRA (R194). Vector Engine arithmetic shift right. -/
  | veSra (st : Fin 64) (w : Word)
  /-- VE_MIN (R195). Vector Engine lane-wise minimum. -/
  | veMin (st : Fin 64) (w : Word)
  /-- VE_MAX (R195). Vector Engine lane-wise maximum. -/
  | veMax (st : Fin 64) (w : Word)
  /-- VE_ABS (R194). Vector Engine absolute value. -/
  | veAbs (st : Fin 64) (w : Word)
  /-- VE_NEG (R194). Vector Engine negation. -/
  | veNeg (st : Fin 64) (w : Word)
  /-- VE_CMP (R194). Vector Engine comparison yielding 1 or 0 per lane. -/
  | veCmp (st : Fin 64) (w : Word)
  /-- VE_SEL (R198). Vector Engine lane select copying bits unchanged. -/
  | veSel (st : Fin 64) (w : Word)
  /-- VE_RSUM (R193). Vector Engine segment sum in rank-tree lane order. -/
  | veRsum (st : Fin 64) (w : Word)
  /-- VE_RMAX (R193). Vector Engine segment maximum. -/
  | veRmax (st : Fin 64) (w : Word)
  /-- VE_CVT (R196). Vector Engine conversion among FP32, BF16 and INT32. -/
  | veCvt (st : Fin 64) (w : Word)
  /-- VE_QPACK (R197). Quantizes elements into bit-planed activation tiles. -/
  | veQpack (st : Fin 64) (w : Word)
  /-- VE_LDC (R189). Loads 16 Vector Engine constant registers from half a row. -/
  | veLdc (st : Fin 64) (w : Word)
  /-- LT_MOVE (R222). Moves a local shard from one layout to another by the row, line or tile path. -/
  | ltMove (st : Fin 64) (w : Word)
  /-- LT_GATHER (R226). Gathers slices of a table by index, padding indices not owned. -/
  | ltGather (st : Fin 64) (w : Word)
  /-- LT_SCATTER (R227). Scatters slices into a table by index, skipping indices not owned. -/
  | ltScatter (st : Fin 64) (w : Word)
  /-- LT_FILL (R228). Writes a descriptor's padding value to every row of the descriptor. -/
  | ltFill (st : Fin 64) (w : Word)
  /-- HE_SEND (R276). Starts a scheduled-class transfer, reading row groups and placing them at the router's L input. -/
  | heSend (st : Fin 64) (w : Word)
  /-- HE_DSEND (R277). Starts a dynamic-class transfer: reads the rows and enters the dynamic queue. -/
  | heDsend (st : Fin 64) (w : Word)
  /-- HE_FETCH (R277). Starts a dynamic-class fetch from a hub window, sending its requests over the Stem. -/
  | heFetch (st : Fin 64) (w : Word)
  /-- SCHEDULED_ARRIVAL (R279). A scheduled row taken by an L output lands at rank 3, is checked by translation and protection and increments its tally counter. -/
  | scheduledArrival (st : Fin 64)
  /-- DYNAMIC_ARRIVAL_LANDS (R111). A dynamic row waiting in the receive buffer lands at rank 4 when its bank is free and counts toward its tally counter. -/
  | dynamicArrivalLands (st : Fin 64)
  /-- REFETCH_ISSUE (R126). The Hop Engine issues a refetch of a poisoned backed row when fewer than 16 are outstanding. -/
  | refetchIssue (st : Fin 64)
  /-- REFETCH_DONE (R127). A refetch's Granary data arrives, is CRC-checked and written to all 32 words of the row, clearing POISON, or the refetch fails. -/
  | refetchDone (st : Fin 64) (row : BitVec 19) (glitch : Bool)
  /-- REFETCH_TIMEOUT (R127). A refetch not written within 10 ms of issue fails and the row enters Held. -/
  | refetchTimeout (st : Fin 64) (row : BitVec 19)
  /-- SCRUB_ISSUE (R130). After 16 ticks and all previous reads served, the scrubber issues reads of the next bank row in all 32 banks. -/
  | scrubIssue (st : Fin 64)
  /-- SCRUB_READ_PROMOTE (R130). A scrub read pending 16 ticks rises to rank 5. -/
  | scrubReadPromote (st : Fin 64) (bank : Fin 32)
  /-- SCRUB_READ (R130). A bank serves a waiting scrub read of one row, checking parity. -/
  | scrubRead (st : Fin 64) (bank : Fin 32)
  /-- SCRUB_LATE (R132). A scrub pass exceeding 393,216 ticks in S0 and S1 sets SCRUB_LATE and raises the event. -/
  | scrubLate (st : Fin 64)
  /-- GLEAN_READ (R124). A bank serves a waiting Glean Engine read of a registered radix-tree row. -/
  | gleanRead (st : Fin 64) (row : BitVec 19)
  /-- BRIDGE_ACCESS (R628). An operator access in the STALL window is carried through the Stem configuration bridge to a Stall register. -/
  | bridgeAccess (off : BitVec 22) (wr : Option Word)
  /-- ROW_SEL (R630). A write to SYS.ROW_SEL starts one bridge row read into SYS.ROW_BUF. -/
  | rowSel (v : Word)
  /-- DEBUG_ENABLE (R65). A write to SYS.DEBUG.ENABLE raises or withdraws the 400 MHz cap demand for debug mode. -/
  | debugEnable (v : Word)
  /-- FREEZE_START (R49). At t + HORIZON after a root HOLD_RAISE the span's first frozen cycle begins. -/
  | freezeStart (p : Fin 64)
  /-- RAISED_HOLD_RELEASE (R48). A raised Hold is released in the first cycle u at whose start its hold point's condition holds. -/
  | raisedHoldRelease (st : Fin 64)
  /-- FREEZE_END (R48). At u + HORIZON the span's freeze ends and issue resumes. -/
  | freezeEnd (p : Fin 64)
  /-- HOLD_TIMEOUT (R54). A freeze whose summed picoseconds exceed HOLD_TIMEOUT faults the span with status TIMEOUT. -/
  | holdTimeout (p : Fin 64)
  /-- FAULT_STOP_END (R638). At x + HORIZON after a fault stop the dispatch's end cycle comes: operations are abandoned and the dispatch ends with the governing status. -/
  | faultStopEnd (p : Fin 64)
  /-- STEP_RERUN (R129). After a step fault's refetch lands, at v + HORIZON the span restores tally records and resumes issue at the restored boundary. -/
  | stepRerun (p : Fin 64)
  /-- DISPATCH_START (R88). At start cycle T the dispatch begins: the choice counter takes the pending count, captures clear, PC is set to the entry point. -/
  | dispatchStart (p : Fin 64)
  /-- DISPATCH_REPLY (R453). Once the dispatch's hub-bound rows have taken effect, the MP writes the DISPATCH reply and posts the next queued dispatch. -/
  | dispatchReply (p : Fin 64)
  /-- DYNAMIC_PACKET_FORWARD (R281). A waiting dynamic packet is forwarded by a router output in a free cycle, round-robin among inputs. -/
  | dynamicPacketForward (r : Fin 64) (o : Fin 5)
  /-- FETCH_RESPONSE (R448). A response to a fetch request returns over the Stem and its rows are forwarded to the Stall in ascending order. -/
  | fetchResponse (port : Fin 4) (id : Nat) (glitch : Bool)
  /-- RECEIVER_DETECT_PULSE (R293). Every 100 µs in DETECT a sheaf sends receiver-detect pulses and tests for far termination. -/
  | receiverDetectPulse (n : Fin 20) (lanes : BitVec 16)
  /-- TRAINING_FRAME (R295). A received training frame's control block updates equalizer requests and RX_READY. -/
  | trainingFrame (n : Fin 20) (ctrl : BitVec 85) (ready : Bool)
  /-- TRAIN_TIMEOUT (R293). A sheaf in TRAIN for 50 ms returns to DETECT. -/
  | trainTimeout (n : Fin 20)
  /-- LOCK_TIMEOUT (R293). A sheaf in LOCK for 1 ms returns to TRAIN. -/
  | lockTimeout (n : Fin 20)
  /-- CAPS_TIMEOUT (R293). A sheaf in CAPS for 10 ms returns to DETECT. -/
  | capsTimeout (n : Fin 20)
  /-- BLIND_BRING_UP (R297). After 1 ms of blind training a sheaf or Stem port sends idle codewords and markers and locks. -/
  | blindBringUp (u : BlindUnit)
  /-- ALIGNMENT_MARKER (R292). A comma is received on a lane; lock, CAPS-to-ACTIVE entry and pending retrain or width changes take effect at markers. -/
  | alignmentMarker (n : Fin 20) (lane : Fin 16) (run bits : List Pam)
  /-- LOSS_OF_SIGNAL (R293). Loss of signal on every lane for 10 µs sends an ACTIVE sheaf to DETECT. -/
  | lossOfSignal (n : Fin 20)
  /-- UNCORRECTABLE_CODEWORD (R308). An uncorrectable codeword loses its scheduled rows, counted in SCHED_LOST. -/
  | uncorrectableCodeword (n : Fin 20) (rows : Nat) (frames : List Nat)
  /-- AUTOMATIC_RETRAIN (R311). Two missing markers or over 64 uncorrectable codewords in 1 ms start a retrain of the sheaf. -/
  | automaticRetrain (n : Fin 20) (missed : Bool)
  /-- CAPABILITY_RECORD (R296). A received capability record drives ACK, miscabling checks, self-loop detection and timebase parenting. -/
  | capabilityRecord (n : Fin 20) (c : CapRecord)
  /-- CYC (R299). A received CYC probe carrying the sender's count is echoed back. -/
  | cyc (n : Fin 20) (count : BitVec 26)
  /-- CYC_ECHO (R299). A received probe echo yields a round trip for measuring D and aligning the count. -/
  | cycEcho (n : Fin 20) (arg : BitVec 26)
  /-- DRIFT_PROBE (R302). Every 2^16 codewords an ACTIVE sheaf compares counts and sets CYC_DRIFT on a difference. -/
  | driftProbe (n : Fin 20) (diff : Int)
  /-- SCHEDULED_ROW (R307). A scheduled row received on a sheaf enters the receive delay buffer or is dropped as late or stray. -/
  | scheduledRow (n : Fin 20) (tag : BitVec 64) (data : Row)
  /-- SHEAF_DELAY_RELEASE (R307). A buffered scheduled row goes to the router input when the span's schedule cycle equals STAMP + HOP_LATENCY. -/
  | sheafDelayRelease (n : Fin 20)
  /-- DYNAMIC_ROW (R309). A received dynamic row is accepted if numbered E or discarded with a NAK. -/
  | dynamicRow (n : Fin 20) (num : BitVec 10) (tag : BitVec 64) (data : Row)
  /-- ACK (R309). A received ACK releases acknowledged dynamic rows. -/
  | ack (n : Fin 20) (arg : BitVec 26)
  /-- NAK (R309). A received NAK makes the sender resend from the named row. -/
  | nak (n : Fin 20) (arg : BitVec 26)
  /-- ACK_DUE (R309). After 32 codewords the receiver sends ACK(E). -/
  | ackDue (n : Fin 20)
  /-- NAK_SUPPRESS_END (R309). The 2 µs suppression of repeated NAK(E) expires. -/
  | nakSuppressEnd (n : Fin 20)
  /-- ACK_TIMEOUT (R309). If ACK has not advanced for 4 µs the sender resends from the oldest unacknowledged row. -/
  | ackTimeout (n : Fin 20)
  /-- LINK_REQ (R313). A received retrain or width request is acknowledged or resolved against an outstanding local request by node ID. -/
  | linkReq (n : Fin 20) (arg : BitVec 26)
  /-- LINK_ACK (R310). A received LINK_ACK schedules the winning change for the next alignment marker. -/
  | linkAck (n : Fin 20) (arg : BitVec 26)
  /-- LINK_REQ_RESEND (R315). A request unanswered for 100 µs is resent; after 8 sends the command completes with TIMEOUT. -/
  | linkReqResend (port : Fin 8)
  /-- BACKOFF_END (R314). After an equal-node-ID collision the back-off expires and the request is sent again. -/
  | backoffEnd (port : Fin 8)
  /-- EPOCH (R552). A received EPOCH symbol fixes the next epoch's frequency and is forwarded to timing children. -/
  | epoch (n : Fin 20) (arg : BitVec 26)
  /-- HOLD_RAISE (R339). A received HOLD_RAISE symbol is merged into the subtree count or, downward, fixes the freeze at s + HORIZON. -/
  | holdRaise (n : Fin 20) (arg : BitVec 26)
  /-- HOLD_RELEASE (R339). A received HOLD_RELEASE symbol is merged upward or, downward, fixes the freeze end at s' + HORIZON. -/
  | holdRelease (n : Fin 20) (arg : BitVec 26)
  /-- STEP_FAULT (R340). A flooded STEP_FAULT symbol is forwarded and starts the span's rerun from the smallest fault cycle. -/
  | stepFault (n : Fin 20) (arg : BitVec 26)
  /-- SPAN_END (R340). A flooded SPAN_END symbol is forwarded and ends the dispatch at its stamp plus HORIZON. -/
  | spanEnd (n : Fin 20) (arg : BitVec 26)
  /-- HOLD_UPWARD_SEND (R337). At s + 24 + h(m) a non-root member sends its subtree's HOLD_RAISE or HOLD_RELEASE to its parent. -/
  | holdUpwardSend (p : Fin 64)
  /-- HOLD_DOWNWARD_SEND (R338). At s + 24 + Dmax the root sends the span's HOLD_RAISE or HOLD_RELEASE down the tree. -/
  | holdDownwardSend (p : Fin 64)
  /-- HAWKER (R362). A received HAWKER marker announces a ring boundary, calibration start, halt or fault and is forwarded. -/
  | hawker (n : Fin 20) (arg : BitVec 26)
  /-- SPAN_FORM (R326). A received SPAN_FORM record advances formation; the root computes H and sends it down, and receipt of H completes SPAN_JOIN. -/
  | spanForm (n : Fin 20) (r : FormRecord)
  /-- SPAN_JOIN_TIMEOUT (R327). Formation incomplete 1 s after SPAN_JOIN completes it with status TIMEOUT. -/
  | spanJoinTimeout (p : Fin 64)
  /-- DISPATCH_POST (R334). A received DISPATCH_POST record is queued with its start cycle and forwarded on other tree ports. -/
  | dispatchPost (n : Fin 20) (r : PostRecord)
  /-- MODULE_LOST (R344). A tree port whose last sheaf left ACTIVE without return for 100 µs declares its neighbour lost and sends SPAN_END. -/
  | moduleLost (port : Fin 8)
  /-- LINK_LOST (R350). A received LINK_LOST record is forwarded once and the route table is recomputed. -/
  | linkLost (n : Fin 20) (a : BitVec 13) (b : BitVec 13)
  /-- LINK_RESTORED (R350). A received LINK_RESTORED record is forwarded once and the route table is recomputed. -/
  | linkRestored (n : Fin 20) (a : BitVec 13) (b : BitVec 13)
  /-- SERVE_CHOICE (R396). A received SERVE_CHOICE record adds the cut's choice count to the partition's counter or pending count and is acknowledged up. -/
  | serveChoice (n : Fin 20) (span : BitVec 12) (round : DWord) (count : Word)
  /-- SERVE_CHOICE_ACK (R396). When all acknowledgements reach the head it writes the slot rows of the next round. -/
  | serveChoiceAck (n : Fin 20) (span : BitVec 12) (round : DWord)
  /-- FREQ_DEMAND (R551). A received FREQ_DEMAND record updates the subtree's lowest demand and is forwarded to the timing parent. -/
  | freqDemand (n : Fin 20) (node : BitVec 13) (fcode : BitVec 6) (reasons : BitVec 5)
  /-- RING_ROW (R369). A ring row reaching a member's tap starts, continues or misses takes and marks damaged frames. -/
  | ringRow (n : Fin 20) (tag : BitVec 64) (data : Row)
  /-- CUT (R392). When a round's output is complete, the Serving Unit posts replies, applies cancels, swaps and adapters, and admits requests in Table 14.5 order. -/
  | cut (p : Fin 64)
  /-- ADMISSION_ROWS_LANDED (R392). When the cut's admission rows have landed the head sends SERVE_CHOICE or writes the next round's slot rows. -/
  | admissionRowsLanded (p : Fin 64)
  /-- HUB_WRITE_REQUEST (R391). An HE_DSEND kind 2 row reaches its hub window target and counts toward the round's output. -/
  | hubWriteRequest (port : Fin 4)
  /-- REQ_TAIL (R386). A write to SERVE.REQ_TAIL exposes request entries for the next cut, or is dropped if out of range. -/
  | reqTail (p : Fin 64) (v : Word)
  /-- REP_HEAD (R387). A write to SERVE.REP_HEAD[k] frees reply ring space and moves overflow replies to the ring. -/
  | repHead (p : Fin 64) (k : Fin 16) (v : Word)
  /-- ADAPTER_PLACED (R409). Every member reports its adapter copy placed; the generation becomes current at the next cut. -/
  | adapterPlaced (p : Fin 64) (slot : Fin 16)
  /-- ADAPTER_LOAD_TIMEOUT (R408). A shadow copy not free within 100 ms fails ADAPTER_LOAD with NO_RESOURCE. -/
  | adapterLoadTimeout (p : Fin 64) (slot : Fin 16)
  /-- SWAP_CHECK_DONE (R435). All members report a clean check pass and the variant is in place. -/
  | swapCheckDone (p : Fin 64) (bad : Option Nat)
  /-- SWAP_WRITE_PASS_START (R437). When the span has no dispatch running or queued, each member writes the variant's backed rows. -/
  | swapWritePassStart (p : Fin 64)
  /-- SWAP_WRITE_PASS_DONE (R437). When every member finishes the write pass, pins move, MODEL_SWAP completes and held dispatches are posted. -/
  | swapWritePassDone (p : Fin 64) (bad : Option Nat)
  /-- PATROL_READ (R423). The patrol reads every block of every region once each 24 hours. -/
  | patrolRead (block : Nat) (glitch : Bool)
  /-- WCK2DQ_RETRAIN (R428). Every 64 ms a Granary channel retrains; three failures make the Granary unavailable. -/
  | wck2dqRetrain (ch : Fin 32) (ok : Bool)
  /-- FENCE (R450). A hub processor fence completes when all its earlier writes have taken effect. -/
  | fence (rq : Requester)
  /-- FABRIC_TIMEOUT (R456). A non-posted request without response, or a posted write not accepted, for 1 ms ends with an error. -/
  | fabricTimeout (port : Fin 9) (posted : Bool) (off : BitVec 24)
  /-- LOCK_ACQUIRE (R461). The SP acquires a lock on one lockable range with a time limit. -/
  | lockAcquire (range : LockRange) (limit : Nat)
  /-- HWIN_WRITE (R457). A write to FAB.HWIN is applied, or dropped with WINDOW_BUSY while a dispatch is running or queued. -/
  | hwinWrite (rq : Requester) (off : BitVec 24) (v : Word)
  /-- CMDQ_ENABLE (R472). Writing CMDQ.CTL.ENABLE from 0 to 1 checks the ring setup and starts the rings. -/
  | cmdqEnable (f : Fin 65) (v : Word)
  /-- CMDQ_DISABLE (R476). Writing CMDQ.CTL.ENABLE to 0 stops packet reads; RUNNING clears when nothing is in flight. -/
  | cmdqDisable (f : Fin 65) (v : Word)
  /-- DOORBELL (R473). A write to CMDQ.DOORBELL.TAIL exposes pending packets, or sets ERROR if out of range. -/
  | doorbell (f : Fin 65) (v : Word)
  /-- PACKET_READ (R474). The MP reads the packet at HEAD when reply room allows and checks opcode, view and partition. -/
  | packetRead (f : Fin 65) (fail : Bool)
  /-- PING (R493). Returns VALUE and SYS.FWVER. -/
  | ping (k : Packet)
  /-- QUERY_INFO (R494). Returns module or partition information. -/
  | queryInfo (k : Packet)
  /-- PART_CREATE (R510). Creates and zeroizes a partition. -/
  | partCreate (k : Packet)
  /-- PART_DESTROY (R511). Ends work, drains, zeroizes and closes a partition. -/
  | partDestroy (k : Packet)
  /-- SPAN_JOIN (R326). Joins the partition to a span and starts formation. -/
  | spanJoin (k : Packet)
  /-- SPAN_LEAVE (R348). Removes the partition from its span and unloads its image. -/
  | spanLeave (k : Packet)
  /-- IMAGE_LOAD (R498). Verifies, checks and places a Gheson image on the partition. -/
  | imageLoad (k : Packet)
  /-- IMAGE_VERIFY (R525). Checks an image's signature and returns its digest. -/
  | imageVerify (k : Packet)
  /-- DISPATCH (R487). Posts or queues a dispatch of an entry point on the span. -/
  | dispatch (k : Packet)
  /-- HALT (R495). Cancels queued dispatches and, with RUNNING, ends the running one by SPAN_END. -/
  | halt (k : Packet)
  /-- STEP_STATUS (R494). Returns the partition's dispatch state, choice count and REPRO bits. -/
  | stepStatus (k : Packet)
  /-- GRANARY_PUT_CREATE (R424). Creates a Granary region of a size for an owner. -/
  | granaryPutCreate (k : Packet)
  /-- GRANARY_PUT_FREE (R425). Frees a Granary region. -/
  | granaryPutFree (k : Packet)
  /-- GRANARY_PUT_WRITE (R425). Copies host memory into a region. -/
  | granaryPutWrite (k : Packet)
  /-- GRANARY_GET_READ (R425). Copies a region's bytes to host memory. -/
  | granaryGetRead (k : Packet)
  /-- GRANARY_GET_INFO (R424). Returns a region's directory entry. -/
  | granaryGetInfo (k : Packet)
  /-- MODEL_SWAP (R434). Checks a variant and starts its check pass on every member. -/
  | modelSwap (k : Packet)
  /-- ADAPTER_LOAD (R408). Verifies an adapter image and posts its placement into the shadow copy. -/
  | adapterLoad (k : Packet)
  /-- ADAPTER_RETIRE (R411). Retires an adapter slot at the next cut. -/
  | adapterRetire (k : Packet)
  /-- SERVE_OPEN (R380). Opens the span's serving context. -/
  | serveOpen (k : Packet)
  /-- SERVE_CLOSE (R413). Closes the serving context at the next cut. -/
  | serveClose (k : Packet)
  /-- LINK_TRAIN (R310). Requests a retrain of named sheaves of a port. -/
  | linkTrain (k : Packet)
  /-- LINK_WIDTH (R312). Requests a new keep mask for a port. -/
  | linkWidth (k : Packet)
  /-- LINK_STATUS (R494). Returns a sheaf's status registers. -/
  | linkStatus (k : Packet)
  /-- FREQ_SET (R496). Sets the module's frequency ceiling from the next agreed epoch boundary. -/
  | freqSet (k : Packet)
  /-- POWER_STATE (R497). Moves the module or the partition's Stalls to a power state. -/
  | powerState (k : Packet)
  /-- LEDGER_READ (R500). Writes a consistent snapshot of the partition's Ledger counters to the host. -/
  | ledgerRead (k : Packet)
  /-- LEDGER_SEAL (R529). Writes a sealed Ledger record with a nonce. -/
  | ledgerSeal (k : Packet)
  /-- AUX_LOOPBACK (R502). Brings an auxiliary sheaf up blind and sends test rows for a duration. -/
  | auxLoopback (k : Packet)
  /-- FUNCTION_LEVEL_RESET (R504). A virtual function's FLR clears its CMDQ registers; in-flight replies are discarded. -/
  | functionLevelReset (k : Fin 64)
  /-- FLUSH_RECORD (R572). Before each flush record the cell is checked against V_STOP and the record is written and confirmed. -/
  | flushRecord (mv : Nat) (confirmed : Bool)
  /-- CELL_READY_CHANGE (R569). CELL_READY changes; waiting PART_CREATE commands proceed or CELL_NOT_READY is raised. -/
  | cellReadyChange (ready : Bool) (mv : Half)
  /-- ISO_STATUS_FRAME (R536). A status or loss frame arrives from the busbar-side controller over the isolator. -/
  | isoStatusFrame (f : IsoFrame)
  /-- SKEW_TRIM (R547). Every 256 cc the PP trims the Field deskew delay lines. -/
  | skewTrim (skew : Vector Half 4)
  /-- GUARD_BAND_END (R558). A Field's 2 ms at V_GB after a droop alarm ends. -/
  | guardBandEnd (f : Fin 4)
  /-- ADC_SAMPLE (R563). Every 5 µs the telemetry ADC takes one sample and advances the rail's energy integrator. -/
  | adcSample (code : BitVec 12) (dip : Option Nat)
  /-- TRIGGER (R561). A write of 1 to TELEM.TRIGGER runs the telemetry sequence once. -/
  | trigger (v : Word)
  /-- THERMAL_TRIP (R568). A temperature of 115 °C for 1 ms takes the module to M2. -/
  | thermalTrip (ch : Fin 24) (deg : Nat)
  /-- STALL_WAKE_DONE (R544). A Stall completes its wake from S2 or S3; from S3 it clears its scratchpad and unloads the image. -/
  | stallWakeDone (st : Fin 64)
  /-- ADDR_ASSIGN (R591). Chain broadcast assigning the module's chain address. -/
  | addrAssign (f : ChainFrame)
  /-- CHAIN_READ (R590). Chain command reading operator-view registers. -/
  | chainRead (f : ChainFrame)
  /-- CHAIN_WRITE (R590). Chain command writing CHAIN registers, PWR.LIMIT or SYS.RESET. -/
  | chainWrite (f : ChainFrame)
  /-- SET_NODE (R594). Chain command setting LINK.NODE and LINK.TORUS. -/
  | setNode (f : ChainFrame)
  /-- WAKE (R590). Chain command waking the module from M2 to M1. -/
  | wake (f : ChainFrame)
  /-- RESET (R600). Chain command requesting a warm or cold reset. -/
  | reset (f : ChainFrame)
  /-- ATTN_POLL (R592). Chain broadcast in which each module sets its bit if attention is pending. -/
  | attnPoll (f : ChainFrame)
  /-- ATTN_ACK (R590). Chain command clearing CHAIN.ATTN bits. -/
  | attnAck (f : ChainFrame)
  /-- FLASH_WRITE (R597). Chain command writing the inactive firmware bank or the key block. -/
  | flashWrite (f : ChainFrame)
  /-- FLASH_READ (R590). Chain command reading flash bytes. -/
  | flashRead (f : ChainFrame)
  /-- ENROLL_OWNER (R599). Chain command staging an owner public key. -/
  | enrollOwner (f : ChainFrame)
  /-- ENROLL_COMMIT (R599). Chain command fusing the staged owner key into slot 1. -/
  | enrollCommit (f : ChainFrame)
  /-- CHAIN_FRAME_FORWARD (R588). A chain frame not addressed to the module is forwarded downstream. -/
  | chainFrameForward (f : ChainFrame)
  /-- MOD_RESET_N (R604). A filtered low on MOD_RESET_N requests a warm or cold reset by its length: the level now, and
  for how many µs the input was low before a return to high, or has been low. -/
  | modResetN (level : Bool) (lowUs : Nat)
  /-- SYS_RESET_WARM (R600). A write to SYS.RESET with the key and kind 1 requests a warm reset. -/
  | sysResetWarm (v : Word)
  /-- SYS_RESET_COLD (R600). A write to SYS.RESET with the key and kind 2 requests a cold reset. -/
  | sysResetCold (v : Word)
  /-- BOOT_STAGE_DONE (R607). A boot stage completes and the next begins. -/
  | bootStageDone (r : BootReport)
  /-- STEM_PORT_DOWN (R609). A Stem port not locked 3 ms into stage STEM leaves its Field unreachable. -/
  | stemPortDown (port : Fin 4)
  /-- BYPASS (R584). JTAG BYPASS instruction. -/
  | bypass (tdi : Bool)
  /-- SAMPLE_PRELOAD (R584). JTAG SAMPLE/PRELOAD instruction. -/
  | samplePreload (cells : BitVec 6)
  /-- ERING_ENABLE (R617). Writing CMDQ.ERING_CTL.ENABLE from 0 to 1 checks the event ring setup and writes pending entries. -/
  | eringEnable (f : Fin 65) (v : Word)
  /-- EVENT_ENTRY_WRITE (R619). A received event admitted by the mask is written to the event ring or counted as lost. -/
  | eventEntryWrite (f : Fin 65) (fail : Bool)
  /-- ZEROIZATION_DONE (R515). A partition's zeroization completes (scratchpad clear of 12,288 cc, hub-side clear, lock release), so PART_CREATE or PART_DESTROY completes and a pending M2 entry can proceed. -/
  | zeroizationDone (p : Fin 64)
  /-- PLACEMENT_DONE (R498). The MP finishes placing an image's sections, pins the backing region and completes IMAGE_LOAD. -/
  | placementDone (p : Fin 64)
  /-- VERIFICATION_DONE (R525). The SP finishes hashing an image and checking its signature, completing IMAGE_VERIFY or letting IMAGE_LOAD, MODEL_SWAP or ADAPTER_LOAD go on or fail with SIGNATURE_FAIL. -/
  | verificationDone (p : Fin 64)
  /-- GRANARY_COPY_DONE (R425). A GRANARY_PUT WRITE or GRANARY_GET READ copy finishes, or meets a bad block, and the command completes. -/
  | granaryCopyDone (f : Fin 65) (tag : Word) (glitch : Bool)
  /-- PCIE_CONFIG_ACCESS (R608). A host PCIe configuration access is answered with Request Retry Status before stage HUB, and otherwise applies SR-IOV settings such as NumVFs. -/
  | pcieConfigAccess (numVfs : Option (BitVec 7))
  /-- BRIDGE_ROW_READ (R445). A bank serves a waiting Stem configuration bridge row read at rank 7. -/
  | bridgeRowRead
  /-- RING_ROW_DEPART (R358). DELAY cc after reaching the tap, a ring row leaves the member on its ring-out. -/
  | ringRowDepart
  /-- REVOLUTION_BOUNDARY (R362). At RING_T0 + n × REV_LEN the ring applies pending transitions and the origin sends the boundary marker. -/
  | revolutionBoundary
  /-- LOCK_RELEASE (R462). At release all staged writes take effect in one cycle, then held writes. -/
  | lockRelease
  /-- LOCK_EXPIRED (R464). A lock's time limit expires; staged writes are discarded. -/
  | lockExpired
  /-- DRAIN_END (R466). At warm reset the posted-write drain ends after 10 µs or when empty, dropping undrained writes. -/
  | drainEnd
  /-- CHECKPOINT (R531). Every 131,072 ticks the Ledger writes a CHECKPOINT for each existing partition. -/
  | checkpoint
  /-- GRAN_MIB_SECONDS (R527). Every 32,768 ticks each partition's owned region MiB are added to its counter. -/
  | granMibSeconds
  /-- JOURNAL_WRITE (R539). A record waiting in the journal buffer is written to flash. -/
  | journalWrite
  /-- BUSBAR_LOSS (R570). On busbar loss the always-on domain moves to the cell, other rails go off and the flush begins. -/
  | busbarLoss
  /-- BUSBAR_VALID (R574). The busbar is valid again; the restart follows once any flush has ended. -/
  | busbarValid
  /-- CELL_OFF (R569). The cell falls to V_OFF; the always-on domain switches off and the module is in M3. -/
  | cellOff
  /-- ISO_LINK_LOST (R536). No valid isolator frame for 50 µs applies a 1,000 W limit. -/
  | isoLinkLost
  /-- EPOCH_DECISION (R552). In cycle 65,536e + 32,768 the root fixes the next epoch's FCODE and sends EPOCH. -/
  | epochDecision
  /-- EPOCH_BOUNDARY (R546). At each epoch boundary the Fields switch PLL, energy is attributed and boundary-timed changes take effect. -/
  | epochBoundary
  /-- EPOCH_MISSED (R555). No EPOCH symbol by cycle 65,536e + 49,152 keeps the frequency and raises EPOCH_MISSED. -/
  | epochMissed
  /-- TELEM_PERIOD_TRIGGER (R561). Every PERIOD µs the PP timer triggers the telemetry sequence. -/
  | telemPeriodTrigger
  /-- BRAKE_ASSERT (R565). A low on PWR_BRAKE_N passing the 2 µs filter asserts the brake. -/
  | brakeAssert
  /-- BRAKE_RELEASE (R565). PWR_BRAKE_N high for 200 µs releases the brake. -/
  | brakeRelease
  /-- MODULE_WAKE_DONE (R540). The module reaches M1 after a wake request. -/
  | moduleWakeDone
  /-- ATTN_PULSE (R592). While attention holds, the module pulses CHN_ATTN_N low once a second when the line is free. -/
  | attnPulse
  /-- ATTN_STUCK (R593). CHN_ATTN_N low for over 100 ms sets ATTN_STUCK or ATTN_STUCK_EXT. -/
  | attnStuck
  /-- WATCHDOG (R606). The MP watchdog unserviced for 1 s requests a warm reset. -/
  | watchdog
  /-- POWER_ON_RESET (R607). The always-on domain starts and every domain resets and boots. -/
  | powerOnReset
  /-- COLD_RESET (R602). A cold reset takes effect after checkpoints: all but the always-on domain reset, self-test, training and replay run. -/
  | coldReset
  /-- WARM_RESET (R601). A warm reset drains writes, closes partitions, zeroes hub SRAM and clears scratchpads. -/
  | warmReset
  /-- PCIE_RESET (R603). PERST_N or PCIe link down resets the PCIe interface and faults serving contexts. -/
  | pcieReset
  /-- IDCODE (R584). JTAG IDCODE instruction. -/
  | idcode
  /-- EXTEST (R584). JTAG EXTEST instruction, effective only while MOD_RESET_N is low. -/
  | extest
  /-- LOOPBACK_DURATION_END (R502). The stated duration of a DIAG AUX_LOOPBACK expires; the sheaf returns to DISABLED and the command completes with its counts. -/
  | loopbackDurationEnd
  /-- LOOPBACK_LOCK_TIMEOUT (R502). An auxiliary sheaf in DIAG AUX_LOOPBACK that has not locked within 10 ms completes the test with status TIMEOUT. -/
  | loopbackLockTimeout
deriving DecidableEq, Repr

end Sys2Proof
end

