-- ==== Sys2Proof/Config.lean ====
section
/-! DEFINITION. What the spec leaves to the silicon or leaves open. Each constant is opaque: nothing
can be proved about its value, so every statement holds for every value of it. -/

namespace Sys2Proof.Config

/-- SYS.ID.STEPPING, fixed at manufacture (01 R29), brought into the range 2 to 15 that R1 gives where it is read. Log 5. -/
opaque stepping : BitVec 4
/-- SYS.ID.METAL, fixed at manufacture (01 R29). Log 5. -/
opaque metal : BitVec 4
/-- SYS.FWVER.MINOR and BUILD of the firmware in bank 0 (A) or 1 (B) (01 R30). Log 5. -/
opaque fwMinorBuild : Bool → BitVec 24
/-- SEC.UID, the module's unique ID (18 R534). Log 5. -/
opaque uid : BitVec 64
/-- KEY_ID of the ledger seal key (18 R530). Log 5. -/
opaque keyId : BitVec 8
/-- The 384-bit ledger seal key that the SP derives (18 R530); no view reads it (R521). Log 5. -/
opaque sealKey : List Byte
/-- Slot 0 of the key store: Wernaef's firmware key as 97 bytes (18 Table 18.6). Log 5. -/
opaque firmwareKey : List Byte
/-- The back-off of a link request in steps of 10 ns, for sheaf and try, before it is brought into
the range 1,000 to 5,000 that R314 gives. Log 6. -/
opaque backoff : Nat → Nat → Nat
/-- A value the spec says is undefined or does not state, the n-th one drawn. Log 7. -/
opaque freeWord : Nat → BitVec 32
/-- The current and voltage per ADC code are not stated, so the energy in µJ that one sample adds is
open: for a rail, its current code, its voltage code and the elapsed nanoseconds. Log 8. -/
opaque sampleEnergy : Nat → Nat → Nat → Nat → Nat

/-- The temperature in °C that an ADC code of a temperature channel stands for, which is not stated. Log 8. -/
opaque celsius : Nat → Nat
/-- The cell voltage in mV that an ADC code of channel 16 stands for, which is not stated. Log 8. -/
opaque cellMilliVolt : Nat → Nat

/-- The start value of PRBS13 of a lane position, of which the spec states only what it is taken from (11 R295). Log 65. -/
opaque prbsSeed : Nat → BitVec 13
/-- The 128 bytes of a control record of kind 0x02 to 0x07 with its values: the spec names what they carry and gives no
layout (12 R326, R334, R350, 14 R396, 19 R551). Log 65. -/
opaque recordRow : Nat → List Nat → Vector (BitVec 32) 32
/-- The n-th test row slot of a sheaf that is up blind, whose contents are not stated (11 R297). Log 65. -/
opaque testSlot : Nat → BitVec 1088

end Sys2Proof.Config
end

