-- ==== Sys2Proof/Machine/Bits.lean ====
section
/-! DEFINITION. Bit fields, little-endian words and saturating counters (00 R6, R7, R12). -/

namespace Sys2Proof.Machine

/-- The field [hi:lo] of a word, as a number (00 R6). -/
def fld {n : Nat} (w : BitVec n) (hi lo : Nat) : Nat := w.toNat / 2 ^ lo % 2 ^ (hi + 1 - lo)

/-- Bit i of a word. -/
def bit {n : Nat} (w : BitVec n) (i : Nat) : Bool := w.getLsbD i

/-- A Bool as 0 or 1. -/
def b2n (b : Bool) : Nat := if b then 1 else 0

/-- A word put together from (value, lowest bit) pairs. -/
def pack (l : List (Nat × Nat)) : Word :=
  l.foldl (fun w e => w ||| BitVec.ofNat 32 (e.1 * 2 ^ e.2)) 0

/-- A 32-bit counter that saturates at 0xFFFF_FFFF. -/
def satAdd (w : Word) (n : Nat) : Word := BitVec.ofNat 32 (min (w.toNat + n) 0xFFFFFFFF)

/-- Low and high words of a 64-bit quantity (00 R11). -/
def loW (d : DWord) : Word := d.setWidth 32
def hiW (d : DWord) : Word := (d >>> 32).setWidth 32
/-- The 64-bit quantity of two words, low word first (00 R11). -/
def dword (lo hi : Word) : DWord := hi ++ lo

/-- The four bytes of a word, least significant first (00 R7). -/
def wordBytes (w : Word) : List Byte :=
  [w.setWidth 8, (w >>> 8).setWidth 8, (w >>> 16).setWidth 8, (w >>> 24).setWidth 8]

/-- The word of four bytes, least significant first (00 R7). -/
def bytesWord (b0 b1 b2 b3 : Byte) : Word := b3 ++ b2 ++ b1 ++ b0

/-- The bytes of a list of words. -/
def wordsBytes (ws : List Word) : List Byte := ws.flatMap wordBytes

/-- The words of a list of bytes; a last short word is filled with zero bytes. -/
def bytesWords : List Byte → List Word
  | a :: b :: c :: d :: l => bytesWord a b c d :: bytesWords l
  | [] => []
  | [a] => [bytesWord a 0 0 0]
  | [a, b] => [bytesWord a b 0 0]
  | [a, b, c] => [bytesWord a b c 0]

/-- The little-endian number of a list of bytes. -/
def bytesNat : List Byte → Nat
  | [] => 0
  | b :: l => b.toNat + 256 * bytesNat l

/-- n little-endian bytes of a number. -/
def natBytes : Nat → Nat → List Byte
  | 0, _ => []
  | n + 1, v => BitVec.ofNat 8 v :: natBytes n (v / 256)

/-- Bytes as a big-endian number. -/
def beNat (l : List Byte) : Nat := l.foldl (fun n b => 256 * n + b.toNat) 0

/-- The positions of the ones of a mask, below n. -/
def ones {k : Nat} (n : Nat) (m : BitVec k) : List Nat := (List.range n).filter (fun i => m.getLsbD i)

/-- How many bits of a mask are set. -/
def popCount {k : Nat} (m : BitVec k) : Nat := (ones k m).length

/-- i as an index below n + 1, taken modulo n + 1. -/
def fin (n i : Nat) : Fin (n + 1) := ⟨i % (n + 1), Nat.mod_lt _ (Nat.succ_pos n)⟩

/-- Round-up division. -/
def ceilDiv (a b : Nat) : Nat := (a + b - 1) / b

/-- The number of bits a number takes. -/
def bitLen (n : Nat) : Nat := if n = 0 then 0 else n.log2 + 1

end Sys2Proof.Machine
end

