-- ==== Sys2Proof/Machine/State.lean ====
section
/-! DEFINITION. The state of the module as plain data: every piece of state the spec gives it, the
model's own bookkeeping (marked MODEL), and `State.reset`. Each field's docstring ends with the file
and rule of spec/ that gives it and its reset value. -/

namespace Sys2Proof.Machine

/-- Sparse bytes: addresses strictly rising, no byte 0 listed; an unlisted address reads 0 (log 2). -/
abbrev Mem := List Host.Cell
/-- Sparse entries by key, keys strictly rising. -/
abbrev Tab (α : Type) := List (Nat × α)

/-- What a row on its way to a Stall belongs to: a transfer of its Hop Engine (10 R277), a take (13 R368),
serving input (14 R391), a refetch (04 R126: its row is a physical one), or nothing that waits for it. -/
inductive Via where
  | plain
  | refetch
  | fetch (fid : Nat)
  | take (entry : Nat)
  | serving
deriving DecidableEq, Repr

/-- A row on its way to a Stall (10 R279): destination logical row, words, mask of words whose parity bit
is inverted, tally counter if enabled, span ID carried, whether it came from a sheaf, the Stall of this module whose
Hop Engine sent it, and what it belongs to. -/
structure Arrival where
  row    : BitVec 19
  data   : Row
  bad    : Word
  ctr    : Option (BitVec 9)
  span   : BitVec 12
  sheaf  : Bool
  src    : Option (Fin 64)
  via    : Via
deriving DecidableEq, Repr

/-- State of a row marked POISON (04 Table 4.5). -/
inductive PoisonMark where
  | refetching
  | held
deriving DecidableEq, Repr

/-- An entry of STALL.POISON_LOG (04 Table 4.8). -/
structure PoisonEntry where
  state   : BitVec 2
  foundBy : BitVec 2
  row     : BitVec 19
deriving DecidableEq, Repr

/-- An outstanding refetch (04 R126): row, Granary row, the time of issue in ps, and the row's contents once they have
come and wait to be written (04 R111). -/
structure Refetch where
  row   : BitVec 19
  gran  : BitVec 33
  since : Nat
  data  : Option Row
deriving DecidableEq, Repr

/-- Who makes the accesses of a scheduled operation: its bundle slot, its AGENT code, the descriptor index it named and
that descriptor's TAG (08 Table 8.8). -/
structure Agent where
  slot  : Nat
  agent : Byte
  desc  : Byte
  tag   : Word
deriving DecidableEq, Repr

/-- The precision word (05 Table 5.4): low and high words. -/
structure Prec where
  lo : Word
  hi : Word
deriving DecidableEq, Repr

/-- The scratchpad of a Stall and the units beside it. -/
structure Pad where
  /-- Scratchpad bytes by physical byte address, 48 MiB. [04 R102] reset 0 (R517). -/
  mem      : Mem
  /-- Words (32 × row + word) whose stored parity bit is wrong. [04 R121] reset none (R517). -/
  badPar   : List Nat
  /-- POISON marks by physical row, with the finder's code (Table 4.8). [04 R122] reset none (R517). -/
  poison   : Tab (PoisonMark × BitVec 2)
  /-- STALL.POISON_LOG, oldest first, at most 32. [04 R135] reset empty. -/
  log      : List PoisonEntry
  /-- MEM_STATUS.TALLY_OVF. [04 Table 4.7] reset 0. -/
  tallyOvf : Bool
  /-- MEM_STATUS.SCRUB_LATE. [04 Table 4.7] reset 0. -/
  scrubLate : Bool
  /-- MEM_STATUS.LOG_OVF. [04 Table 4.7] reset 0. -/
  logOvf   : Bool
  /-- MEM_STATUS.TALLY_IDX, 9 bits. [04 Table 4.7] reset 0. -/
  tallyIdx : BitVec 9
  /-- LOG_OVF and SCRUB_LATE were set in this cc (00 R15). MODEL, reset DESIGN CHOICE none (log 10). -/
  bitsNew  : Bool × Bool
  /-- STALL.SCRUB_STATUS passes, 16 bits. [04 R136] reset 0. -/
  passes   : Half
  /-- STALL.SCRUB_STATUS next bank row due, 14 bits. [04 R136] reset DESIGN CHOICE 0 (log 9). -/
  scrubRow : BitVec 14
  /-- Bank row of the scrub read in progress. [04 R130] reset DESIGN CHOICE 0 (log 9). -/
  scrubCur : BitVec 14
  /-- Banks whose scrub read has not been served. [04 R130] reset DESIGN CHOICE none (log 9). -/
  scrubWait : List (Fin 32)
  /-- Banks whose waiting scrub read has rank 5. [04 R130] reset DESIGN CHOICE none (log 9). -/
  scrubHot : List (Fin 32)
  /-- Ticks spent in S0 and S1. [04 R132] reset DESIGN CHOICE 0 (log 9). -/
  scrubTicks : Nat
  /-- Value of those ticks when the last bank row issued. [04 R130] reset DESIGN CHOICE 0 (log 9). -/
  scrubIssued : Nat
  /-- Value of those ticks when the pass began. [04 R132] reset DESIGN CHOICE 0 (log 9). -/
  scrubPass : Nat
  /-- SCRUB_LATE already raised in this pass. [04 R132] reset DESIGN CHOICE false (log 9). -/
  scrubTold : Bool
  /-- STALL.CONFLICTS, 32 bits. [04 R136] reset 0. -/
  conflicts : Word
  /-- Arrival writes deferred to the next cc. [04 R108] reset DESIGN CHOICE none (log 9). -/
  deferred : List Arrival
  /-- Receive buffer, at most 64 row writes. [04 R111] reset DESIGN CHOICE empty (log 9). -/
  rx       : List Arrival
  /-- Rows waiting for a refetch, in row order. [04 R126] reset DESIGN CHOICE none (log 9). -/
  refWait  : List Nat
  /-- Outstanding refetches, at most 16. [04 R126] reset DESIGN CHOICE none (log 9). -/
  refOut   : List Refetch
  /-- Physical rows that a deferred write reached at rank 1 in this cc (04 R108). MODEL, reset DESIGN CHOICE none (log 10). -/
  first    : List Nat
  /-- Physical rows that scheduled engine accesses of this cc were served, each a write or a read (04 R107, rank 2). MODEL,
  reset DESIGN CHOICE none (log 10). -/
  acc      : List (Nat × Bool)
  /-- Banks that served a request of rank 3 to 8 in this cc. MODEL, reset DESIGN CHOICE none (log 10). -/
  served   : List Nat
deriving DecidableEq, Repr

/-- A loop counter with its recorded start count (09 R242). -/
structure Loop where
  cur   : BitVec 24
  start : BitVec 24
deriving DecidableEq, Repr

/-- A key pair of compare-and-count (04 R119). -/
structure KeyPair where
  k : Word
  l : Word
deriving DecidableEq, Repr

/-- The updates of one tally counter in the current cc (04 Table 4.3): its value at the start of the cc,
the value a TALLY_SET writes, the sum of the subtractions, the sum of the additions. MODEL. -/
structure TallyCc where
  ctr   : Nat
  start : Nat
  set   : Option Nat
  subs  : Nat
  adds  : Nat
deriving DecidableEq, Repr

/-- Sequencer state (09 Table 9.9): 0 idle, 1 issuing, 2 frozen is read from the dispatch, 3 ended by
fault; `ended` is after END and reads as idle. -/
inductive SeqState where
  | idle
  | issuing
  | ended
  | faulted
deriving DecidableEq, Repr

/-- A raised Hold (02 R47, 09 R241): its counter, threshold and consume flag, or none for a zero-skip
run; the raise cycle, global and schedule, and the release cycle once released. -/
structure RaisedHold where
  wait     : Option (BitVec 9 × BitVec 24 × Bool)
  raised   : Nat
  sched    : Nat
  released : Option Nat
deriving DecidableEq, Repr

/-- The record of a step boundary (02 R55, 09 R244): schedule cycle and global cycle, STEP_ID, tally counters, PC, loop
counters, key pairs. -/
structure StepRec where
  cyc   : Nat
  glob  : Nat
  id    : Word
  tally : Vector (BitVec 24) 512
  pc    : BitVec 14
  loops : Vector Loop 8
  keys  : Vector KeyPair 16
deriving DecidableEq, Repr

/-- A capture set of the Stall (08 R634): VALID with the captured words. -/
structure Capture where
  valid : Bool
  /-- KIND or CODE. -/
  kind  : Byte
  /-- SLOT or AGENT. -/
  agent : Byte
  more  : Byte
  /-- TALLY, BANK and ROW of HZ_ADDR; logical row of XF_ADDR; PC of SQ_FAULT. -/
  addr  : Word
  /-- XF_TAG. -/
  tag   : Word
  /-- XF_STATUS.DESC. -/
  desc  : Byte
  write : Bool
  cc    : DWord
deriving DecidableEq, Repr

/-- The Stall Sequencer. -/
structure Seq where
  /-- SQ_STATUS.STATE. [09 Table 9.9] reset 0 (idle). -/
  state   : SeqState
  /-- PC, 14 bits. [09 R231] reset 0. -/
  pc      : BitVec 14
  /-- Store address named by a control operation of the bundle issued. [09 R231] reset none. -/
  branch  : Option (BitVec 14)
  /-- A bundle issued in this cc. MODEL, reset DESIGN CHOICE false (log 10). -/
  issued  : Bool
  /-- PC has passed 16,383 without a branch. [09 R249] reset false. -/
  past    : Bool
  /-- Global cycle in which END issued. [09 R246] reset DESIGN CHOICE none (log 9). -/
  endedAt : Option Nat
  /-- A loop counter written in this cc, with its value and start count at the start of the cc. MODEL,
  reset DESIGN CHOICE none (log 10). -/
  loopWas : Option (Nat × Loop)
  /-- Schedule cycle in which issue resumes after IDLE. [09 R243] reset DESIGN CHOICE none (log 9). -/
  idleTo  : Option Nat
  /-- Loop counters 0 to 7, 24 bits each, with start counts. [09 R242] reset 0. -/
  loops   : Vector Loop 8
  /-- Key pairs 0 to 15. [04 R119] reset DESIGN CHOICE 0 (log 1). -/
  keys    : Vector KeyPair 16
  /-- Bundle store, 16,384 bundles of 256 bits. [09 R249] reset DESIGN CHOICE 0 (log 1). -/
  store   : Tab (BitVec 256)
  /-- Store words (8 × bundle + word) with a wrong parity bit. [09 R252] reset DESIGN CHOICE none (log 1). -/
  storeBad : List Nat
  /-- SQ_STORE_VALID, 128 bits. [09 R249] reset 0. -/
  valid   : BitVec 128
  /-- Store lines that came from a BUNDLES section. [09 R252] reset DESIGN CHOICE none (log 1). -/
  fromImg : BitVec 128
  /-- Tally counters 0 to 511, 24 bits each. [04 R133] reset 0. -/
  tally   : Vector (BitVec 24) 512
  /-- Counters updated in this cc. MODEL, reset DESIGN CHOICE none (log 10). -/
  ccs     : List TallyCc
  /-- Raised Holds not yet past their release, oldest first. [09 R241] reset none. -/
  holds   : List RaisedHold
  /-- The three most recent step boundary records, newest first. [02 R55] reset DESIGN CHOICE none (log 9). -/
  recs    : List StepRec
  /-- Schedule cycle at which a rerun takes up issue, until the bundle there has issued again (02 R61). MODEL, reset DESIGN
  CHOICE none (log 10). -/
  redo    : Option Nat
  /-- SQ_SCHED: schedule cycle of the running or last dispatch, 64 bits. [09 Table 9.9] reset 0. -/
  sched   : Nat
  /-- SQ_FAULT with SQ_FAULT_CC. [09 Table 9.9] reset 0. -/
  fault   : Capture
  /-- SQ_STEP, 32 bits. [09 Table 9.9] reset 0. -/
  step    : Word
  /-- SQ_STEPS, 32 bits RS. [09 Table 9.9] reset 0. -/
  steps   : Word
  /-- SQ_REC_BASE: ENABLE and line. [09 Table 9.9] reset 0. -/
  recBase : Option (BitVec 14)
  /-- Record file, a mirror of the record window, by byte. [09 R234] reset DESIGN CHOICE 0 (log 1). -/
  recFile : Mem
  /-- Record file words with a wrong parity bit. [09 R234] reset DESIGN CHOICE none (log 1). -/
  recBad  : List Nat
deriving DecidableEq, Repr

/-- One accumulator (06 R162, R171): 40-bit value and the sticky saturation mark. -/
structure Acc where
  v   : BitVec 40
  sat : Bool
deriving DecidableEq, Repr

/-- The budget of a zero-skip run in progress (06 R175): the schedule cycles left until its implicit hold point, and
whether it has raised Hold there. -/
structure ZsRun where
  left   : Nat
  raised : Bool
deriving DecidableEq, Repr

/-- The Cube Array. -/
structure Cube where
  /-- The stationary tile's bit planes by byte of the tile. [06 R161] reset DESIGN CHOICE 0 (log 1). -/
  tile    : Mem
  /-- Column-axis table set by byte. [05 R144] reset DESIGN CHOICE 0 (log 1). -/
  colTab  : Mem
  /-- Row-axis table set by byte. [05 R145] reset DESIGN CHOICE 0 (log 1). -/
  rowTab  : Mem
  /-- 32 slots × 8 tokens × 512 accumulators of 40 bits, key 4096 × slot + 512 × t + j. [06 R162] reset 0. -/
  acc     : Tab Acc
  /-- CA_STATUS.LOADING. [06 Table 6.6] reset 0. -/
  loading : Bool
  /-- CA_STATUS.TILE_VALID. [06 Table 6.6] reset 0. -/
  valid   : Bool
  /-- CA_STATUS.TSET_LOADED. [06 Table 6.6] reset 0. -/
  tset    : Bool
  /-- CA_STATUS.WENC. [06 Table 6.6] reset 0. -/
  wenc    : Bool
  /-- CA_STATUS.WBITS. [06 Table 6.6] reset 0. -/
  wbits   : BitVec 3
  /-- CA_STATUS.WSIGN. [06 Table 6.6] reset 0. -/
  wsign   : Bool
  /-- CA_STATUS.TILE_ROW, 19 bits. [06 Table 6.6] reset 0. -/
  tileRow : BitVec 19
  /-- CA_ACC_SAT, 32 bits RS. [06 Table 6.7] reset DESIGN CHOICE 0 (log 1). -/
  accSat  : Word
  /-- CA_DROPPED, 32 bits RS. [06 Table 6.7] reset DESIGN CHOICE 0 (log 1). -/
  dropped : Word
  /-- CA_ZSKIP, 32 bits RS. [06 Table 6.7] reset DESIGN CHOICE 0 (log 1). -/
  zskip   : Word
  /-- CA_OVERRUN, 32 bits RS. [06 Table 6.7] reset DESIGN CHOICE 0 (log 1). -/
  overrun : Word
  /-- REQ_SAT, 32 bits RS. [05 R152] reset DESIGN CHOICE 0 (log 1). -/
  reqSat  : Word
  /-- STALL.SCALE[0..255]: M in [31:16], Z in [15:0]. [05 R150] reset 0. -/
  scale   : Vector Word 256
  /-- Zero-skip run in progress. [06 R175] reset DESIGN CHOICE none (log 9). -/
  zs      : Option ZsRun
  /-- Slots that a run of this step has written and no store has stored since (02 Table 2.2). MODEL, reset DESIGN CHOICE 0
  (log 11). -/
  live    : Word
  /-- Schedule cycle of the implicit hold point of the last zero-skip run, and the slots that it guards (02 Table 2.2).
  MODEL, reset DESIGN CHOICE none (log 11). -/
  guarded : Option (Nat × Word)
deriving DecidableEq, Repr

/-- The Log Engine or the Vector Engine (07 R186 to R200). -/
structure Lanes where
  /-- Constant registers 0 to 15, 32 bits. [07 R189] reset 0. -/
  const   : Vector Word 16
  /-- Opcode last accepted, STATUS[7:0]. [07 Table 7.5] reset DESIGN CHOICE 0 (log 1). -/
  opc     : Byte
  /-- LE_DROPPED or VE_DROPPED, 32 bits RS. [07 Table 7.5] reset DESIGN CHOICE 0 (log 1). -/
  dropped : Word
  /-- LE_SAT or VE_SPECIAL, 32 bits RS. [07 Table 7.5] reset DESIGN CHOICE 0 (log 1). -/
  cntA    : Word
  /-- LE_DOMAIN or VE_CVT_SAT, 32 bits RS. [07 Table 7.5] reset DESIGN CHOICE 0 (log 1). -/
  cntB    : Word
deriving DecidableEq, Repr

/-- The Layout Engine (08 R221, Table 8.7). -/
structure Layout where
  /-- LT_STATUS.TILE_PATH. [08 Table 8.7] reset 0. -/
  tilePath : Bool
  /-- LT_STATUS opcode. [08 Table 8.7] reset 0. -/
  opc     : Byte
  /-- LT_DROPPED, 32 bits RS. [08 Table 8.7] reset 0. -/
  dropped : Word
  /-- The 32 × 32-word transpose tile. [08 R225, 18 Table 18.3] reset DESIGN CHOICE 0 (log 1). -/
  xtile   : Tab Word
deriving DecidableEq, Repr

/-- A dynamic packet of one row (10 R281, R282): target kind 0 Stall, 1 node, 2 hub (window and HUB offset,
and whether the row begins a request of R447), the partition and Stall it comes from, the cycle from which
it is at its queue, and the row. -/
structure DynPkt where
  kind   : BitVec 2
  node   : BitVec 13
  stall  : Fin 64
  src    : Fin 64
  part   : Fin 64
  win    : BitVec 4
  off    : Int
  first  : Bool
  ready  : Nat
  arr    : Arrival
deriving DecidableEq, Repr

/-- A transfer in the dynamic queue (10 R277): the packets that may leave, none before an HE_DSEND has been read whole, and
the number of rows still to leave (HE_DSEND) or to land (HE_FETCH). -/
structure Xfer where
  fetch : Bool
  pkts  : List DynPkt
  left  : Nat
  fid   : Nat
deriving DecidableEq, Repr

/-- The Hop Engine (10 R274, Table 10.4). -/
structure Hop where
  /-- Dynamic queue, at most 32 transfers. [10 R277] reset 0. -/
  queue   : List Xfer
  /-- HE_STATUS: dynamic issues in the current step, 5 bits. [10 R278] reset 0. -/
  issues  : Nat
  /-- HE_DROPPED, 32 bits RS. [10 Table 10.4] reset 0. -/
  dropped : Word
  /-- HE_RX_FULL, 32 bits RS. [10 Table 10.4] reset 0. -/
  rxFull  : Word
deriving DecidableEq, Repr

/-- What an operation in progress has still to do, and what it holds from one of its cycles to the next (02 R39, R636). -/
inductive Work where
  /-- CNT toward a counter: the count (04 R120). -/
  | count (ctr : BitVec 9) (n : Nat)
  /-- CNT toward a row, or SCYC: the words to write from a word of a logical row (04 R120, 09 Table 9.5). -/
  | words (row word : Nat) (ws : List Word)
  /-- PAGE: first source row, first store line, and the line read in the last cycle with its wrong-parity words (09 R250). -/
  | page (row line : Nat) (held : List (BitVec 256)) (bad : List Nat)
  /-- CA_LOAD: the row bases of planes, column-axis and row-axis tables, and the number of planes (06 R168). -/
  | load (a0 a1 a2 planes : Nat) (book tset : Bool)
  /-- CA_RUN and CA_RUNT: the step in progress, the cycle in it, its passes done and the activation rows it has read
  (06 R170, R174, R177). -/
  | run (p : Prec) (transposed add : Bool) (base slot steps step cyc passes : Nat) (act : List Row)
  /-- CA_STORE: output row base and the rows to write (06 R173). -/
  | store (base : Nat) (rows : List Row)
  /-- An operation of the Log Engine or the Vector Engine: its record and iteration, results read and not yet written with
  what they add to the two counters, and the last result of a packed pair (07 R186, R193). -/
  | lanes (vec : Bool) (r : Vector Word 8) (k : Nat) (res : List (List Nat × Nat × Nat)) (prev : Nat)
  /-- VE_QPACK: its record and iteration, the codes of the tile in progress, each with whether it counts, and tiles to write:
  number, codes that count, rows (07 R197). -/
  | qpack (r : Vector Word 8) (k : Nat) (cur : List (Nat × Nat)) (tiles : List (Nat × Nat × List Row))
  /-- LDC: the words to load (07 R189). -/
  | ldc (vec : Bool) (ws : List Word)
  /-- LT_MOVE by the row path (w 1) or the line path (w 32): descriptors and rows read (08 R223, R224). -/
  | moveRows (sd dd : Vector Word 16) (w : Nat) (read : List (List Row))
  /-- LT_MOVE by the tile path: descriptors, the rows of the block before and of the block being read (08 R225). -/
  | moveTiles (sd dd : Vector Word 16) (old cur : List Row)
  /-- LT_GATHER and LT_SCATTER: the table, index base, other base, rows of a slice, rows a cycle, number of indices, the
  indices read, and rows read (08 R226, R227). -/
  | gather (scatter : Bool) (d : Vector Word 16) (ib ob rs w n : Nat) (idx : List Int) (read : List (List Row))
  /-- LT_FILL (08 R228). -/
  | fill (d : Vector Word 16)
  /-- HE_SEND: source and destination base, rows, rows a cycle, and the tag that its rows carry (10 R276). -/
  | send (src dst n rate : Nat) (ctr : Option (BitVec 9)) (span : BitVec 12)
  /-- HE_DSEND: its place in the dynamic queue, source base, rows read so far, and its packets (10 R277). -/
  | dsend (fid src got : Nat) (pkts : List DynPkt)
deriving DecidableEq, Repr

/-- An operation in progress on a Stall: the agent of its reads and of its writes, its opcode, the cycle of the operation
that comes next (0 is its issue cycle; frozen cycles do not count), for how many cycles its unit is busy, and how many
cycles it takes in all as far as it is known. -/
structure Op where
  ag   : Agent
  dst  : Agent
  opc  : Byte
  t    : Nat
  busy : Nat
  len  : Nat
  work : Work
deriving DecidableEq, Repr

/-- A Stall's Market router (10 R259 to R268). Ports: 0 N, 1 E, 2 S, 3 W, 4 L. -/
structure Router where
  /-- Owner partition of each output port. [10 R265] reset none. -/
  owner   : Vector (Option (Fin 64)) 5
  /-- Slot table of each output port, 4,096 one-byte entries. [10 R264] reset 0. -/
  slots   : Vector (Tab Byte) 5
  /-- MK_DROP, 32 bits RS. [10 Table 10.4] reset 0. -/
  drop    : Word
  /-- MK_DYN_WAIT, 32 bits RS. [10 Table 10.4] reset 0. -/
  dynWait : Word
  /-- Waiting dynamic packets of each input, at most 8. [10 R281] reset 0 (empty). -/
  inq     : Vector (List DynPkt) 5
  /-- Input at which each output's next search starts. [10 R281] reset 0. -/
  rr      : Vector (Fin 5) 5
  /-- Outputs that carried a scheduled row in this cc, and outputs that carried a dynamic packet. MODEL,
  reset DESIGN CHOICE none (log 10). -/
  held    : List (Fin 5)
  /-- See held. MODEL, reset DESIGN CHOICE none (log 10). -/
  sent    : List (Fin 5)
deriving DecidableEq, Repr

/-- A translation window (08 Table 8.6). -/
structure Window where
  valid : Bool
  r     : Bool
  w     : Bool
  arr   : Bool
  page  : Bool
  glean : Bool
  lline : BitVec 14
  count : BitVec 14
  pline : BitVec 14
deriving DecidableEq, Repr

/-- A backed-region entry (04 Table 4.6). -/
structure Backed where
  enable : Bool
  start  : BitVec 19
  count  : BitVec 19
  gran   : BitVec 33
deriving DecidableEq, Repr

/-- Translation, mesh and descriptor state of a Stall (08). -/
structure Xlate where
  /-- STALL.XLATE[0..31]. [08 R230] reset 0. -/
  win      : Vector Window 32
  /-- STALL.BACKED[0..15]. [04 R134] reset 0. -/
  backed   : Vector Backed 16
  /-- STALL.MESH[a]: SIZE and coordinate, 16 bits each. [08 R208] reset 0. -/
  mesh     : Vector (Half × Half) 6
  /-- STALL.SPAN_ID: VALID and the 12-bit span ID. [08 R214] reset 0. -/
  spanId   : Option (BitVec 12)
  /-- STALL.DESC_BASE: ENABLE and line. [08 R203] reset 0. -/
  descBase : Option (BitVec 14)
  /-- Descriptor file, 256 × 64 bytes. [08 R204] reset DESIGN CHOICE 0 (log 1). -/
  descFile : Mem
  /-- Descriptor file words with a wrong parity bit. [08 R205] reset DESIGN CHOICE none (log 1). -/
  descBad  : List Nat
  /-- XF_STATUS, XF_ADDR, XF_TAG, XF_CC. [08 R634] reset 0. -/
  xf       : Capture
  /-- XF_FOREIGN, 32 bits RS. [08 R217] reset 0. -/
  foreign  : Word
  /-- XF_GLEAN, 32 bits RS. [08 R218] reset 0. -/
  gleanFail : Word
deriving DecidableEq, Repr

/-- An arrival the hazard detector follows (02 Table 2.2): logical row, counter, step number, and the
schedule cycle of the wait that covered it. MODEL. -/
structure HzArr where
  row  : Nat
  ctr  : Option (BitVec 9)
  step : Nat
  wait : Option Nat
deriving DecidableEq, Repr

/-- The hazard detector (02 Tables 2.3 to 2.5). -/
structure Hazard where
  /-- HZ_STATUS, HZ_ADDR, HZ_CC. [02 Tables 2.4, 2.5] reset 0. -/
  cap   : Capture
  /-- Arrivals of the current and previous step. MODEL, reset DESIGN CHOICE none (log 11). -/
  arrs  : List HzArr
  /-- Rows read in the current step before any write of it. MODEL, reset DESIGN CHOICE none (log 11). -/
  reads : List Nat
  /-- Those of the previous step. MODEL, reset DESIGN CHOICE none (log 11). -/
  prev  : List Nat
  /-- Rows written in the current step. MODEL, reset DESIGN CHOICE none (log 11). -/
  wrote : List Nat
  /-- Step number in the dispatch. MODEL, reset DESIGN CHOICE 0 (log 11). -/
  stepNo : Nat
deriving DecidableEq, Repr

/-- A take that has started (13 R369 to R371): its entry of the window, the frame's rows it still takes in
this passage, the rows a full tap buffer kept from it, and how many rows have not landed. -/
structure Take where
  entry   : Nat
  pass    : List Nat
  missing : List Nat
  toLand  : Nat
deriving DecidableEq, Repr

/-- The take unit of a Stall (13 R367 to R371, Table 13.5). -/
structure Takes where
  /-- Take file, a mirror of logical rows 392,704 to 393,215, by byte. [13 R367] reset DESIGN CHOICE 0 (log 1). -/
  file   : Mem
  /-- Take file words with a wrong parity bit. [13 R367] reset DESIGN CHOICE none (log 1). -/
  bad    : List Nat
  /-- HK_STATUS cursor, 12 bits. [13 Table 13.5] reset 0. -/
  cursor : BitVec 12
  /-- The cursor has moved past the LAST entry: the window is empty. [13 R368] reset DESIGN CHOICE false (log 9). -/
  past   : Bool
  /-- Entries of the window started and not done. [13 R369] reset DESIGN CHOICE none (log 9). -/
  active : List Take
  /-- Entries of the window that are done behind one that is not. [13 R368] reset DESIGN CHOICE none (log 9). -/
  done   : List Nat
  /-- HK_MISS, 32 bits RS. [13 Table 13.5] reset 0. -/
  miss   : Word
  /-- HK_RETAKE, 32 bits RS. [13 Table 13.5] reset 0. -/
  retake : Word
deriving DecidableEq, Repr

/-- Power state of a Stall (19 Table 19.3). -/
inductive StallPower where
  | s0
  | s1
  | s2
  | s3
deriving DecidableEq, Repr

/-- One Stall with its router. -/
structure Stall where
  pad   : Pad
  seq   : Seq
  ca    : Cube
  le    : Lanes
  ve    : Lanes
  te    : Layout
  he    : Hop
  rt    : Router
  xl    : Xlate
  hz    : Hazard
  tk    : Takes
  /-- Operations in progress, in the order of their issue. [02 R39, R636] reset none. -/
  ops   : List Op
  /-- Power state of the Stall. [19 R541, R542] reset S3 (it belongs to no partition). -/
  power : StallPower
  /-- A wake in progress and the time in ps at which it is done. [19 R541] reset none. -/
  wake  : Option Nat
  /-- EPOCH_SYNC class, the largest of this epoch and of the previous one. [19 R558] reset DESIGN CHOICE none (log 9). -/
  act   : Option (BitVec 4)
  /-- See act. [19 R558] reset DESIGN CHOICE none (log 9). -/
  actPrev : Option (BitVec 4)
  /-- Activity units counted in this epoch. [19 Table 19.6] reset DESIGN CHOICE 0 (log 9). -/
  units : Nat
  /-- The scratchpad clear in progress ends at this cycle. [18 R514] reset none. -/
  clearing : Option Nat
deriving DecidableEq, Repr

/-- A scheduled row in flight on the Market (10 R260, R269, R276): its span's partition, the schedule cycle
at which it is at a router's input, that router and input, or the cycle at which it lands in that router's
Stall, and the row. -/
structure Flight where
  part  : Fin 64
  due   : Nat
  node  : Fin 64
  inp   : Option (Fin 5)
  arr   : Arrival
deriving DecidableEq, Repr

/-- A sheaf state (11 Table 11.7). -/
inductive SheafState where
  | disabled
  | detect
  | train
  | lock
  | caps
  | active
  | failed
  | blind
deriving DecidableEq, Repr

/-- A row waiting in a sheaf's receive delay buffer (11 R307). -/
structure DelayRow where
  tag  : BitVec 64
  data : Row
deriving DecidableEq, Repr

/-- The transmitter of a sheaf (11 R288 to R291, R304, R306, R309). -/
structure LineTx where
  /-- Codewords sent since the last alignment marker; 4,096 when a marker is next. [11 R291] reset DESIGN CHOICE 4,096 (log 65). -/
  cw    : Nat
  /-- COUNT of the next alignment marker. [11 Table 11.5] reset DESIGN CHOICE 0 (log 65). -/
  count : Half
  /-- Scrambler, 31 bits. [11 R289] reset DESIGN CHOICE 0 (log 65). -/
  scr   : BitVec 31
  /-- Slot-stream bits of slots begun and not sent. [11 R290] reset DESIGN CHOICE none (log 65). -/
  bits  : List Bool
  /-- Block of the training frame that is next. [11 R295] reset DESIGN CHOICE 0 (log 65). -/
  block : Nat
  /-- Control block of the training frame in progress. [11 R295] reset DESIGN CHOICE 0 (log 65). -/
  ctrl  : BitVec 85
  /-- Codeword times since the sheaf came to LOCK or BLIND. [11 R302, R309] reset DESIGN CHOICE 0 (log 65). -/
  sent  : Nat
  /-- Count in the cc in which the last marker left, and its COUNT. [11 Table 11.8] reset DESIGN CHOICE none (log 65). -/
  mark  : Option (Nat × Half)
  /-- Pending framing symbols, in the order raised. [11 R304] reset none. -/
  syms  : List (BitVec 4 × BitVec 26)
  /-- Control records due: kind and words. [11 R306] reset none. -/
  recs  : List (Byte × List Nat)
  /-- Scheduled and ring rows waiting for a slot: tag and data. [11 R306] reset none. -/
  sched : List (BitVec 64 × Row)
  /-- Dynamic rows to be retransmitted. [11 R306, R309] reset none. -/
  again : List (BitVec 10 × DynPkt)
deriving DecidableEq, Repr

/-- One sheaf (11 Tables 11.7, 11.10). -/
structure Sheaf where
  /-- SHEAF_STATUS.STATE. [11 Table 11.7] reset 0 (DISABLED). -/
  state   : SheafState
  /-- SHEAF_STATUS.FAIL. [11 Table 11.10] reset 0. -/
  fail    : BitVec 4
  /-- SHEAF_STATUS.LAT_OK. [11 Table 11.10] reset 0. -/
  latOk   : Bool
  /-- SHEAF_STATUS.SELF_LOOP. [11 Table 11.10] reset 0. -/
  selfLoop : Bool
  /-- SHEAF_STATUS.FOREIGN_TB. [11 Table 11.10] reset 0. -/
  foreign : Bool
  /-- SHEAF_STATUS.CYC_DRIFT. [11 Table 11.10] reset 0. -/
  drift   : Bool
  /-- SHEAF_STATUS lanes detecting a far termination, 16 bits. [11 Table 11.10] reset 0. -/
  lanes   : Half
  /-- Time in ps of entry to the state. [11 R293] reset DESIGN CHOICE 0 (log 9). -/
  since   : Nat
  /-- Consecutive pulses detected on all lanes. [11 Table 11.7] reset DESIGN CHOICE 0 (log 9). -/
  pulses  : Nat
  /-- Consecutive frames with RX_READY. [11 Table 11.7] reset DESIGN CHOICE 0 (log 9). -/
  frames  : Nat
  /-- Local receiver ready. [11 R295] reset DESIGN CHOICE false (log 9). -/
  rxReady : Bool
  /-- Markers accepted on each lane since LOCK, and the count of the last. [11 Table 11.7] reset DESIGN CHOICE 0 (log 9). -/
  markers : Vector Nat 16
  /-- Logical position of each lane, from LANE. [11 R292] reset DESIGN CHOICE 0 (log 9). -/
  lanePos : Vector (BitVec 4) 16
  /-- SHEAF_LAT: D in units of 0.1 ns, 12 bits. [11 Table 11.10] reset 0. -/
  delay   : BitVec 12
  /-- SHEAF_LAT.SCHED_CC, 12 bits. [11 R300] reset 0. -/
  schedCc : BitVec 12
  /-- SHEAF_LAT.HOLD_CC, before saturation at 255. [11 R300] reset 0. -/
  holdCc  : Nat
  /-- SHEAF_FAR: far node, port, sheaf index. [11 Table 11.10] reset 0. -/
  far     : Option (BitVec 13 × BitVec 3 × BitVec 2)
  /-- SHEAF_EQ taps, signed, in 1/80: c(-2), c(-1), c(0), c(+1). [11 Table 11.10] reset 0. -/
  eq      : Vector Byte 4
  /-- Preset that a LINK_TRAIN named for the next TRAIN. [11 R294] reset none. -/
  preset  : Option (Fin 6)
  /-- Taps that the sheaf last converged to. [11 R294] reset none: the first TRAIN starts at preset 3. -/
  conv    : Option (Vector Byte 4)
  /-- Preset last applied, REQ of the far side answered. [11 R295] reset DESIGN CHOICE 0 (log 9). -/
  applied : BitVec 4
  /-- Tap status last reported. [11 R295] reset DESIGN CHOICE 0 (log 9). -/
  tapStat : BitVec 6
  /-- Last far capability record and how many identical ones came. [11 R296] reset DESIGN CHOICE none (log 9). -/
  cap     : Option CapRecord
  /-- See cap. [11 R296] reset DESIGN CHOICE 0 (log 9). -/
  capSeen : Nat
  /-- ACK is set in the record sent. [11 R296] reset DESIGN CHOICE false (log 9). -/
  capAck  : Bool
  /-- Count alignment done. [11 R299] reset DESIGN CHOICE false (log 9). -/
  aligned : Bool
  /-- Probes answered and the smallest round trip less turnaround, in cc. [11 R299] reset DESIGN CHOICE 0 (log 9). -/
  probes  : Nat
  /-- See probes. [11 R299] reset DESIGN CHOICE none (log 9). -/
  bestTrip : Option Nat
  /-- FEC_CORR, 32 bits RS. [11 Table 11.10] reset 0. -/
  fecCorr : Word
  /-- FEC_SYM, 32 bits RS. [11 Table 11.10] reset 0. -/
  fecSym  : Word
  /-- FEC_UNCORR, 32 bits RS. [11 Table 11.10] reset 0. -/
  fecUnc  : Word
  /-- SCHED_LOST, 32 bits RS. [11 Table 11.10] reset 0. -/
  schedLost : Word
  /-- DYN_RETRY, 32 bits RS. [11 Table 11.10] reset 0. -/
  dynRetry : Word
  /-- MARKER_MISS, 32 bits RS. [11 Table 11.10] reset 0. -/
  markMiss : Word
  /-- RETRAINS, 32 bits RS. [11 Table 11.10] reset 0. -/
  retrains : Word
  /-- Uncorrectable codewords with their times in the last ms. [11 R311] reset DESIGN CHOICE none (log 9). -/
  uncTimes : List Nat
  /-- Receive delay buffer, at most 4,096 rows. [11 R307] reset DESIGN CHOICE empty (log 9). -/
  delayBuf : List DelayRow
  /-- Next expected dynamic row number E. [11 R309] reset DESIGN CHOICE 0 (log 9). -/
  rxE     : BitVec 10
  /-- The E whose further NAK is suppressed, and until when, in ps. [11 R309] reset DESIGN CHOICE none (log 9). -/
  nakTo   : Option (BitVec 10 × Nat)
  /-- Sheaf's dynamic receive queue, at most 64 rows. [11 R309] reset DESIGN CHOICE empty (log 9). -/
  dynRx   : List DynPkt
  /-- Number of the next new dynamic row to send. [11 R309] reset DESIGN CHOICE 0 (log 9). -/
  txNext  : BitVec 10
  /-- Unacknowledged dynamic rows, oldest first, at most 512. [11 R309] reset DESIGN CHOICE none (log 9). -/
  unacked : List (BitVec 10 × DynPkt)
  /-- Dynamic rows waiting to be sent. [11 R306] reset DESIGN CHOICE none (log 9). -/
  txq     : List DynPkt
  /-- Time in ps at which ACK last advanced. [11 R309] reset DESIGN CHOICE 0 (log 9). -/
  ackAt   : Nat
  /-- Retrain or width change to take effect at the next marker: 1 retrain, 2 disable, 3 detect. [11 R310] reset none. -/
  atMark  : Option (Fin 4)
  /-- The training in progress left ACTIVE for a retrain. [11 R311] reset DESIGN CHOICE false (log 9). -/
  retrain : Bool
  /-- COUNT of the last marker and the cycle in which it arrived. [11 R299] reset DESIGN CHOICE none (log 9). -/
  markAt  : Option (Half × Nat)
  /-- The parent's count less this module's, from the last drift probe. [11 R302] reset DESIGN CHOICE 0 (log 9). -/
  driftBy : Int
  /-- Time in ps at which each lane's last comma arrived. [11 R293] reset DESIGN CHOICE none (log 9). -/
  laneAt  : Vector (Option Nat) 16
  /-- Lanes whose last comma came with every level inverted. [11 R292] reset DESIGN CHOICE false (log 9). -/
  inv     : Vector Bool 16
  /-- Alignment markers missing in a row on each lane. [11 R311] reset DESIGN CHOICE 0 (log 9). -/
  missRun : Vector Nat 16
  /-- Time in ps since which no codeword has been uncorrectable. [11 Table 11.7] reset DESIGN CHOICE 0 (log 9). -/
  cleanAt : Nat
  /-- Time in ps of the last receiver-detect pulse in DETECT. [11 Table 11.7] reset DESIGN CHOICE none (log 9). -/
  pulseAt : Option Nat
  /-- Codeword time in which SCHED_LOST was last raised for rows that could not be sent. [11 R311] reset DESIGN CHOICE none (log 9). -/
  lostAt  : Option Nat
  tx      : LineTx
deriving DecidableEq, Repr

/-- A link request of this side (11 R310 to R315): kind 1 retrain or 2 width, mask, the preset that its command names, sends
so far, time of the last send, back-off in progress, whether LINK_ACK and whether a LINK_REQ has come, and the command that
waits for it. -/
structure LinkJob where
  kind  : BitVec 3
  mask  : BitVec 3
  preset : Option (Fin 6)
  sends : Nat
  last  : Nat
  back  : Option Nat
  acked : Bool
  met   : Bool
  cmd   : Option (Packet × BitVec 4)
deriving DecidableEq, Repr

/-- One port (11 R317). -/
structure Port where
  /-- PORT_STATUS.ENABLE. [11 R317] reset 1. -/
  enable : Bool
  /-- PORT_STATUS keep mask, 3 bits. [11 R317] reset 0b111 (ports 0 to 5), 0b001 (6 and 7). -/
  keep   : BitVec 3
  /-- PORT_COLL, 32 bits RS. [11 R317] reset DESIGN CHOICE 0 (log 1). -/
  coll   : Word
  /-- Outstanding request of this side. [11 R313] reset DESIGN CHOICE none (log 9). -/
  job    : Option LinkJob
  /-- Width change to take effect at the next marker. [11 R310] reset none. -/
  width  : Option (BitVec 3)
  /-- Tries so far, for the back-off draw. [11 R314] reset DESIGN CHOICE 0 (log 9). -/
  tries  : Nat
  /-- Time in ps since which no sheaf of the port is ACTIVE. [12 R344] reset DESIGN CHOICE none (log 9). -/
  downAt : Option Nat
  /-- Sheaf indexes whose automatic retrain waits for the port's request in progress. [11 R311] reset DESIGN CHOICE none (log 9). -/
  retrain : BitVec 3
  /-- Hold-class symbols and LINK_REQ received in the last 100 ns, with their times in ps. [11 R305] reset DESIGN CHOICE none (log 9). -/
  heard  : List (BitVec 4 × BitVec 26 × Nat)
deriving DecidableEq, Repr

/-- Module-wide link registers (11 R317, 12 R352). -/
structure Link where
  /-- LINK.NODE: VALID and the 13-bit node ID. [11 R317] reset invalid (20 Table 20.9). -/
  node    : Option (BitVec 13)
  /-- Node ID bits kept while VALID is 0. [20 R594] reset 0. -/
  torus   : Word
  /-- TIMEBASE.ESTABLISHED. [11 R298] reset 0. -/
  estab   : Bool
  /-- TIMEBASE.ROOT. [11 R317] reset 0. -/
  root    : Bool
  /-- TIMEBASE.ROOT_NODE, 13 bits. [11 R317] reset 0. -/
  rootNode : BitVec 13
  /-- TIMEBASE.DIST, 6 bits. [11 R317] reset 0. -/
  dist    : BitVec 6
  /-- TIMEBASE parent sheaf. [11 R317] reset 0. -/
  parent  : Option (Fin 20)
  /-- LINK.ROUTE: entries other than 0xF, by node ID. [12 R349] reset PRESUMED none, every entry 0xF (log 13). -/
  route   : Tab (BitVec 4)
  /-- ROUTE_DROP, 32 bits RS. [12 R352] reset DESIGN CHOICE 0 (log 1). -/
  drop    : Word
  /-- Links recorded as lost, as pairs of node IDs. [12 R349] reset DESIGN CHOICE none (log 9). -/
  lost    : List (BitVec 13 × BitVec 13)
  /-- Links whose restoration this module has heard of since their last loss: each record goes on once. MODEL (12 R350), reset
  DESIGN CHOICE none (log 70). -/
  restored : List (BitVec 13 × BitVec 13)
deriving DecidableEq, Repr

/-- A ring row a member holds until it leaves (13 R358). -/
structure HeldRow where
  due   : Nat
  sheaf : Nat
  tag   : BitVec 64
  data  : Row
deriving DecidableEq, Repr

/-- The member entry of a ring table (13 Table 13.1). -/
structure RingEntry where
  depot : Bool
  dpart : BitVec 6
  node  : BitVec 13
  out   : BitVec 3
  byp   : BitVec 3
  hop   : Nat
  delay : Nat
deriving DecidableEq, Repr

/-- The Hawker Ring as this module sees it (13 Tables 13.3, 13.5). -/
structure Ring where
  /-- HK_STATUS.STATE, 0 OFF to 5 FAULTED. [13 Table 13.3] reset 0. -/
  state   : BitVec 3
  /-- HK_STATUS.CLOSED. [13 Table 13.5] reset 0. -/
  closed  : Bool
  /-- HK_STATUS ring ID, 12 bits. [13 Table 13.5] reset 0. -/
  id      : BitVec 12
  /-- HK_STATUS revolution number mod 4,096. [13 Table 13.5] reset 0. -/
  rev     : BitVec 12
  /-- HK_REV, 28 bits. [13 Table 13.5] reset 0. -/
  revLen  : BitVec 28
  /-- HK_RAW, 28 bits. [13 Table 13.5] reset 0. -/
  raw     : BitVec 28
  /-- HK_DAMAGED, 32 bits RS. [13 Table 13.5] reset 0. -/
  damaged : Word
  /-- HK_TAPDROP, 32 bits RS. [13 Table 13.5] reset 0. -/
  tapDrop : Word
  /-- Ring table in force: WIDTH and the members. [13 Table 13.1] reset none. -/
  width   : Nat
  /-- See width. [13 Table 13.1] reset none. -/
  table   : List RingEntry
  /-- This member's place in the table. [13 Table 13.1] reset none. -/
  me      : Nat
  /-- RING_T0 once fixed. [13 R363] reset none. -/
  t0      : Option Nat
  /-- Cycle in which this member accepted the ring table. [13 R363] reset none. -/
  acceptAt : Option Nat
  /-- Markers held until they leave on the ring-out, with their FARG. [13 R362] reset none. -/
  markers : List (Nat × BitVec 26)
  /-- Markers received ahead of the cycle in which they are at this member's tap: that cycle, KIND and revolution number. [13
  R358, R362] reset none. -/
  inbox   : List (Nat × Nat × Nat)
  /-- Rows held until their departure. [13 R358] reset empty. -/
  held    : List HeldRow
  /-- Tap buffers of the ring-in sheaves, at most 4,096 rows each. [13 R370] reset empty. -/
  tap     : List (Fin 20 × DynPkt)
  /-- Frame rows by wheel position: where each lies in the image. [13 R361] reset none. -/
  frames  : Tab Nat
  /-- The image that the frame rows are read from: SOURCE and address of IMAGE_LOAD. [13 R364] reset none. -/
  fillFrom : Option (Word × DWord)
  /-- Wheel positions filled. [13 R364] reset none. -/
  filled  : List Nat
  /-- Frames this member found damaged. [13 R375] reset none. -/
  hurt    : List Nat
  /-- A halt is requested. [13 R366] reset false. -/
  haltReq : Bool
  /-- Cycle at which HALTING ends. [13 Table 13.3] reset none. -/
  offAt   : Option Nat
  /-- The calibration marker returned in its exact cycle. [13 R363] reset none. -/
  calOk   : Option Bool
  /-- Partition whose span the ring serves, on this module. [13 R353] reset none. -/
  part    : Option (Fin 64)
  /-- Region pinned while the ring fills from it. [15 R431] reset none. -/
  fillPin : Option (BitVec 12)
deriving DecidableEq, Repr

/-- The header fields of a placed image (09 Table 9.7) and where its bytes lie. -/
structure Image where
  bytes    : Mem
  length   : Nat
  spanSize : Nat
  streamed : Bool
  hold     : Bool
  shape    : DWord
  horizon  : Nat
  hopLat   : Nat
  boundG   : Nat
  boundH   : Nat
  boundD   : Nat
  timeout  : Nat
  foot     : Nat
  descLine : Nat
  recLine  : Nat
  entries  : List (Nat × Nat)
  size     : List Nat
  nsec     : Nat
  placed   : Nat
  backing  : Option (BitVec 12)
deriving DecidableEq, Repr

/-- A fault stop decided (02 R638): its end cycle, its place in the precedence list, and its status. -/
structure Stop where
  endAt  : Nat
  rank   : Nat
  status : Byte
deriving DecidableEq, Repr

/-- A step fault being handled (02 R60, R61): detection cycle, Stall, row, whether another member found it, and the cycle
v of R129 once its refetch has landed. -/
structure StepFault where
  f      : Nat
  stall  : Fin 64
  row    : Nat
  far    : Bool
  landed : Option Nat
deriving DecidableEq, Repr

/-- The running dispatch of a partition. `faults` are the step faults to be rerun that are outstanding, `cut` says that the
first frozen cycle of the earliest has abandoned what was in progress (02 R636), `restored` that the boundary has been
restored (02 R61), `over` that the last END has issued in this cycle (09 R246). -/
structure Dispatch where
  pkt     : Option Packet
  entry   : Nat
  length  : Nat
  start   : Nat
  sched   : Nat
  frozen  : Bool
  wasFrozen : Bool
  zskip   : Bool
  reruns  : Nat
  rerunOf : List (Nat × Nat)
  padOver : Nat
  hkMiss  : Bool
  freezePs : Nat
  stop    : Option Stop
  faults  : List StepFault
  cut     : Bool
  restored : Bool
  closing : Bool
deriving DecidableEq, Repr

/-- A dispatch accepted and not yet running: its packet on the head, entry, and start cycle once
posted. -/
structure Waiting where
  pkt   : Option Packet
  entry : Nat
  start : Option Nat
deriving DecidableEq, Repr

/-- An ended dispatch whose reply waits (16 R453). -/
structure Ended where
  pkt    : Packet
  status : Byte
  words  : List Word
deriving DecidableEq, Repr

/-- A hub window (16 Table 16.4). -/
structure Hwin where
  ctl    : Word
  baseLo : Word
  baseHi : Word
  size   : Word
deriving DecidableEq, Repr

/-- The generations of one adapter slot (14 R407, Table 14.7) and the load in progress. -/
structure Adapter where
  /-- Current generation, and the copy that holds it (or held it before the slot was retired). -/
  current  : Option Byte
  copy     : Bool
  retired  : Bool
  /-- Superseded generation, 0 if none. -/
  super    : Byte
  /-- The slot has held a generation; the last one given to it. -/
  ever     : Bool
  last     : Byte
  /-- The load's copy is placed and becomes current at the next cut. -/
  placed   : Bool
  /-- ADAPTER_LOAD in progress: packet, phase 0 verifying, 1 waiting for the copy, 2 placing, and since when. -/
  job      : Option (Packet × Nat × Nat)
  /-- ADAPTER_RETIRE that waits for the next cut. -/
  retireJob : Option Packet
  /-- The image that the load brings. -/
  img      : Mem
  imgLen   : Nat
deriving DecidableEq, Repr

/-- An active request (14 R389 to R398). -/
structure Request where
  tag     : Word
  ring    : Nat
  plen    : Nat
  maxNew  : Nat
  stop    : Word
  aen     : Bool
  aslot   : Fin 16
  gen     : Byte
  copy    : Bool
  /-- PREFIX in tokens, block handles in position order, and the chained hashes h_0, h_1, … of its prompt. -/
  pre     : Nat
  blocks  : List Word
  keys    : List DWord
  /-- Row offset of its block list in the admission area. -/
  adm     : Nat
  /-- Position of the next token to feed; tokens emitted; the token last generated; the prompt. -/
  pos     : Nat
  first   : Bool
  emitted : Nat
  last    : Word
  tokens  : List Word
deriving DecidableEq, Repr

/-- An entry of the Glean hash index (14 R402). -/
structure GleanEntry where
  key    : DWord
  parent : DWord
  toks   : List Word
  handle : Word
  aslot  : Fin 16
  aen    : Bool
  gen    : Byte
  kids   : Nat
  last   : Nat
deriving DecidableEq, Repr

/-- A SUBMIT whose lookup goes on: its slot, generation and copy, prompt and block keys (14 R393, R400). -/
structure Binding where
  slot : Nat
  gen  : Byte
  copy : Bool
  toks : List Word
  keys : List DWord
deriving DecidableEq, Repr

/-- A walk of the radix catalogue: the Stall, the node row to be read next, the block that the node's child must match, and the
handles matched so far (14 R405). -/
structure Walk where
  st  : Fin 64
  row : Nat
  k   : Nat
  got : List Word
deriving DecidableEq, Repr

/-- Step 6 of a cut in progress: its round, the ring entries left, the admission rows so far, whether admission has stopped, and
the lookup of the first entry left (14 R393, Table 14.5). -/
structure Admission where
  round : Nat
  left  : List (Nat × List Word)
  rows  : List Row
  stop  : Bool
  now   : Option (Binding × Walk)
deriving DecidableEq, Repr

/-- The serving context of a head partition (14). -/
structure Serving where
  /-- SERVE.CTX_STATUS.STATE: 0 closed with replies still in an overflow, 1 open, 2 faulted. [14 Table 14.7] -/
  state    : BitVec 2
  /-- Status of the dispatch that faulted it. [14 R414] -/
  status   : Byte
  /-- The function that issued SERVE_OPEN. [17 R501] -/
  fn       : Fin 65
  slots    : Nat
  tps      : Nat
  inMask   : DWord
  inBase   : Nat
  inCtr    : BitVec 9
  admBase  : Nat
  admRows  : Nat
  outWin   : BitVec 4
  kvBlocks : Nat
  maxCtx   : Nat
  glean    : BitVec 2
  gEntries : Nat
  gStall   : Nat
  gRoot    : Nat
  reqRing  : DWord × Nat
  repRings : List (DWord × Nat)
  /-- Active requests by slot. [14 R389] -/
  reqs     : Tab Request
  /-- Hash index by entry position. [14 R402] -/
  index    : Tab GleanEntry
  /-- Replies in the overflows, by reply ring. [14 R387] -/
  overflow : List (Nat × List Word)
  blocked  : Bool
  kvWait   : Bool
  /-- Tags of waiting SUBMITs whose wait for blocks has been reported. [14 Table 14.8] -/
  kvTold   : List Word
  /-- Last completed round. [14 R388] -/
  round    : Option Nat
  /-- Output rows landed since the last completion, and the entries they hold. [14 R391] -/
  outRows  : Nat
  outToks  : Tab (Word × Bool)
  /-- Between two rounds: 0 the input of a round is written and its output awaited, 1 admission rows land, 2
  acknowledgements of the choice count are awaited, 3 slot rows may be written, 4 admission goes on. [14 Table 14.5] -/
  stage    : Nat
  /-- Admission in progress. [14 R393, R405] -/
  admitting    : Option Admission
  choices  : Nat
  /-- Acknowledgements still awaited. [14 R396] -/
  acks     : Nat
  /-- Ring entries handled behind one that waits. [14 R393] -/
  removed  : List Nat
  closeReq : Option Packet
  /-- A variant is in place and takes effect at the next cut. [14 R412] -/
  swapDue  : Bool
deriving DecidableEq, Repr

/-- A member of the span as the tree knows it while forming (12 R326 to R332). -/
structure Neighbour where
  port   : Nat
  rank   : Nat
  form   : Option FormRecord
deriving DecidableEq, Repr

/-- A command of class P in progress on a partition (17 Table 17.4), with its phase. -/
structure Job where
  pkt   : Packet
  opc   : Byte
  phase : Nat
  since : Nat
  img   : Option Image
  skip  : Bool
  /-- REV_LEN, WIDTH and members of the ring table of a streamed image (13 Table 13.1). -/
  ring  : Option (Nat × Nat × List RingEntry)
deriving DecidableEq, Repr

/-- The Hold bookkeeping of a span on this module (12 R337 to R339): own and children's raises and
releases by stamp, the transitions sent up or down, and the freezes with their releases. -/
structure HoldTree where
  marks  : List (Nat × Bool)
  sent   : List (Nat × Bool)
  freezes : List (Nat × Option Nat)
deriving DecidableEq, Repr

/-- A partition with its table entry, span registers, work and Ledger counters. -/
structure Part where
  /-- PART.STATE: 0 FREE, 1 ZEROIZING, 2 READY, 3 DESTROYING. [18 R506] reset 0. -/
  state    : BitVec 2
  /-- DEPOT. [18 Table 18.1] reset 0. -/
  depot    : Bool
  /-- PART.STALLS, 64 bits. [18 Table 18.1] reset 0. -/
  stalls   : DWord
  /-- PART.HUB: HUB_BASE, 11 bits. [18 Table 18.1] reset 0. -/
  hubBase  : Nat
  /-- PART.HUB: HUB_PAGES, 12 bits. [18 Table 18.1] reset 0. -/
  hubPages : Nat
  /-- CREATE_SEQ, 64 bits. [18 R509] reset 0. -/
  createSeq : DWord
  /-- ACCOUNT, 32 bits. [18 Table 18.1] reset 0. -/
  account  : Word
  /-- KEYMASK, bits 7 to 1. [18 Table 18.1] reset 0. -/
  keymask  : Byte
  /-- PART.SPAN_ID. [12 Table 12.4] reset 0. -/
  span     : Option (BitVec 12)
  /-- PART.SPAN_RANK rank, 13 bits. [12 Table 12.4] reset 0. -/
  rank     : BitVec 13
  /-- PART.SPAN_RANK SPAN_SIZE − 1, 13 bits. [12 Table 12.4] reset 0. -/
  sizeM1   : BitVec 13
  /-- PART.SPAN_HOLD ROOT. [12 Table 12.4] reset 0. -/
  isRoot   : Bool
  /-- PART.SPAN_HOLD parent port. [12 Table 12.4] reset 0. -/
  parent   : BitVec 3
  /-- PART.SPAN_HOLD child port mask. [12 Table 12.4] reset 0. -/
  kids     : BitVec 6
  /-- PART.SPAN_HOLD H, 13 bits. [12 Table 12.4] reset 0. -/
  h        : Nat
  /-- PART.SPAN_STATUS.STATE. [12 Table 12.4] reset 0. -/
  spanState : BitVec 3
  /-- PART.SPAN_STATUS.CAUSE. [12 Table 12.4] reset 0. -/
  cause    : BitVec 4
  /-- PART.SPAN_STATUS.ORIGIN, 13 bits. [12 Table 12.4] reset 0. -/
  origin   : BitVec 13
  /-- PART.SPAN_LOST. [12 Table 12.4] reset 0. -/
  lost     : Option (BitVec 13)
  /-- HROOT and the digest of the member table. [12 R325, R326] reset DESIGN CHOICE none (log 9). -/
  hroot    : BitVec 13
  /-- See hroot. [12 R326] reset DESIGN CHOICE 0 (log 9). -/
  digest   : BitVec 384
  /-- NB ports with their ranks and far records. [12 R326] reset DESIGN CHOICE none (log 9). -/
  nbs      : List Neighbour
  /-- This member's hop distance from HROOT. [12 R330] reset DESIGN CHOICE 0 (log 9). -/
  hops     : Nat
  /-- The NB ports of the member table connect every rank. [12 Table 12.2] reset DESIGN CHOICE false (log 9). -/
  allRanks : Bool
  /-- Hold latency of each tree edge, by port. [12 R331] reset DESIGN CHOICE none (log 9). -/
  edges    : List (Nat × Nat)
  /-- h(m) of R332. [12 R332] reset DESIGN CHOICE 0 (log 9). -/
  height   : Nat
  /-- Hold tree bookkeeping. [12 R337] reset DESIGN CHOICE none (log 9). -/
  tree     : HoldTree
  /-- PART.HK_MISS, 32 bits. [13 R373] reset 0. -/
  hkMiss   : Word
  /-- Image placed. [09 R256] reset none. -/
  image    : Option Image
  /-- The running dispatch. [02 R38] reset none. -/
  disp     : Option Dispatch
  /-- Dispatches accepted: at most one posted ahead, 4 queued. [17 R486] reset none. -/
  queue    : List Waiting
  /-- Replies of ended dispatches to be written. [16 R453] reset none. -/
  ended    : List Ended
  /-- Status of the last ended dispatch, and whether one has ended. [17 Table 17.8] reset none. -/
  lastStat : Option Byte
  /-- Reruns and pad overruns of the running or last dispatch. [17 Table 17.8] reset 0. -/
  lastRuns : Half × Half
  /-- Choice counter, 32 bits. [03 R88] reset 0. -/
  choice   : Word
  /-- Pending choice count, 32 bits. [03 R88] reset 0. -/
  pendChoice : Word
  /-- Choices of this cc, which its end adds to the running dispatch's count, or in an end cycle to the pending one. [03 R91, R99]
  reset DESIGN CHOICE 0 (log 9). -/
  newChoice : Nat
  /-- Stall cycles of this cc, which its end adds to counter 0: a snapshot includes the cycles before its own. [18 R528, Table 18.8]
  reset DESIGN CHOICE 0 (log 9). -/
  newRun   : Nat
  /-- Frozen Stall cycles of this cc, which its end adds to counter 1. [18 R528, Table 18.8] reset DESIGN CHOICE 0 (log 9). -/
  newFrozen : Nat
  /-- SERVE.CHOICE_LAST. [03 R94] reset 0. -/
  choiceLast : Word
  /-- SERVE.REPRO_LAST. [03 R95] reset 0. -/
  repro    : Word
  /-- SERVE.REQ_TAIL, 12 bits. [14 Table 14.7] reset 0. -/
  reqTail  : BitVec 12
  /-- SERVE.REQ_TAIL as it stood at the start of this cc, up to which a cut handles the request ring. [14 R392] reset 0. -/
  tailWas  : BitVec 12
  /-- SERVE.REQ_HEAD, 12 bits. [14 Table 14.7] reset 0. -/
  reqHead  : BitVec 12
  /-- SERVE.REP_HEAD[0..15]. [14 Table 14.7] reset 0. -/
  repHead  : Vector (BitVec 12) 16
  /-- SERVE.REP_TAIL[0..15]. [14 Table 14.7] reset 0. -/
  repTail  : Vector (BitVec 12) 16
  /-- SERVE.GLEAN_HIT, 32 bits RS. [14 Table 14.7] reset 0. -/
  gHit     : Word
  /-- SERVE.GLEAN_MISS, 32 bits RS. [14 Table 14.7] reset 0. -/
  gMiss    : Word
  /-- SERVE.GLEAN_SKIP, 32 bits RS. [14 Table 14.7] reset 0. -/
  gSkip    : Word
  /-- SERVE.VARIANT, 16 bits. [14 Table 14.7] reset 0. -/
  variant  : Half
  /-- Adapter slots 0 to 15. [14 R407] reset 0. -/
  adapters : Vector Adapter 16
  /-- Serving context. [14 R379] reset closed. -/
  ctx      : Option Serving
  /-- Acknowledgements of a choice count that this member awaits from its children. [14 R396] reset none. -/
  ackWait  : Nat
  /-- The port on which that SERVE_CHOICE came. [14 R396] reset DESIGN CHOICE none (log 9). -/
  ackTo : Option (Fin 8)
  /-- Hub windows FAB.HWIN[0..15]. [16 Table 16.4] reset 0. -/
  hwin     : Vector Hwin 16
  /-- FAB.WIN_FAULT of the partition (its view). [16 Table 16.7] reset 0. -/
  winFault : Word
  /-- VALID of the partition's WIN_FAULT was set in this cc (00 R15). MODEL, reset DESIGN CHOICE none (log 10). -/
  winNew   : Bool
  /-- A window failure of the running or last dispatch has been recorded. [16 R459] reset DESIGN CHOICE false (log 9). -/
  winTold  : Bool
  /-- FAB.WIN_FAULTS of the partition, 32 bits RS. [16 Table 16.7] reset 0. -/
  winFaults : Word
  /-- Ledger counters 0 to 15, 64 bits. [18 R527] reset 0. -/
  cnt      : Vector DWord 16
  /-- SEAL_SEQ, 32 bits. [18 Table 18.10] reset 0. -/
  sealSeq  : Word
  /-- LEDGER.CLOSE[p]: the most recent CLOSE record as 64 words. [18 R533] reset DESIGN CHOICE none, read as 0 (log 1). -/
  close    : List Word
  /-- Command of class P in progress. [17 Table 17.4] reset none. -/
  job      : Option Job
  /-- Variant swap in progress: packet, region, phase of GRAN.SWAP. [15 R434] reset none. -/
  swap     : Option (Packet × BitVec 12 × Nat)
  /-- HALT in progress. [17 Table 17.4] reset none. -/
  halt     : Option (Packet × Nat)
  /-- Newly powered; ps of dispatch time since; a whole epoch with a dispatch has passed. [19 R559] reset DESIGN CHOICE false (log 9). -/
  fresh    : Bool
  /-- See fresh. [19 R559] reset DESIGN CHOICE 0 (log 9). -/
  freshPs  : Nat
  /-- See fresh. [19 R559] reset DESIGN CHOICE false (log 9). -/
  freshEpoch : Bool
  /-- Margins M[p][a] in units of 0.1 mV. [19 R558] reset 50 mV (R559). -/
  margin   : Vector Nat 16
  /-- Consecutive good epochs of each class. [19 R558] reset DESIGN CHOICE 0 (log 9). -/
  goodEp   : Vector Nat 16
  /-- Energy fraction in µJ carried to the next epoch. [19 R564] reset DESIGN CHOICE 0 (log 1). -/
  frac     : Rat
  /-- Cc of this epoch with a dispatch running. [19 Table 19.6] reset DESIGN CHOICE 0 (log 9). -/
  epochRun : Nat
  /-- The cycle at which the zeroization in progress ends, and whether PART_DESTROY started it. [18 R515] reset none. -/
  zero     : Option (Nat × Bool)
deriving DecidableEq, Repr

/-- A command of class G in progress (17 Table 17.4). -/
structure GJob where
  pkt : Packet
  opc : Byte
  /-- The time at which it was accepted, in ps. MODEL (15 R433), reset none. -/
  since : Nat
deriving DecidableEq, Repr

/-- An event entry before it is written (21 Table 21.2). -/
structure Event where
  code  : Half
  modul : Bool
  part  : BitVec 6
  cycle : DWord
  ticks : DWord
  arg0  : Word
  arg1  : Word
deriving DecidableEq, Repr

/-- The rings of one function (17 Table 17.1, 21 Table 21.1). -/
structure Func where
  /-- CRING base. [17 Table 17.1] reset 0. -/
  cbase : DWord
  /-- CRING_SIZE, 13 bits. [17 Table 17.1] reset 0. -/
  csize : BitVec 13
  /-- RRING base. [17 Table 17.1] reset 0. -/
  rbase : DWord
  /-- RRING_SIZE, 13 bits. [17 Table 17.1] reset 0. -/
  rsize : BitVec 13
  /-- CTL.ENABLE. [17 Table 17.1] reset 0. -/
  enable : Bool
  /-- CTL.IRQ_EN. [17 Table 17.1] reset 0. -/
  irq   : Bool
  /-- CTL.VECTOR, 5 bits. [17 Table 17.1] reset 0. -/
  vec   : BitVec 5
  /-- STATUS.RUNNING. [17 Table 17.1] reset 0. -/
  running : Bool
  /-- STATUS.ERROR. [17 Table 17.1] reset 0. -/
  error : Bool
  /-- STATUS.ERROR was set in this cc (00 R15). MODEL, reset DESIGN CHOICE none (log 10). -/
  errNew : Bool
  /-- STATUS.ERR_CODE, 4 bits. [17 Table 17.1] reset 0. -/
  errCode : BitVec 4
  /-- DOORBELL.TAIL, 12 bits. [17 Table 17.1] reset 0. -/
  tail  : BitVec 12
  /-- HEAD, 12 bits. [17 Table 17.1] reset 0. -/
  head  : BitVec 12
  /-- REPLY_HEAD, 12 bits. [17 Table 17.1] reset 0. -/
  rhead : BitVec 12
  /-- REPLY_TAIL, 12 bits. [17 Table 17.1] reset 0. -/
  rtail : BitVec 12
  /-- INFLIGHT commands, 13 bits. [17 Table 17.1] reset 0. -/
  infl  : Nat
  /-- Packets read and not started: opcode and packet. [17 R481] reset none. -/
  accepted : List (Byte × Packet)
  /-- Commands in flight whose replies are to be discarded (R504). [17 R504] reset none. -/
  orphans : List Packet
  /-- Class G commands in progress. [17 Table 17.4] reset none. -/
  jobsG : List GJob
  /-- ERING base. [21 Table 21.1] reset 0. -/
  ebase : DWord
  /-- ERING_SIZE, 13 bits. [21 Table 21.1] reset 0. -/
  esize : BitVec 13
  /-- ERING_CTL.ENABLE. [21 Table 21.1] reset 0. -/
  eenable : Bool
  /-- ERING_CTL.IRQ_EN. [21 Table 21.1] reset 0. -/
  eirq  : Bool
  /-- ERING_CTL.VECTOR, 5 bits. [21 Table 21.1] reset 0. -/
  evec  : BitVec 5
  /-- ERING_TAIL, 12 bits. [21 Table 21.1] reset 0. -/
  etail : BitVec 12
  /-- ERING_HEAD, 12 bits. [21 Table 21.1] reset 0. -/
  ehead : BitVec 12
  /-- ERING_LOST, 32 bits RS. [21 Table 21.1] reset 0. -/
  elost : Word
  /-- ERING_MASK, bits 8 to 1. [21 Table 21.1] reset 0x1FE. -/
  emask : BitVec 9
  /-- SEQ of the event ring. [21 R619] reset DESIGN CHOICE 0 (log 1). -/
  eseq  : Word
  /-- Entries were lost since the last one written. [21 R619] reset DESIGN CHOICE false (log 1). -/
  eloss : Bool
  /-- Events received and not yet written. [21 R619] reset none. -/
  events : List Event
deriving DecidableEq, Repr

/-- A write staged under a lock (16 R462) or held by it (R463). -/
structure HeldWrite where
  rq  : Requester
  off : BitVec 24
  v   : Word
deriving DecidableEq, Repr

/-- A fetch request waiting for its response (16 R447, R448): Stall, rows with their destinations, target
(0 host, 1 hub SRAM, 2 Granary), address, and the time in ps at which it entered the matrix. -/
structure FetchReq where
  stall : Fin 64
  part  : Fin 64
  span  : BitVec 12
  kind  : BitVec 2
  addr  : Nat
  rows  : List (BitVec 19)
  ctr   : Option (BitVec 9)
  fid   : Nat
  since : Nat
deriving DecidableEq, Repr

/-- The bus matrix (16 Table 16.7). -/
structure Fab where
  /-- FAB.STATUS.DRAINING. [16 Table 16.7] reset 0. -/
  draining : Bool
  /-- FAB.STATUS LOCKED, LOCK_CLASS and partition. [16 Table 16.7] reset 0. -/
  lock     : Option LockRange
  /-- Time limit of the lock in ps. [16 R461] reset none. -/
  lockTo   : Nat
  /-- FAB.STATUS.LOCK_EXPIRED. [16 Table 16.7] reset 0. -/
  expired  : Bool
  /-- Host accesses held at the PCIe link while the matrix drains: function, offset and the word of a write. [16 R466] reset
  none. -/
  atLink   : List (Fin 65 × BitVec 24 × Option Word)
  /-- Writes staged by the SP, at most 64. [16 R462] reset none. -/
  staged   : List HeldWrite
  /-- Writes of others held by the lock. [16 R463] reset none. -/
  heldWr   : List HeldWrite
  /-- FAB.BADACC. [16 Table 16.7] reset 0. -/
  badacc   : Word
  /-- LOCK_EXPIRED, BADACC.VALID and WIN_FAULT.VALID were set in this cc (00 R15). MODEL, reset DESIGN CHOICE none (log 10). -/
  bitsNew  : Bool × Bool × Bool
  /-- FAB.DRAIN_DROP, 32 bits RS. [16 R466] reset 0 at cold reset. -/
  drainDrop : Word
  /-- FAB.TIMEOUTS, 32 bits RS. [16 Table 16.7] reset 0. -/
  timeouts : Word
  /-- Millisecond in which a timeout was last recorded. [16 R456] reset none. -/
  toldMs   : Option Nat
  /-- FAB.WIN_FAULT. [16 Table 16.7] reset 0. -/
  winFault : Word
  /-- FAB.WIN_FAULTS, 32 bits RS. [16 Table 16.7] reset 0. -/
  winFaults : Word
  /-- Fetch requests in the matrix, by Stem port. [16 R447] reset none. -/
  fetches  : Vector (List (Nat × FetchReq)) 4
  /-- Hub-bound rows at each Stem port. [16 R447] reset none. -/
  hubq     : Vector (List DynPkt) 4
  /-- Rows from the hub at each Stem port, on their way to a Stall. [16 R448] reset none. -/
  downq    : Vector (List DynPkt) 4
  /-- Next fetch number. MODEL, reset DESIGN CHOICE 0 (log 10). -/
  nextId   : Nat
  /-- End of the warm-reset drain in ps, and what follows it. [16 R466] reset none. -/
  drainTo  : Option Nat
deriving DecidableEq, Repr

/-- A Granary region (15 Table 15.3). -/
structure Region where
  base   : Nat
  size   : Nat
  owner  : BitVec 7
  length : Nat
  verified : Option (BitVec 3)
  pins   : Nat
  lost   : Bool
deriving DecidableEq, Repr

/-- The Granary (15). -/
structure Granary where
  /-- Data space bytes, 1,016 GiB. [15 R419] reset DESIGN CHOICE 0 (log 2). -/
  mem    : Mem
  /-- Block CRCs as stored. [15 R420] reset DESIGN CHOICE 0 (log 2). -/
  crc    : Tab Word
  /-- STATUS.AVAILABLE. [15 Table 15.4] reset 0. -/
  avail  : Bool
  /-- STATUS.RETAINED. [15 Table 15.4] reset 0. -/
  retained : Bool
  /-- CHANNELS, 32 bits. [15 Table 15.4] reset 0. -/
  chans  : Word
  /-- CRC_RETRY, 32 bits RS. [15 Table 15.4] reset 0. -/
  retry  : Word
  /-- CRC_ERR, 32 bits RS. [15 Table 15.4] reset 0. -/
  err    : Word
  /-- BAD_LOG, 16 entries. [15 Table 15.4] reset empty. -/
  badLog : List Nat
  /-- Directory, at most 4,096 regions by ID. [15 R424] reset empty (power-on). -/
  dir    : Tab Region
  /-- Successive retraining failures of each channel. [15 R428] reset DESIGN CHOICE 0 (log 1). -/
  fails  : Vector Nat 32
  /-- Contents were lost since the last bring-up (R427). [15 R427] reset true at power-on. -/
  gone   : Bool
  /-- GRAN.SWAP state and region. [15 Table 15.4] reset 0. -/
  swap   : Nat × BitVec 12
deriving DecidableEq, Repr

/-- A journal record in the buffer (19 R539): Ledger record words or a directory update. -/
inductive JournalItem where
  | record (p : BitVec 6) (words : List Word)
  | directory (id : Nat) (r : Option Region)
deriving DecidableEq, Repr

/-- The power domain (19 Table 19.7, R538 to R576). -/
structure Pwr where
  /-- PWR.STATE module state: 2 M2, 3 M3; below 2 the Stalls tell M0 from M1. [19 Table 19.2] reset DEDUCED 2, the
  rails not up yet (log 39). -/
  mstate : BitVec 2
  /-- CELL_READY. [19 R569] reset 0. -/
  cellReady : Bool
  /-- ON_BACKUP. [19 Table 19.7] reset 0. -/
  backup : Bool
  /-- BRAKE. [19 R565] reset 0. -/
  brake  : Bool
  /-- ISO_OK. [19 Table 19.7] reset DESIGN CHOICE 0 (log 1). -/
  isoOk  : Bool
  /-- THERMAL. [19 Table 19.7] reset DESIGN CHOICE 0 (log 1). -/
  thermal : Bool
  /-- LIMITING. [19 Table 19.7] reset DESIGN CHOICE 0 (log 1). -/
  limiting : Bool
  /-- PWR.LIMIT, 12 bits. [19 R567] reset 0x898. -/
  limit  : BitVec 12
  /-- PWR.INPUT busbar voltage in 10 mV, 16 bits. [19 Table 19.7] reset DESIGN CHOICE 0 (log 1). -/
  inVolt : Half
  /-- PWR.INPUT power over the last epoch in W. [19 Table 19.7] reset DESIGN CHOICE 0 (log 1). -/
  inWatt : Half
  /-- PWR.CELL in mV. [19 Table 19.7] reset DESIGN CHOICE 0 (log 1). -/
  cell   : Half
  /-- PWR.TICKS, 64 bits. [19 R577] reset 0 when the always-on domain starts. -/
  ticks  : Nat
  /-- PWR.LOSS_TICK, 64 bits. [19 R577] reset DESIGN CHOICE 0 (log 1). -/
  lossTick : DWord
  /-- PWR.FLUSH OUTCOME. [19 R577] reset 0. -/
  flushOut : BitVec 2
  /-- PWR.FLUSH RETURNED. [19 R577] reset DESIGN CHOICE 0 (log 1). -/
  returned : Bool
  /-- PWR.FLUSH AON_LOST. [19 R577] reset DESIGN CHOICE 0 (log 1). -/
  aonLost : Bool
  /-- PWR.FLUSH records written. [19 R577] reset DESIGN CHOICE 0 (log 1). -/
  flushN : Half
  /-- Records still to flush. [19 R570] reset none. -/
  flush  : Option (List JournalItem)
  /-- Busbar lost since the last bring-up. [19 R576] reset false. -/
  lost   : Bool
  /-- Busbar valid. [19 R535] reset DESIGN CHOICE true: power has been applied (log 39). -/
  valid  : Bool
  /-- End of a droop guard band, in ps. [19 R558] reset none. -/
  guardTo : Vector (Option Nat) 4
  /-- How far each rail fell below V_NOM in this epoch, in 0.1 mV. [19 R558] reset DESIGN CHOICE 0 (log 9). -/
  dip    : Vector Nat 4
  /-- Temperature of channels 19 to 23 in °C, from the last valid sample. [19 Table 19.5] reset DESIGN CHOICE 0 (log 1). -/
  temps  : Vector Nat 5
  /-- Input power of the frames of this epoch, summed, and their number. [19 Table 19.7] reset DESIGN CHOICE 0 (log 9). -/
  wattSum : Nat
  /-- See wattSum. [19 Table 19.7] reset DESIGN CHOICE 0 (log 9). -/
  wattN  : Nat
  /-- DROOP_ALARMS, 32 bits RS. [19 Table 19.7] reset DESIGN CHOICE 0 (log 1). -/
  droops : Word
  /-- UNATTRIB_UJ, 64 bits. [19 Table 19.7] reset DESIGN CHOICE 0 (log 1). -/
  unattr : DWord
  /-- Fraction of a µJ not yet in UNATTRIB_UJ. [19 R564] reset DESIGN CHOICE 0 (log 1). -/
  unattrFrac : Rat
  /-- Limit the power limit imposes, and the limit the temperature imposes. [19 Table 19.4] reset 32. -/
  capPower : Nat
  /-- See capPower. [19 Table 19.4] reset 32. -/
  capTherm : Nat
  /-- The power limit constrained the demand in the last epoch. [19 R567] reset false. -/
  limited : Bool
  /-- No isolator frame: the 1,000 W limit is in force. [19 R536] reset false. -/
  isoLimit : Bool
  /-- Time in ps of the last valid isolator frame. [19 R536] reset 0. -/
  isoAt  : Nat
  /-- Journal buffer: at most 64 records and 32 directory updates. [19 R539] reset empty. -/
  journal : List JournalItem
  /-- A wake from M2 in progress, done at this time in ps. [19 Table 19.2] reset none. -/
  wake   : Option Nat
  /-- Thermal trip or POWER_STATE M2 waits for the partitions to be destroyed. [19 R545] reset false. -/
  toM2   : Bool
deriving DecidableEq, Repr

/-- Clocks (19 Table 19.7). -/
structure Clk where
  /-- CLK.FREQ FCODE in force. [19 Table 19.7] reset PRESUMED 26, the ceiling (log 14). -/
  fcode  : BitVec 6
  /-- CLK.FREQ ceiling. [19 Table 19.4] reset 26. -/
  ceil   : BitVec 6
  /-- CLK.EPOCH_NEXT: epoch number and FCODE. [19 Table 19.7] reset none. -/
  next   : Option (BitVec 20 × BitVec 6)
  /-- CLK.SKEW[0..3]. [19 Table 19.7] reset DESIGN CHOICE 0 (log 1). -/
  skew   : Vector Half 4
  /-- SKEW_ALARMS, 32 bits RS. [19 Table 19.7] reset DESIGN CHOICE 0 (log 1). -/
  alarms : Word
  /-- EPOCH_MISSED, 32 bits RS. [19 Table 19.7] reset DESIGN CHOICE 0 (log 1). -/
  missed : Word
  /-- Lowest demands of the modules of the subtree, each from its newest record: node, FCODE, reasons, and the port that the
  record came in at. [19 R551] reset none. -/
  kids   : List (BitVec 13 × BitVec 6 × BitVec 5 × Fin 8)
  /-- Last demand sent up. [19 R551] reset none. -/
  sent   : Option (BitVec 6 × BitVec 5)
  /-- Second copy of EPOCH due in this cycle. [19 R552] reset none. -/
  copyAt : Option (Nat × BitVec 26)
  /-- FREQ_SET in progress: packet, and the time in ps at which it set the ceiling. [17 R496] reset none. -/
  job    : Option (Packet × Nat)
  /-- Number of the last epoch boundary taken. MODEL, reset DESIGN CHOICE 0 (log 10). -/
  epoch  : Nat
  /-- EPOCH_MISSED already counted for this epoch. [19 R555] reset none. -/
  missFor : Option Nat
deriving DecidableEq, Repr

/-- A telemetry result (19 Table 19.7). -/
structure TelResult where
  valid : Bool
  good  : BitVec 12
  last  : BitVec 12
deriving DecidableEq, Repr

/-- Telemetry (19 Table 19.7). -/
structure Telem where
  /-- TELEM.CTL.RUN. [19 Table 19.7] reset DESIGN CHOICE 0 (log 1). -/
  run    : Bool
  /-- TELEM.CTL.PERIOD. [19 Table 19.7] reset DESIGN CHOICE 0 (log 1). -/
  period : Half
  /-- TELEM.MISSED, 32 bits RS. [19 Table 19.7] reset DESIGN CHOICE 0 (log 1). -/
  missed : Word
  /-- TELEM.HELD, 32 bits RS. [19 Table 19.7] reset DESIGN CHOICE 0 (log 1). -/
  held   : Word
  /-- TELEM.SEQ[0..31]. [19 Table 19.7] reset DESIGN CHOICE 0 (log 1). -/
  seq    : Vector Word 32
  /-- TELEM.RESULT[0..23]. [19 Table 19.7] reset DESIGN CHOICE 0 (log 1). -/
  result : Vector TelResult 24
  /-- TELEM.ENERGY[0..9] in µJ, 64 bits. [19 Table 19.7] reset DESIGN CHOICE 0 (log 1). -/
  energy : Vector DWord 10
  /-- ENERGY at the last epoch boundary. [19 R564] reset DESIGN CHOICE 0 (log 1). -/
  eMark  : Vector DWord 10
  /-- Time in ps of each integrator's last advance. [19 R563] reset DESIGN CHOICE 0 (log 1). -/
  eAt    : Vector Nat 10
  /-- Sequence entry and sample index of the run in progress. [19 R561] reset none. -/
  pos    : Option (Nat × Nat)
  /-- Time in ps of the previous sample. [19 R560] reset none. -/
  sampleAt : Option Nat
  /-- Time in ps at which the timer last triggered the sequence. [19 R561] reset DESIGN CHOICE 0 (log 9). -/
  trigAt : Nat
  /-- Channel, gain and filter of the previous sample, and samples since they changed. [19 R562] reset none. -/
  mode   : Option (Word × Nat)
deriving DecidableEq, Repr

/-- The SYS block and reset requests (01, 20, 21). -/
structure Sys where
  /-- SYS.FWVER. [01 R30] reset 0. -/
  fwver  : Word
  /-- SYS.STALL_OK, 64 bits. [01 R31] reset DESIGN CHOICE 0 until the self-test has run (log 1). -/
  stallOk : DWord
  /-- SYS.DEBUG.ENABLE. [02 Table 2.3] reset 0. -/
  dbgEn  : Bool
  /-- SYS.DEBUG.ACTIVE. [02 Table 2.3] reset 0. -/
  dbgOn  : Bool
  /-- Values written to SYS.DEBUG.ENABLE with their times in ps, newest first, back to the one last taken into force. [02 R65]
  reset DESIGN CHOICE none (log 9). -/
  dbgAt  : List (Nat × Bool)
  /-- SYS.BOOT.STAGE, the stage in progress. [20 Table 20.8] reset DEDUCED 1 (log 39). -/
  stage  : BitVec 4
  /-- SYS.BOOT.FAIL. [20 Table 20.10] reset 0. -/
  fail   : BitVec 4
  /-- SYS.BOOT bank booted, false A. [20 Table 20.10] reset DESIGN CHOICE 0 (log 1). -/
  bank   : Bool
  /-- BOOT, the cold-reset count, 32 bits. [18 Table 18.9] reset DESIGN CHOICE 1, the first power-on (log 1). -/
  boot   : Word
  /-- SYS.RESET_CAUSE kind and source. [20 Table 20.10] reset 1 (power-on); source DESIGN CHOICE 0 (log 1). -/
  cause  : BitVec 4 × BitVec 4
  /-- Reset requested and not yet in effect: kind 1 warm or 2 cold, and source. [20 R600] reset none. -/
  request : Option (BitVec 2 × BitVec 4)
  /-- SYS.ROW_SEL BUSY. [21 Table 21.6] reset 0. -/
  rowBusy : Bool
  /-- SYS.ROW_SEL DONE. [21 Table 21.6] reset 0. -/
  rowDone : Bool
  /-- SYS.ROW_SEL FAIL. [21 Table 21.6] reset 0. -/
  rowFail : Bool
  /-- SYS.ROW_SEL STALL. [21 Table 21.6] reset 0. -/
  rowStall : Fin 64
  /-- SYS.ROW_SEL ROW. [21 Table 21.6] reset 0. -/
  rowRow : BitVec 19
  /-- SYS.ROW_BUF[0..31]. [21 R630] reset DESIGN CHOICE 0 (log 1). -/
  rowBuf : Row
  /-- Fields whose Stem port locked. [20 R609] reset DESIGN CHOICE none (log 9). -/
  stemUp : Vector Bool 4
  /-- Time in ps at which stage STEM began. [20 R609] reset DESIGN CHOICE 0 (log 9). -/
  stemAt : Nat
  /-- The boot sequence in progress is that of a warm reset (R607). [20 R607] reset false. -/
  warmBoot : Bool
deriving DecidableEq, Repr

/-- The management chain interface and JTAG (20). -/
structure Chain where
  /-- CHAIN.STATUS.ADDR_VALID with ADDR. [20 Table 20.10] reset 0. -/
  addr   : Option Byte
  /-- Time in ps at which this module last began to drive CHN_ATTN_N low; ATTN_DRIVING reads 1 for 1 ms from it.
  [20 R592] reset none. -/
  pulse  : Option Nat
  /-- CHAIN.STATUS.ATTN_STUCK. [20 Table 20.10] reset 0. -/
  stuck  : Bool
  /-- CHAIN.STATUS.ATTN_STUCK_EXT. [20 Table 20.10] reset 0. -/
  stuckExt : Bool
  /-- CHAIN.STATUS.OVERFLOW. [20 Table 20.10] reset 0. -/
  overflow : Bool
  /-- CHAIN.ATTN, 8 bits. [20 Table 20.5] reset DESIGN CHOICE 0 (log 1). -/
  attn   : Byte
  /-- Bits of CHAIN.ATTN that were set in this cc (00 R15). MODEL, reset DESIGN CHOICE none (log 10). -/
  attnNew : Byte
  /-- ATTN_STUCK, ATTN_STUCK_EXT and OVERFLOW were set in this cc (00 R15). MODEL, reset DESIGN CHOICE none (log 10). -/
  statNew : Bool × Bool × Bool
  /-- CHAIN.ATTN_MASK, 8 bits. [20 Table 20.10] reset 0xFF. -/
  mask   : Byte
  /-- CHAIN.CRC_ERR, 32 bits RS. [20 Table 20.10] reset DESIGN CHOICE 0 (log 1). -/
  crcErr : Word
  /-- CHAIN.FRAMES, 32 bits RS. [20 Table 20.10] reset DESIGN CHOICE 0 (log 1). -/
  frames : Word
  /-- Owner key staged by ENROLL_OWNER. [20 R599] reset none. -/
  staged : Option (List Byte)
  /-- JTAG instruction: 0 BYPASS, 1 IDCODE, 2 SAMPLE/PRELOAD, 3 EXTEST. [20 R584] reset DESIGN CHOICE IDCODE, as IEEE 1149.1 (log 15). -/
  jtag   : BitVec 2
  /-- JTAG data register, and the boundary cells. [20 R584] reset DESIGN CHOICE 0 (log 15). -/
  jdr    : BitVec 32
  /-- See jdr. [20 R584] reset DESIGN CHOICE 0 (log 15). -/
  cells  : BitVec 6
  /-- EXTEST drives the pins. [20 R584] reset false. -/
  extest : Bool
  /-- MOD_RESET_N level. [20 Table 20.2] reset high (pull-up). -/
  modResetN : Bool
  /-- PWR_BRAKE_N level. [20 Table 20.2] reset high (pull-up). -/
  brakeN : Bool
  /-- PERST_N level. [20 Table 20.1] reset high. -/
  perstN : Bool
deriving DecidableEq, Repr

/-- What the block has put on its outer interfaces. -/
inductive Out where
  /-- Data a read returned to its requester. -/
  | read (rq : Requester) (v : Word)
  /-- 170 UI of the 16 lanes of a sheaf: a codeword, an alignment marker or a block of a training frame (11 R288). -/
  | line (n : Fin 20) (lanes : List (List Pam))
  /-- What that codeword carries: its framing symbol (11 Table 11.9). -/
  | symbol (n : Fin 20) (fsym : BitVec 4) (farg : BitVec 26)
  /-- A control record whose slot begins in it: kind and words. -/
  | record (n : Fin 20) (kind : Byte) (words : List Nat)
  /-- A scheduled, dynamic or ring row whose slot begins in it: tag and data. -/
  | row (n : Fin 20) (tag : BitVec 64) (data : Row)
  /-- The control block of the training frame that begins. -/
  | train (n : Fin 20) (ctrl : BitVec 85)
  /-- A receiver-detect pulse; idle codewords with markers begin after blind training. -/
  | pulse (n : Fin 20)
  | idle (u : BlindUnit)
  /-- An MSI-X message of a function. -/
  | msix (f : Fin 65) (vec : BitVec 5)
  /-- A chain frame sent downstream. -/
  | chain (f : ChainFrame)
  /-- A pulse on CHN_ATTN_N. -/
  | attn
  /-- JTAG data out. -/
  | tdo (v : Word)
  /-- A PCIe configuration completion: true success, false Request Retry Status. -/
  | config (ok : Bool)
  /-- Deskew trims of the four bridges in ps, signed. -/
  | trim (v : Vector Half 4)
deriving DecidableEq, Repr

/-- The key store (18 Table 18.6). -/
structure Keys where
  /-- Slot 1, the owner key. [18 Table 18.6] reset DESIGN CHOICE none (log 16). -/
  owner : Option (List Byte)
  /-- Slots 2 to 7. [18 Table 18.6] reset none. -/
  block : Vector (Option (List Byte)) 6
  /-- KEY_STATUS.KEY_BLOCK_OK. [18 Table 18.10] reset 0. -/
  ok    : Bool
deriving DecidableEq, Repr

/-- What a lock covers as it was when the lock was taken (16 R463). -/
structure LockSnap where
  parts  : Vector Part 64
  stalls : Vector Stall 64
  keys   : Keys
deriving DecidableEq, Repr

/-- The module. -/
structure State where
  /-- The commands that are waiting, first in, first out. reset empty. -/
  pending : List Instr
  /-- SYS.CYCLE: the global cycle count; the register shows its low 64 bits. [02 R37] reset DESIGN CHOICE 0 (log 17). -/
  cycle   : Nat
  /-- Elapsed time in ps. MODEL, reset DESIGN CHOICE 0 (log 17). -/
  now     : Nat
  /-- What elapsed time exceeds that by, in fractions of a ps. MODEL, reset DESIGN CHOICE 0 (log 17). -/
  frac    : Nat
  stalls  : Vector Stall 64
  parts   : Vector Part 64
  funcs   : Vector Func 65
  sheaves : Vector Sheaf 20
  ports   : Vector Port 8
  link    : Link
  ring    : Ring
  fab     : Fab
  gran    : Granary
  pwr     : Pwr
  clk     : Clk
  telem   : Telem
  sys     : Sys
  chain   : Chain
  keys    : Keys
  /-- Scheduled rows in flight on the Market. [10 R269] reset none. -/
  flights : List Flight
  /-- Hub SRAM, 8 MiB, by byte. [01 Table 1.1] reset DESIGN CHOICE 0 (log 2). -/
  sram    : Mem
  /-- Host memory as the block reads and writes it. MODEL, reset DESIGN CHOICE 0 (log 2). -/
  host    : Mem
  /-- Serial NOR flash banks and key block, by byte, each byte inverted: an erased byte, 0xFF, is not listed.
  [20 R596] reset DESIGN CHOICE erased (log 47). -/
  flash   : Mem
  /-- The journal in flash: records in write order. [18 R531] reset DESIGN CHOICE empty (log 16). -/
  journal : List (List Word)
  /-- Records written since the journal was empty. [18 R531] reset DESIGN CHOICE 0 (log 16). -/
  journalN : Nat
  /-- The Granary directory in flash. [15 R424, 20 Table 20.6] reset DESIGN CHOICE empty (log 16). -/
  dirFlash : Tab Region
  /-- LEDGER.JOURNAL OK, REPLAYED, UNACCOUNTED. [18 Table 18.10] reset DESIGN CHOICE 0 (log 1). -/
  jflags  : Bool × Bool × Bool
  /-- CREATE_SEQ module counter, kept in the journal. [18 R509] reset DESIGN CHOICE 0 (log 16). -/
  createSeq : Nat
  /-- High word latched for each requester: function 0 to 64, then MP, SP, PP, Serving Unit, chain. [00 R11] reset 0 (R18). -/
  latch   : Tab Word
  /-- Pending buffer of the operator's events, at most 64. [21 R621] reset empty. -/
  evBuf   : List Event
  /-- Operator's events that found that buffer full and whose loss no entry has reported. [21 R621] reset 0. -/
  evOver  : Nat
  /-- What reads of the locked range return. [16 R463] reset none. -/
  lockWas : Option LockSnap
  /-- NumVFs. [18 Table 18.4] reset DESIGN CHOICE 0 (log 1). -/
  numVfs  : BitVec 7
  /-- POWER_STATE in progress. [17 Table 17.4] reset none. -/
  jobPower : Option Packet
  /-- DIAG in progress: packet, sheaf, and the time in ps it began and ends. [17 R502] reset none. -/
  jobDiag : Option (Packet × Fin 20 × Nat × Nat)
  /-- Free values drawn. MODEL, reset DESIGN CHOICE 0 (log 7). -/
  freeCtr : Nat
  /-- Everything driven outward, oldest first. MODEL, reset DESIGN CHOICE empty (log 10). -/
  out     : List Out
deriving DecidableEq, Repr

/-- Faults of a step. No command of this block stops it: what the spec refuses ends in a status, an event,
a drop or a capture, which is a next state; so nothing raises a fault, and that is safe. -/
inductive Fault where
  /-- Raised by no command; it stands here because the interface names a fault type. Safe. -/
  | none
deriving DecidableEq, Repr

/-- Refusals of a step. -/
inductive Refusal where
  /-- Raised by an arm of exec whose command has no meaning yet. Safe. -/
  | notModelled (mnemonic : String)
deriving DecidableEq, Repr

/-- An empty capture set. -/
def Capture.none : Capture := ⟨false, 0, 0, 0, 0, 0, 0, false, 0⟩

def Pad.reset : Pad :=
  { mem := [], badPar := [], poison := [], log := [], tallyOvf := false, scrubLate := false, bitsNew := (false, false),
    logOvf := false, tallyIdx := 0, passes := 0, scrubRow := 0, scrubCur := 0, scrubWait := [],
    scrubHot := [], scrubTicks := 0, scrubIssued := 0, scrubPass := 0, scrubTold := false,
    conflicts := 0, deferred := [], rx := [], refWait := [], refOut := [], first := [],
    acc := [], served := [] }

def Seq.reset : Seq :=
  { state := .idle, pc := 0, branch := none, issued := false, past := false,
    endedAt := none, loopWas := none, idleTo := none,
    loops := Vector.replicate 8 ⟨0, 0⟩, keys := Vector.replicate 16 ⟨0, 0⟩, store := [],
    storeBad := [], valid := 0, fromImg := 0, tally := Vector.replicate 512 0, ccs := [],
    holds := [], recs := [], redo := none, sched := 0, fault := .none, step := 0, steps := 0, recBase := none,
    recFile := [], recBad := [] }

def Cube.reset : Cube :=
  { tile := [], colTab := [], rowTab := [], acc := [], loading := false,
    valid := false, tset := false, wenc := false, wbits := 0, wsign := false, tileRow := 0,
    accSat := 0, dropped := 0, zskip := 0, overrun := 0, reqSat := 0,
    scale := Vector.replicate 256 0, zs := none, live := 0, guarded := none }

def Lanes.reset : Lanes :=
  { const := Vector.replicate 16 0, opc := 0, dropped := 0, cntA := 0,
    cntB := 0 }

def Layout.reset : Layout :=
  { tilePath := false, opc := 0, dropped := 0, xtile := [] }

def Hop.reset : Hop := { queue := [], issues := 0, dropped := 0, rxFull := 0 }

def Router.reset : Router :=
  { owner := Vector.replicate 5 none, slots := Vector.replicate 5 [], drop := 0, dynWait := 0,
    inq := Vector.replicate 5 [], rr := Vector.replicate 5 0, held := [],
    sent := [] }

def Window.none : Window := ⟨false, false, false, false, false, false, 0, 0, 0⟩

def Xlate.reset : Xlate :=
  { win := Vector.replicate 32 .none, backed := Vector.replicate 16 ⟨false, 0, 0, 0⟩,
    mesh := Vector.replicate 6 (0, 0), spanId := none, descBase := none, descFile := [],
    descBad := [], xf := .none, foreign := 0, gleanFail := 0 }

def Hazard.reset : Hazard := { cap := .none, arrs := [], reads := [], prev := [], wrote := [], stepNo := 0 }

def Takes.reset : Takes :=
  { file := [], bad := [], cursor := 0, past := false, active := [], done := [], miss := 0, retake := 0 }

def Stall.reset : Stall :=
  { pad := .reset, seq := .reset, ca := .reset, le := .reset, ve := .reset, te := .reset,
    he := .reset, rt := .reset, xl := .reset, hz := .reset, tk := .reset, ops := [], power := .s3,
    wake := none, act := none, actPrev := none, units := 0, clearing := none }

def LineTx.reset : LineTx :=
  { cw := 4096, count := 0, scr := 0, bits := [], block := 0, ctrl := 0, sent := 0, mark := none, syms := [],
    recs := [], sched := [], again := [] }

def Sheaf.reset : Sheaf :=
  { state := .disabled, fail := 0, latOk := false, selfLoop := false, foreign := false,
    drift := false, lanes := 0, since := 0, pulses := 0, frames := 0, rxReady := false,
    markers := Vector.replicate 16 0, lanePos := Vector.replicate 16 0, delay := 0, schedCc := 0,
    holdCc := 0, far := none, eq := Vector.replicate 4 0, preset := none, conv := none, applied := 0,
    tapStat := 0, cap := none, capSeen := 0, capAck := false, aligned := false, probes := 0,
    bestTrip := none, fecCorr := 0, fecSym := 0, fecUnc := 0, schedLost := 0, dynRetry := 0,
    markMiss := 0, retrains := 0, uncTimes := [], delayBuf := [], rxE := 0, nakTo := none,
    dynRx := [], txNext := 0, unacked := [], txq := [], ackAt := 0, atMark := none, retrain := false, markAt := none,
    driftBy := 0, laneAt := Vector.replicate 16 none, inv := Vector.replicate 16 false,
    missRun := Vector.replicate 16 0, cleanAt := 0, pulseAt := none, lostAt := none, tx := .reset }

def Port.reset (keep : BitVec 3) : Port :=
  { enable := true, keep := keep, coll := 0, job := none, width := none, tries := 0, downAt := none, retrain := 0, heard := [] }

def Link.reset : Link :=
  { node := none, torus := 0, estab := false, root := false, rootNode := 0, dist := 0,
    parent := none, route := [], drop := 0, lost := [], restored := [] }

def Ring.reset : Ring :=
  { state := 0, closed := false, id := 0, rev := 0, revLen := 0, raw := 0, damaged := 0,
    tapDrop := 0, width := 0, table := [], me := 0, t0 := none, acceptAt := none, markers := [], inbox := [], held := [],
    tap := [], frames := [], filled := [], hurt := [], haltReq := false, offAt := none,
    calOk := none, part := none, fillFrom := none, fillPin := none }

def Adapter.reset : Adapter :=
  { current := none, copy := false, retired := false, super := 0, ever := false, last := 0, placed := false,
    job := none, retireJob := none, img := [], imgLen := 0 }

def Part.reset : Part :=
  { state := 0, depot := false, stalls := 0, hubBase := 0, hubPages := 0, createSeq := 0,
    account := 0, keymask := 0, span := none, rank := 0, sizeM1 := 0, isRoot := false, parent := 0,
    kids := 0, h := 0, spanState := 0, cause := 0, origin := 0, lost := none, hroot := 0,
    digest := 0, nbs := [], hops := 0, allRanks := false, edges := [], height := 0, tree := ⟨[], [], []⟩, hkMiss := 0,
    image := none, disp := none, queue := [], ended := [], lastStat := none, lastRuns := (0, 0),
    choice := 0, pendChoice := 0, newChoice := 0, newRun := 0, newFrozen := 0, choiceLast := 0, repro := 0, reqTail := 0, tailWas := 0, reqHead := 0,
    repHead := Vector.replicate 16 0, repTail := Vector.replicate 16 0, gHit := 0, gMiss := 0,
    gSkip := 0, variant := 0, adapters := Vector.replicate 16 .reset, ctx := none, ackWait := 0, ackTo := none,
    hwin := Vector.replicate 16 ⟨0, 0, 0, 0⟩, winFault := 0, winNew := false, winTold := false, winFaults := 0,
    cnt := Vector.replicate 16 0, sealSeq := 0, close := [], job := none, swap := none,
    halt := none, fresh := false, freshPs := 0, freshEpoch := false,
    margin := Vector.replicate 16 500, goodEp := Vector.replicate 16 0, frac := 0, epochRun := 0,
    zero := none }

def Func.reset : Func :=
  { cbase := 0, csize := 0, rbase := 0, rsize := 0, enable := false, irq := false, vec := 0,
    running := false, error := false, errNew := false, errCode := 0, tail := 0, head := 0, rhead := 0, rtail := 0,
    infl := 0, accepted := [], orphans := [], jobsG := [], ebase := 0, esize := 0,
    eenable := false, eirq := false, evec := 0, etail := 0, ehead := 0, elost := 0,
    emask := 0x1FE, eseq := 0, eloss := false, events := [] }

def Fab.reset : Fab :=
  { draining := false, atLink := [], lock := none, lockTo := 0, expired := false, staged := [], heldWr := [],
    badacc := 0, bitsNew := (false, false, false), drainDrop := 0, timeouts := 0, toldMs := none, winFault := 0, winFaults := 0,
    fetches := Vector.replicate 4 [], hubq := Vector.replicate 4 [], downq := Vector.replicate 4 [],
    nextId := 0, drainTo := none }

def Granary.reset : Granary :=
  { mem := [], crc := [], avail := false, retained := false, chans := 0, retry := 0, err := 0,
    badLog := [], dir := [], fails := Vector.replicate 32 0, gone := true, swap := (0, 0) }

def Pwr.reset : Pwr :=
  { mstate := 2, cellReady := false, backup := false, brake := false, isoOk := false,
    thermal := false, limiting := false, limit := 0x898, inVolt := 0, inWatt := 0, cell := 0,
    ticks := 0, lossTick := 0, flushOut := 0, returned := false, aonLost := false, flushN := 0,
    flush := none, lost := false, valid := true, guardTo := Vector.replicate 4 none,
    dip := Vector.replicate 4 0, temps := Vector.replicate 5 0, wattSum := 0, wattN := 0, droops := 0, unattr := 0,
    unattrFrac := 0, capPower := 32, capTherm := 32,
    limited := false, isoLimit := false, isoAt := 0, journal := [], wake := none, toM2 := false }

def Clk.reset : Clk :=
  { fcode := 26, ceil := 26, next := none, skew := Vector.replicate 4 0, alarms := 0, missed := 0,
    kids := [], sent := none, copyAt := none, job := none, epoch := 0, missFor := none }

def Telem.reset : Telem :=
  { run := false, period := 0, missed := 0, held := 0, seq := Vector.replicate 32 0,
    result := Vector.replicate 24 ⟨false, 0, 0⟩, energy := Vector.replicate 10 0,
    eMark := Vector.replicate 10 0, eAt := Vector.replicate 10 0, pos := none, sampleAt := none, trigAt := 0, mode := none }

def Sys.reset : Sys :=
  { fwver := 0, stallOk := 0, dbgEn := false, dbgOn := false, dbgAt := [], stage := 1, fail := 0, bank := false,
    boot := 1, cause := (1, 0), request := none, rowBusy := false, rowDone := false,
    rowFail := false, rowStall := 0, rowRow := 0, rowBuf := Row.zero,
    stemUp := Vector.replicate 4 false, stemAt := 0, warmBoot := false }

def Chain.reset : Chain :=
  { addr := none, pulse := none, stuck := false, stuckExt := false, overflow := false, attn := 0, attnNew := 0,
    statNew := (false, false, false),
    mask := 0xFF, crcErr := 0, frames := 0, staged := none, jtag := 1, jdr := 0, cells := 0, extest := false, modResetN := true,
    brakeN := true, perstN := true }

def Keys.reset : Keys := { owner := none, block := Vector.replicate 6 none, ok := false }

/-- The ports at reset (11 R317). -/
def portsReset : Vector Port 8 :=
  Vector.ofFn fun i => if i.val < 6 then Port.reset 7 else Port.reset 1

/-- The module right after its power-on reset took effect and before any boot stage is done
(20 R607, R611, Table 20.9). -/
def State.reset : State :=
  { pending := [], cycle := 0, now := 0, frac := 0, stalls := Vector.replicate 64 .reset,
    parts := Vector.replicate 64 .reset, funcs := Vector.replicate 65 .reset,
    sheaves := Vector.replicate 20 .reset, ports := portsReset, link := .reset, ring := .reset,
    fab := .reset, gran := .reset, pwr := .reset, clk := .reset, telem := .reset, sys := .reset,
    chain := .reset, keys := .reset, flights := [], sram := [], host := [], flash := [],
    journal := [], journalN := 0, dirFlash := [], jflags := (false, false, false), createSeq := 0, latch := [], evBuf := [],
    evOver := 0, lockWas := none, numVfs := 0, jobPower := none, jobDiag := none, freeCtr := 0, out := [] }

end Sys2Proof.Machine
end

