-- ==== Sys2Proof/Machine/Mem.lean ====
section
/-! DEFINITION. The named operations over sparse memories and tables. Both are kept in one form: keys
strictly rising, and in a memory no byte that an unlisted address already reads as (0, log 2). -/

namespace Sys2Proof.Machine

/-- Keys strictly rising, all above a bound if one is given. -/
def Tab.rising {α : Type} : Option Nat → Tab α → Bool
  | _, [] => true
  | lo, (k, _) :: l => (match lo with | none => true | some b => decide (b < k)) && Tab.rising (some k) l

/-- The entry of a key. -/
def Tab.get? {α : Type} : Tab α → Nat → Option α
  | [], _ => none
  | (k, v) :: l, a => if a < k then none else if k = a then some v else Tab.get? l a

/-- The entry of a key, or a default. -/
def Tab.getD {α : Type} (t : Tab α) (a : Nat) (d : α) : α := (t.get? a).getD d

/-- The table with an entry written. -/
def Tab.set {α : Type} : Tab α → Nat → α → Tab α
  | [], a, v => [(a, v)]
  | (k, x) :: l, a, v =>
    if a < k then (a, v) :: (k, x) :: l else if k = a then (a, v) :: l else (k, x) :: Tab.set l a v

/-- The table without a key. -/
def Tab.del {α : Type} (t : Tab α) (a : Nat) : Tab α := t.filter (fun e => e.1 ≠ a)

/-- The table without the keys of [a, a + n). -/
def Tab.clear {α : Type} (t : Tab α) (a n : Nat) : Tab α := t.filter (fun e => e.1 < a || a + n ≤ e.1)

/-- The lowest key in [a, a + n) that is not in the table. -/
def Tab.freeKey {α : Type} (t : Tab α) (a : Nat) : Nat → Option Nat
  | 0 => none
  | n + 1 => if (t.get? a).isNone then some a else Tab.freeKey t (a + 1) n

/-- The canonical form of a memory. -/
def Mem.wf (m : Mem) : Bool := Tab.rising none m && m.all (fun e => e.2 ≠ 0)

/-- One byte; an unlisted address reads 0 (log 2). -/
def Mem.rd (m : Mem) (a : Nat) : Byte := Tab.getD m a 0

/-- One byte written; a zero byte leaves the list. -/
def Mem.wr (m : Mem) (a : Nat) (b : Byte) : Mem := if b = 0 then Tab.del m a else Tab.set m a b

/-- n bytes from an address. -/
def Mem.bytes (m : Mem) (a : Nat) : Nat → List Byte
  | 0 => []
  | n + 1 => m.rd a :: Mem.bytes m (a + 1) n

/-- Bytes written from an address on. -/
def Mem.put (m : Mem) (a : Nat) : List Byte → Mem
  | [] => m
  | b :: l => Mem.put (m.wr a b) (a + 1) l

/-- n bytes from an address set to 0. -/
def Mem.zero (m : Mem) (a n : Nat) : Mem := Tab.clear m a n

/-- A 32-bit little-endian word (00 R7). -/
def Mem.word (m : Mem) (a : Nat) : Word := bytesWord (m.rd a) (m.rd (a + 1)) (m.rd (a + 2)) (m.rd (a + 3))

/-- A 32-bit little-endian word written. -/
def Mem.putWord (m : Mem) (a : Nat) (w : Word) : Mem := m.put a (wordBytes w)

/-- A 64-bit little-endian quantity. -/
def Mem.dword (m : Mem) (a : Nat) : DWord := Machine.dword (m.word a) (m.word (a + 4))

/-- n words from an address. -/
def Mem.words (m : Mem) (a n : Nat) : List Word := (List.range n).map (fun i => m.word (a + 4 * i))

/-- The 128-byte row at a byte address. -/
def Mem.row (m : Mem) (a : Nat) : Row := Vector.ofFn (fun i : Fin 32 => m.word (a + 4 * i.val))

/-- The words of a row that a mask selects, written (04 R105). -/
def Mem.putRow (m : Mem) (a : Nat) (r : Row) (mask : Word) : Mem :=
  (List.finRange 32).foldl
    (fun m i => if mask.getLsbD i.val then m.putWord (a + 4 * i.val) r[i] else m) m

/-- The listed bytes of [a, a + n), moved so that a becomes b. -/
def Mem.slice (m : Mem) (a n b : Nat) : Mem :=
  (m.filter (fun e => a ≤ e.1 && e.1 < a + n)).map (fun e => (e.1 - a + b, e.2))

/-- [b, b + n) of `dst` replaced by [a, a + n) of `src`. -/
def Mem.copy (dst src : Mem) (a n b : Nat) : Mem :=
  (src.slice a n b).foldl (fun m e => m.wr e.1 e.2) (dst.zero b n)

/-- A sorted list of numbers with one added. -/
def insN (a : Nat) : List Nat → List Nat
  | [] => [a]
  | b :: l => if a < b then a :: b :: l else if a = b then b :: l else b :: insN a l

/-- A list in the order of a key, equal keys in the order in which they stood. -/
def sortBy {α : Type} (key : α → Nat) : List α → List α
  | [] => []
  | a :: l => let r := sortBy key l
    r.takeWhile (fun b => decide (key b < key a)) ++ a :: r.dropWhile (fun b => decide (key b < key a))

end Sys2Proof.Machine
end

