-- ==== Sys2Proof/Machine/Ops.lean ====
section
/-! DEFINITION. Operations that every family shares: one accessor for each part of State, events,
tally counters, symbols on the hold tree, fault stops, step faults, raised Holds and captures. -/

namespace Sys2Proof

open Sys2Proof.Machine

/-- Parameter word i of a packet, at offset 0x08 + 4i (17 R475). -/
def Packet.w (k : Packet) (i : Nat) : Word := k.words.toList.getD i 0

end Sys2Proof

namespace Sys2Proof.Machine

/-- What a step answers. -/
abbrev Answer := Host.Outcome State Fault Refusal

/-- A register access over the matrix. While a warm reset drains the matrix, one from the host waits at the link and one of a
hub agent is not accepted; the chain's does not cross the matrix (16 R466). -/
def State.viaMatrix (s : State) (rq : Requester) (off : BitVec 24) (wr : Option Word) (go : State → State) : State :=
  if s.fab.drainTo.isNone then go s
  else match rq with
    | .host f => { s with fab := { s.fab with atLink := s.fab.atLink ++ [(f, off, wr)] } }
    | .chain => go s
    | _ => s

/-! The journal buffer (19 R539). -/

def JournalItem.isRecord : JournalItem → Bool
  | .record _ _ => true
  | .directory _ _ => false

/-- Room for one more Ledger record, or for one more directory update. -/
def Pwr.roomRecord (w : Pwr) : Bool := decide ((w.journal.filter JournalItem.isRecord).length < 64)
def Pwr.roomDirectory (w : Pwr) : Bool := decide ((w.journal.filter (fun j => !j.isRecord)).length < 32)

/-- An item enters the journal buffer; one that finds its part full waits behind it. -/
def State.toJournal (s : State) (j : JournalItem) : State :=
  { s with pwr := { s.pwr with journal := s.pwr.journal ++ [j] } }

def State.stl (s : State) (i : Fin 64) : Stall := s.stalls[i]
def State.setStl (s : State) (i : Fin 64) (x : Stall) : State := { s with stalls := s.stalls.set i x }
def State.modStl (s : State) (i : Fin 64) (f : Stall → Stall) : State := s.setStl i (f (s.stl i))
def State.part (s : State) (i : Fin 64) : Part := s.parts[i]
def State.setPart (s : State) (i : Fin 64) (x : Part) : State := { s with parts := s.parts.set i x }
def State.modPart (s : State) (i : Fin 64) (f : Part → Part) : State := s.setPart i (f (s.part i))
def State.func (s : State) (i : Fin 65) : Func := s.funcs[i]
def State.setFunc (s : State) (i : Fin 65) (x : Func) : State := { s with funcs := s.funcs.set i x }
def State.modFunc (s : State) (i : Fin 65) (f : Func → Func) : State := s.setFunc i (f (s.func i))
def State.sheaf (s : State) (i : Fin 20) : Sheaf := s.sheaves[i]
def State.setSheaf (s : State) (i : Fin 20) (x : Sheaf) : State := { s with sheaves := s.sheaves.set i x }
def State.modSheaf (s : State) (i : Fin 20) (f : Sheaf → Sheaf) : State := s.setSheaf i (f (s.sheaf i))
def State.port (s : State) (i : Fin 8) : Port := s.ports[i]
def State.setPort (s : State) (i : Fin 8) (x : Port) : State := { s with ports := s.ports.set i x }
def State.modPort (s : State) (i : Fin 8) (f : Port → Port) : State := s.setPort i (f (s.port i))

def State.modPad (s : State) (i : Fin 64) (f : Pad → Pad) : State :=
  s.modStl i (fun x => { x with pad := f x.pad })
def State.modSeq (s : State) (i : Fin 64) (f : Seq → Seq) : State :=
  s.modStl i (fun x => { x with seq := f x.seq })
def State.modCa (s : State) (i : Fin 64) (f : Cube → Cube) : State :=
  s.modStl i (fun x => { x with ca := f x.ca })
def State.modRt (s : State) (i : Fin 64) (f : Router → Router) : State :=
  s.modStl i (fun x => { x with rt := f x.rt })
def State.modHe (s : State) (i : Fin 64) (f : Hop → Hop) : State :=
  s.modStl i (fun x => { x with he := f x.he })
def State.modXl (s : State) (i : Fin 64) (f : Xlate → Xlate) : State :=
  s.modStl i (fun x => { x with xl := f x.xl })
def State.modHz (s : State) (i : Fin 64) (f : Hazard → Hazard) : State :=
  s.modStl i (fun x => { x with hz := f x.hz })
def State.modTk (s : State) (i : Fin 64) (f : Takes → Takes) : State :=
  s.modStl i (fun x => { x with tk := f x.tk })
def State.modDisp (s : State) (p : Fin 64) (f : Dispatch → Dispatch) : State :=
  s.modPart p (fun x => { x with disp := x.disp.map f })

/-- Something driven outward. -/
def State.emit (s : State) (o : Out) : State := { s with out := s.out ++ [o] }

/-- A free value (log 7): the n-th one drawn, and the state that has drawn it. -/
def State.draw (s : State) : Word × State := (Config.freeWord s.freeCtr, { s with freeCtr := s.freeCtr + 1 })

/-- The period of one cc in ps, rounded up (02 R54). -/
def ccPs (fcode : BitVec 6) : Nat := ceilDiv 20000 (4 + fcode.toNat)

/-! Status codes (17 Table 17.5). -/
def stOk : Byte := 0x00
def stBusy : Byte := 0x01
def stBadOpcode : Byte := 0x02
def stBadParam : Byte := 0x03
def stDenied : Byte := 0x04
def stNoResource : Byte := 0x05
def stFaulted : Byte := 0x06
def stTimeout : Byte := 0x07
def stStaleGen : Byte := 0x08
def stPoisoned : Byte := 0x09
def stSpanFault : Byte := 0x0A
def stContract : Byte := 0x0B
def stSignature : Byte := 0x0C

/-! Partitions, Stalls and dispatches. -/

/-- The partition that holds a Stall (18 R506). -/
def State.owner (s : State) (st : Fin 64) : Option (Fin 64) :=
  (List.finRange 64).find? (fun p => (s.part p).state ≠ 0 && (s.part p).stalls.getLsbD st.val)

/-- The Stalls of a partition, lowest first. -/
def Part.members (p : Part) : List (Fin 64) := (List.finRange 64).filter (fun st => p.stalls.getLsbD st.val)

/-- The virtual function bound to a partition (18 R518). -/
def vfOf (p : Fin 64) : Fin 65 := p.succ

/-- HORIZON of the image placed (02 R47). -/
def Part.horizon (p : Part) : Nat := match p.image with | some i => i.horizon | none => 64

/-- The Stall's partition and its running dispatch. -/
def State.running (s : State) (st : Fin 64) : Option (Fin 64 × Dispatch) :=
  match s.owner st with
  | none => none
  | some p => match (s.part p).disp with
    | none => none
    | some d => some (p, d)

/-- The Stall issues in this cc: its dispatch runs, is not frozen, and its Sequencer is in state 1
(09 R231); the engine slots of the bundle that carries its END issue too (09 R239). -/
def State.issues (s : State) (st : Fin 64) : Bool :=
  match s.running st with
  | some (_, d) => !d.frozen && ((s.stl st).seq.state = .issuing || (s.stl st).seq.endedAt = some s.cycle)
  | none => (s.stl st).seq.endedAt = some s.cycle

/-- The schedule cycle of a Stall's running or last dispatch (09 Table 9.9). -/
def State.schedOf (s : State) (st : Fin 64) : Nat := (s.stl st).seq.sched

/-- A Ledger counter saturates (18 R527). -/
def Part.counted (q : Part) (i : Fin 16) (n : Nat) : Part :=
  { q with cnt := q.cnt.set i (BitVec.ofNat 64 (min (q.cnt[i].toNat + n) 0xFFFFFFFFFFFFFFFF)) }

/-- Add to a Ledger counter (18 R527). -/
def State.count (s : State) (p : Fin 64) (i : Fin 16) (n : Nat) : State :=
  s.modPart p (fun q => q.counted i n)

/-! Events (21). -/

/-- The class of an event code: the bit of ERING_MASK that admits it (log 18). -/
def evClass (code : Half) : Nat := code.toNat / 4096

/-- CHAIN.ATTN bits that an event sets (20 Table 20.5); code 0x4003 about the module is MODULE_LOST (21 R625). -/
def attnOf (code : Half) (modul : Bool) : Byte :=
  if code = 0x7010 ∨ code = 0x7012 then 0x11
  else if evClass code = 7 then 0x10
  else if evClass code = 6 then 0x02
  else if code = 0x3002 ∨ code = 0x3006 ∨ code = 0x3009 ∨ code = 0x300B then 0x04
  else if code = 0x4002 ∨ (code = 0x4003 ∧ modul = true) then 0x08
  else if evClass code = 8 ∧ code ≠ 0x8001 then 0x80
  else 0

/-- Bits of CHAIN.ATTN set by the module (20 Table 20.5). -/
def Chain.attend (c : Chain) (b : Byte) : Chain := { c with attn := c.attn ||| b, attnNew := c.attnNew ||| b }

/-- Bits of CHAIN.ATTN cleared by ones written to them, but for those set in this cc (00 R15). -/
def Chain.ack (c : Chain) (b : Byte) : Chain := { c with attn := c.attn &&& ~~~(b &&& ~~~c.attnNew) }

/-- An event put in its place: by cycle, and within a cycle by class and code (21 R622; log 23). -/
def putEvent (e : Event) : List Event → List Event
  | [] => [e]
  | x :: l => if x.cycle = e.cycle && e.code < x.code then e :: x :: l else x :: putEvent e l

/-- A function's ring receives an event that its mask admits (21 R620, R621). -/
def State.receive (s : State) (f : Fin 65) (e : Event) : State :=
  let fn := s.func f
  if !fn.emask.getLsbD (evClass e.code) then s
  else if f.val = 0 && !fn.eenable then
    if s.evBuf.length < 64 then { s with evBuf := putEvent e s.evBuf }
    else { s.modFunc 0 (fun x => { x with elost := satAdd x.elost 1 }) with evOver := s.evOver + 1 }
  else s.setFunc f { fn with events := putEvent e fn.events }

/-- A partition that exists and is not past step 4 of a zeroization (21 R623). -/
def State.hears (s : State) (p : Fin 64) : Bool := decide (2 ≤ (s.part p).state.toNat) && (s.part p).zero.isNone

/-- Raise an event about a partition, or about none; `tenant` when the table names P or H (21 R623, R624). -/
def State.raise (s : State) (code : Half) (p : Option (Fin 64)) (tenant : Bool) (a0 a1 : Word) : State :=
  let e : Event :=
    { code := code, modul := p.isNone, part := match p with | some q => BitVec.ofNat 6 q.val | none => 0,
      cycle := BitVec.ofNat 64 s.cycle, ticks := BitVec.ofNat 64 s.pwr.ticks, arg0 := a0, arg1 := a1 }
  let s := { s with chain := s.chain.attend (attnOf code p.isNone) }
  let s := s.receive 0 e
  match p with
  | some q => if tenant && s.hears q then s.receive (vfOf q) e else s
  | none => s

/-- "Stall" and "row" in one argument word (21 Table 21.3). -/
def stallRow (st : Fin 64) (row : Nat) : Word := pack [(st.val, 24), (row, 0)]
def stallArg (st : Fin 64) : Word := pack [(st.val, 24)]

/-! Ports, sheaves and symbols (11 Tables 11.1, 11.9). -/

/-- The sheaves of a port, by index. -/
def portSheaves (k : Fin 8) : List (Fin 20) :=
  if k.val < 6 then [fin 19 (3 * k.val), fin 19 (3 * k.val + 1), fin 19 (3 * k.val + 2)]
  else [fin 19 (12 + k.val)]

/-- The port of a sheaf, and its sheaf index. -/
def sheafPort (n : Fin 20) : Fin 8 := if n.val < 18 then fin 7 (n.val / 3) else fin 7 (n.val - 12)
def sheafIndex (n : Fin 20) : Nat := if n.val < 18 then n.val % 3 else 0

/-- The ACTIVE sheaves of a port. -/
def State.activeOf (s : State) (k : Fin 8) : List (Fin 20) :=
  (portSheaves k).filter (fun n => (s.sheaf n).state = .active)

/-- A sheaf of the ring: of this member's ring-out, or leading from the ring-out of the member before. It carries
no dynamic row and no part of the hold tree (13 R356). -/
def State.ringSheaf (s : State) (n : Fin 20) : Bool :=
  let r := s.ring
  let k := r.table.length
  match r.table[r.me]?, r.table[(r.me + k - 1) % max 1 k]? with
  | some e, some b =>
    (sheafPort n = fin 7 e.out.toNat && decide (sheafIndex n < r.width)) ||
    (r.closed && e.byp ≠ 0 && sheafPort n = fin 7 e.byp.toNat) ||
    (match (s.sheaf n).far with
     | some (node, port, i) => node = b.node && port = b.out && decide (i.toNat < r.width)
     | none => false)
  | _, _ => false

/-- A framing symbol, a control record, a scheduled or ring row handed to a sheaf's transmitter, which sends them as its
codewords and their slots have room (11 R304, R306). -/
def State.sendSymbol (s : State) (n : Fin 20) (fsym : BitVec 4) (farg : BitVec 26) : State :=
  s.modSheaf n (fun h => { h with tx := { h.tx with syms := h.tx.syms ++ [(fsym, farg)] } })
def State.sendRecord (s : State) (n : Fin 20) (kind : Byte) (words : List Nat) : State :=
  s.modSheaf n (fun h => { h with tx := { h.tx with recs := h.tx.recs ++ [(kind, words)] } })
def State.sendRow (s : State) (n : Fin 20) (tag : BitVec 64) (data : Row) : State :=
  s.modSheaf n (fun h => { h with tx := { h.tx with sched := h.tx.sched ++ [(tag, data)] } })

/-- A symbol in two consecutive codewords. -/
def State.sendTwice (s : State) (n : Fin 20) (fsym : BitVec 4) (farg : BitVec 26) : State :=
  (s.sendSymbol n fsym farg).sendSymbol n fsym farg

/-- A symbol on every ACTIVE sheaf of a port that is no ring sheaf; a Hold-class one twice (11 R305). -/
def State.sendPort (s : State) (k : Fin 8) (fsym : BitVec 4) (farg : BitVec 26) : State :=
  ((s.activeOf k).filter (fun n => !s.ringSheaf n)).foldl (fun s n =>
    if 1 ≤ fsym.toNat ∧ fsym.toNat ≤ 4 then s.sendTwice n fsym farg else s.sendSymbol n fsym farg) s

/-- The child ports of a member, and all its tree ports (12 Table 12.4). -/
def Part.childPorts (p : Part) : List (Fin 8) := (List.finRange 8).filter (fun k => k.val < 6 && p.kids.getLsbD k.val)
def Part.treePorts (p : Part) : List (Fin 8) :=
  (if decide (2 ≤ p.spanState.toNat) && !p.isRoot then [fin 7 p.parent.toNat] else []) ++ p.childPorts

/-- A control record on a port: on its lowest ACTIVE sheaf that is no ring sheaf. -/
def State.recordPort (s : State) (k : Fin 8) (kind : Byte) (words : List Nat) : State :=
  match (s.activeOf k).find? (fun n => !s.ringSheaf n) with
  | some n => s.sendRecord n kind words
  | none => s

/-- FARG of a Hold-class symbol. -/
def holdArg (span : Option (BitVec 12)) (cyc : Nat) : BitVec 26 :=
  (span.getD 0) ++ BitVec.ofNat 14 cyc

/-- A flooded symbol on every tree port but one (12 R340). -/
def State.flood (s : State) (p : Fin 64) (but : Option (Fin 8)) (fsym : BitVec 4) (cyc : Nat) : State :=
  ((s.part p).treePorts.filter (fun k => some k ≠ but)).foldl
    (fun s k => s.sendPort k fsym (holdArg (s.part p).span cyc)) s

/-! The tag of a row slot (11 Table 11.4). -/
def tagSpan (t : BitVec 64) : Nat := fld t 61 50
def tagRow (t : BitVec 64) : Nat := fld t 49 31
def tagCtr (t : BitVec 64) : Option (BitVec 9) := if bit t 30 then some (BitVec.ofNat 9 (fld t 29 21)) else none
def tagStall (t : BitVec 64) : Fin 64 := fin 63 (fld t 20 15)
def tagStamp (t : BitVec 64) : Nat := fld t 14 3
def tagNode (t : BitVec 64) : BitVec 13 := BitVec.ofNat 13 (fld t 14 2)
def mkTag (type : Nat) (span : BitVec 12) (row : BitVec 19) (ctr : Option (BitVec 9)) (stall low : Nat) : BitVec 64 :=
  BitVec.ofNat 64 (type * 2 ^ 62 + span.toNat * 2 ^ 50 + row.toNat * 2 ^ 31 +
    (match ctr with | some c => 2 ^ 30 + c.toNat * 2 ^ 21 | none => 0) + stall * 2 ^ 15 + low)

/-! Fault stops (02 R638). -/

/-- The stop that governs: the earlier end cycle, then the earlier place in R638. -/
def Stop.least (a : Stop) : Option Stop → Stop
  | none => a
  | some b => if a.endAt < b.endAt ∨ (a.endAt = b.endAt ∧ a.rank < b.rank) then a else b

/-- A fault stop decided in cycle x on this member, without the symbol. -/
def State.stopHere (s : State) (p : Fin 64) (x rank : Nat) (status : Byte) : State :=
  s.modDisp p (fun d => { d with stop := some (Stop.least ⟨x + (s.part p).horizon, rank, status⟩ d.stop) })

/-- A fault stop decided in cycle x governs: none is decided yet that ends the dispatch as early (12 R340). -/
def Part.stopsFirst (q : Part) (x : Nat) : Bool := match q.disp with
  | some { stop := some b, .. } => decide (x + q.horizon < b.endAt)
  | _ => true

/-- A fault stop that this member originates: the SPAN_END that carries it goes to every tree port, and ORIGIN records this
member's rank unless an earlier one governs (12 R340, R342). -/
def State.stopOwn (s : State) (p : Fin 64) (x rank : Nat) (status : Byte) : State :=
  let first := (s.part p).stopsFirst x
  ((s.stopHere p x rank status).modPart p (fun q =>
    { q with origin := if first then q.rank else q.origin })).flood p none 4 x

/-- A fault stop decided in cycle x, while a dispatch runs (02 R638). -/
def State.stopAt (s : State) (p : Fin 64) (x rank : Nat) (status : Byte) : State :=
  match (s.part p).disp with
  | none => s
  | some _ => s.stopOwn p x rank status

/-! Captures (08 R634). -/

/-- The word STALL.SQ_FAULT (09 Table 9.9). -/
def sqFaultWord (c : Capture) : Word :=
  pack [(b2n c.valid, 31), (c.agent.toNat, 24), (c.kind.toNat, 16), (c.addr.toNat % 16384, 0)]

/-- A bundle fault: the operation of a slot is refused with a code (09 R253). -/
def State.bundleFault (s : State) (st : Fin 64) (slot : Nat) (code : Byte) : State :=
  let q := (s.stl st).seq
  let s :=
    if q.fault.valid then s
    else
      let c : Capture := { Capture.none with
        valid := true, kind := code, agent := BitVec.ofNat 8 slot,
        addr := BitVec.ofNat 32 q.pc.toNat, cc := BitVec.ofNat 64 s.cycle }
      (s.modSeq st (fun q => { q with fault := c })).raise 0x2006 (s.owner st) true (sqFaultWord c) (stallArg st)
  match s.running st with
  | some (p, _) => s.stopAt p s.cycle 1 stFaulted
  | none => s

/-- The words STALL.XF_STATUS (08 Table 8.8) and STALL.HZ_STATUS (02 Table 2.4). -/
def xfStatusWord (c : Capture) : Word :=
  pack [(b2n c.valid, 31), (c.kind.toNat, 28), (c.agent.toNat, 24), (c.more.toNat, 16), (c.desc.toNat, 8),
    (b2n c.write, 7)]
def hzStatusWord (c : Capture) : Word :=
  pack [(b2n c.valid, 31), (c.kind.toNat, 16), (c.more.toNat, 8), (c.agent.toNat, 0)]

/-- One more later fault, saturating at 255. -/
def Capture.again (c : Capture) : Capture := { c with more := BitVec.ofNat 8 (min (c.more.toNat + 1) 255) }

/-- A translation fault (08 R219): kind 1 MISS, 2 PERM, 3 BACKED. -/
def State.xlateFault (s : State) (st : Fin 64) (kind agent : Byte) (row : Nat) (desc : Byte) (tag : Word)
    (write : Bool) : State :=
  let c := (s.stl st).xl.xf
  let s :=
    if c.valid then s.modXl st (fun x => { x with xf := c.again })
    else
      let c : Capture :=
        { valid := true, kind := kind, agent := agent, more := 0, addr := BitVec.ofNat 32 row, tag := tag,
          desc := desc, write := write, cc := BitVec.ofNat 64 s.cycle }
      (s.modXl st (fun x => { x with xf := c })).raise 0x1020 (s.owner st) true (xfStatusWord c)
        (stallRow st row)
  match s.running st with
  | some (p, _) => s.stopAt p s.cycle 3 stFaulted
  | none => s

/-- A contract breach, while debug mode is active (02 R68, Table 2.2): captured at a Stall, and a fault stop of the
dispatch of a partition. -/
def State.breachOf (s : State) (st : Fin 64) (p : Option (Fin 64)) (kind : Byte) (slot : Byte) (tally row : Nat) : State :=
  if !s.sys.dbgOn then s
  else
    let c := (s.stl st).hz.cap
    let s :=
      if c.valid then s.modHz st (fun h => { h with cap := c.again })
      else
        let c : Capture := { Capture.none with
          valid := true, kind := kind, agent := slot, cc := BitVec.ofNat 64 s.cycle,
          addr := pack [(tally, 19), (row % 32, 14), (row / 32, 0)] }
        (s.modHz st (fun h => { h with cap := c })).raise 0x2003 p true (hzStatusWord c) (stallArg st)
    match p with
    | some q => s.stopAt q s.cycle 2 stContract
    | none => s

/-- A breach by the partition that holds the Stall. -/
def State.breach (s : State) (st : Fin 64) (kind : Byte) (slot : Byte) (tally row : Nat) : State :=
  s.breachOf st (s.owner st) kind slot tally row

/-! Operations in progress (02 R39, R636). -/

/-- The operation has no further cycle. -/
def Op.over (o : Op) : Bool := decide (o.len ≤ o.t)

/-- The operation is a load of the tile; a run; an LDC. -/
def Op.isLoad (o : Op) : Bool := match o.work with | .load .. => true | _ => false
def Op.isRun (o : Op) : Bool := match o.work with | .run .. => true | _ => false
def Op.isLdc (o : Op) : Bool := match o.work with | .ldc .. => true | _ => false

/-- The unit of a slot is busy in this cc (06 R166, 07 R186, 08 R221, 09 R250, 10 R276): in it the operations in progress
have had their cycle, so that their counts stand one further. -/
def Stall.busy (x : Stall) (slot : Nat) : Bool := x.ops.any (fun o => o.ag.slot = slot && decide (o.t ≤ o.busy))

/-- One more cycle of an operation. -/
def Op.next (o : Op) (w : Work) : Op := { o with t := o.t + 1, work := w }

/-- An operation issued: its first cycle comes about at once, and it is in progress from now on. -/
def State.startOp (s : State) (st : Fin 64) (cc : State → Op → State × Op) (o : Op) : State :=
  let (s, o) := cc s o
  s.modStl st (fun x => { x with ops := x.ops ++ [o] })

/-! Tally counters (04 Table 4.3). -/

/-- The value a counter takes from the updates of one cc. -/
def TallyCc.value (t : TallyCc) : Nat := min (t.set.getD (t.start - t.subs) + t.adds) 0xFFFFFF

/-- The updates take the counter above 0xFF_FFFF (04 R117). -/
def TallyCc.over (t : TallyCc) : Bool := 0xFFFFFF < t.set.getD (t.start - t.subs) + t.adds

/-- The subtractions exceed the counter (04 R116). -/
def TallyCc.under (t : TallyCc) : Bool := t.set.isNone && decide (t.start < t.subs)

/-- A counter's updates of this cc so far. -/
def Seq.cc (q : Seq) (i : Fin 512) : TallyCc :=
  (q.ccs.find? (fun t => t.ctr = i.val)).getD ⟨i.val, q.tally[i].toNat, none, 0, 0⟩

/-- The value a counter held at the start of the cc (02 R46). -/
def Seq.startOf (q : Seq) (i : Fin 512) : Nat := (q.cc i).start

/-- A counter with the updates of this cc replaced. -/
def Seq.putCc (q : Seq) (i : Fin 512) (t : TallyCc) : Seq :=
  { q with ccs := t :: q.ccs.filter (fun u => u.ctr ≠ i.val), tally := q.tally.set i (BitVec.ofNat 24 t.value) }

/-- A tally update in this cc (04 R115). -/
def State.tallyUp (s : State) (st : Fin 64) (i : Fin 512) (f : TallyCc → TallyCc) : State :=
  s.modSeq st (fun q => q.putCc i (f (q.cc i)))

/-- What the updates of one counter in the cc that ends show: subtractions beyond its value, and an overflow, which is a
fault stop (04 R116, R117). -/
def State.settleOne (s : State) (st : Fin 64) (t : TallyCc) : State :=
  let s := if t.under then s.breach st 0x0B 0 t.ctr 0 else s
  if t.over then
    let s := s.modPad st (fun p => { p with tallyOvf := true, tallyIdx := BitVec.ofNat 9 t.ctr })
    let s := s.raise 0x1014 (s.owner st) true (stallArg st) (BitVec.ofNat 32 t.ctr)
    match s.running st with
    | some (p, _) => s.stopAt p s.cycle 4 stFaulted
    | none => s
  else s

/-- The counters of a Stall at the end of a cc, lowest first. -/
def State.settle (s : State) (st : Fin 64) : State :=
  (sortBy (·.ctr) (s.stl st).seq.ccs).foldl (fun s t => s.settleOne st t) s

def ctrIx (c : BitVec 9) : Fin 512 := c.toFin

/-- An arrival counts (04 R113). -/
def State.tallyArrive (s : State) (st : Fin 64) (c : Option (BitVec 9)) : State :=
  match c with
  | none => s
  | some c => s.tallyUp st (ctrIx c) (fun t => { t with adds := t.adds + 1 })

/-! Raised Holds (02 R47, 12 R337). -/

/-- A mark for the subtree count: a raise or a release at a stamp. -/
def State.mark (s : State) (p : Fin 64) (stamp : Nat) (up : Bool) : State :=
  s.modPart p (fun q => { q with tree := { q.tree with marks := q.tree.marks ++ [(stamp, up)] } })

/-- Holds of a Stall that are raised and not released (09 R241). -/
def Seq.outstanding (q : Seq) : Nat := (q.holds.filter (fun h => h.released.isNone)).length

/-- The Holds of a partition's Stalls are discarded: each is released in this cycle (02 R64). -/
def State.discardHolds (s : State) (p : Fin 64) : State :=
  (s.part p).members.foldl (fun s st =>
    let n := (s.stl st).seq.outstanding
    let s := s.modSeq st (fun q => { q with holds := [] })
    (List.range n).foldl (fun s _ => s.mark p s.cycle false) s) s

/-- A step fault to be rerun is outstanding (02 R64). -/
def Part.faulty (q : Part) : Bool := match q.disp with | some d => !d.faults.isEmpty | none => false

/-- A Hold raised in this cycle; a Pad-mode image reports the overrun (02 R47, R51). While a step fault is
outstanding the fault governs and the Hold is not recorded (02 R64). -/
def State.raiseHold (s : State) (st : Fin 64) (p : Fin 64) (w : Option (BitVec 9 × BitVec 24 × Bool)) : State :=
  let h : RaisedHold := ⟨w, s.cycle, s.schedOf st, none⟩
  let s := if (s.part p).faulty then s
    else (s.modSeq st (fun q => { q with holds := q.holds ++ [h] })).mark p s.cycle true
  match (s.part p).image with
  | some i =>
    if i.hold then s
    else
      let c := match w with | some (c, _, _) => c.toNat | none => 0
      (s.modDisp p (fun d => { d with padOver := min (d.padOver + 1) 0xFFFF })).raise 0x2002 (some p) true
        (stallArg st) (BitVec.ofNat 32 c)
  | none => s

/-- The first Hold of a list that a test picks is released in a cycle. -/
def releaseHold (pick : RaisedHold → Bool) (u : Nat) : List RaisedHold → List RaisedHold
  | [] => []
  | h :: l => if h.released.isNone && pick h then { h with released := some u } :: l else h :: releaseHold pick u l

/-! Step faults (02 R60 to R63). -/

/-- The record of the boundary that a rerun restores, from a Stall's records, newest first: the opening boundary of the
earliest step whose rerun window contains cycle f; a step's window ends h cc after the boundary that closes it (02 R57,
R61). None when that record is not held (02 R59). -/
def restoreRec (h f : Nat) : List StepRec → Option StepRec
  | [] => none
  | r :: l => if r.glob + h < f ∨ r.cyc = 0 then some r else restoreRec h f l

/-- How often the step opened at a boundary has been rerun in this dispatch. -/
def Dispatch.rerunsOf (d : Dispatch) (cyc : Nat) : Nat := ((d.rerunOf.find? (fun e => e.1 = cyc)).map (·.2)).getD 0

/-- The opening boundaries of the steps that a rerun repeats: from the one restored up to the step in which f falls
(02 R61, R63). -/
def State.rerunSteps (s : State) (p : Fin 64) (f : Nat) : List Nat :=
  (s.part p).members.foldl (fun l st =>
    let rs := (s.stl st).seq.recs
    match restoreRec (s.part p).horizon f rs with
    | none => l
    | some r => (rs.filter (fun e => decide (r.cyc ≤ e.cyc) && decide (e.glob ≤ f))).foldl (fun l e => insN e.cyc l) l) []

/-- A fault in cycle f can be rerun: every Stall holds the record it needs, and no step that it repeats has been rerun
three times (02 R59, R63). -/
def State.canRerun (s : State) (p : Fin 64) (d : Dispatch) (f : Nat) : Bool :=
  (s.part p).members.all (fun st => (restoreRec (s.part p).horizon f (s.stl st).seq.recs).isSome) &&
  (s.rerunSteps p f).all (fun c => decide (d.rerunsOf c < 3))

/-- A step fault to be rerun becomes outstanding, and Holds are discarded (02 R64; log 53). -/
def State.addFault (s : State) (p : Fin 64) (g : StepFault) : State :=
  (s.modDisp p (fun d => { d with faults := d.faults ++ [g] })).discardHolds p

/-- A step fault on a physical row of a Stall, in this cycle, and whether its refetch can clear it. It is sent to the span,
and counts as a raise (12 R337, R340). One that is not rerun is a fault stop (02 R59, R62, R63, R638). -/
def State.stepFault (s : State) (st : Fin 64) (row : Nat) (curable : Bool) : State :=
  match s.running st with
  | none => s
  | some (p, d) =>
    if !(curable && s.canRerun p d s.cycle) then s.stopAt p s.cycle 5 stPoisoned
    else if d.faults.any (fun g => g.stall = st && g.row = row && !g.far) then s
    else ((s.addFault p ⟨s.cycle, st, row, false, none⟩).mark p s.cycle true).flood p none 3 s.cycle

end Sys2Proof.Machine
end

