-- ==== Sys2Proof/Machine/Line.lean ====
section
/-! DEFINITION. The line code of a sheaf (11 R287 to R292, R295): PAM4, the comma, RS(544,514), the scrambler, the codeword
header, row slots and training frames. -/

namespace Sys2Proof.Machine

/-! PAM4 (11 R287). -/

/-- Two bits, the earlier first, as a level: (b1, b0) = 00, 01, 11, 10 are −3, −1, +1, +3. -/
def pamOf (b0 b1 : Bool) : Pam :=
  match b1, b0 with
  | false, false => .m3
  | false, true => .m1
  | true, true => .p1
  | true, false => .p3

/-- The level with its sign inverted. -/
def Pam.neg : Pam → Pam
  | .m3 => .p3
  | .m1 => .p1
  | .p1 => .m1
  | .p3 => .m3

/-- The low n bits of a word, bit 0 first. -/
def bitsOf {k : Nat} (w : BitVec k) (n : Nat) : List Bool := (List.range n).map w.getLsbD

/-- The number that bits spell, bit 0 first. -/
def natOf (l : List Bool) : Nat := l.foldr (fun b n => 2 * n + b2n b) 0

/-- Bits of a lane in the order sent, as levels. -/
def pamBits : List Bool → List Pam
  | b0 :: b1 :: l => pamOf b0 b1 :: pamBits l
  | _ => []

/-! The comma (11 Table 11.5, R292). -/

/-- CRC-8 with polynomial x^8 + x^2 + x + 1 from 0, over the low n bits in the order sent, bit 0 first (11 Table 11.5;
log 58). -/
def crc8 {k : Nat} (w : BitVec k) (n : Nat) : Byte :=
  (List.range n).foldl (fun (c : Byte) i => if c.getLsbD 7 != w.getLsbD i then (c <<< 1) ^^^ 0x07 else c <<< 1) 0

/-- A comma whose CRC-8 is valid (11 R292). -/
def commaOk (b : BitVec 37) : Bool := (crc8 b 29).toNat = fld b 36 29

/-- The 37 bits of a comma: LANE, SHEAF, COUNT, STATE and CRC-8. -/
def commaWord (lane sheaf : Nat) (count : Half) (state : Nat) : BitVec 37 :=
  let w := BitVec.ofNat 29 (lane % 16 + sheaf % 32 * 2 ^ 4 + count.toNat * 2 ^ 9 + state % 16 * 2 ^ 25)
  BitVec.ofNat 37 (w.toNat + (crc8 w 29).toNat * 2 ^ 29)

/-- A bit in two UI: 1 as (+3, −3), 0 as (−3, +3). -/
def pamPair (b : Bool) : List Pam := if b then [.p3, .m3] else [.m3, .p3]

/-- A comma of one lane: 48 UI of +3, 48 of −3, and its bits. -/
def commaUi (w : BitVec 37) : List Pam := List.replicate 48 .p3 ++ List.replicate 48 .m3 ++ (bitsOf w 37).flatMap pamPair

/-- The bits of pairs of UI; none where a pair is neither a 1 nor a 0. -/
def pairBits : List Pam → Option (List Bool)
  | [] => some []
  | .p3 :: .m3 :: l => (pairBits l).map (true :: ·)
  | .m3 :: .p3 :: l => (pairBits l).map (false :: ·)
  | _ => none

/-- A comma as it stands in 170 UI of a lane: its full 96-UI run, its bits and a valid CRC-8. -/
def commaBits (ui : List Pam) : Option (BitVec 37) :=
  if ui.take 96 ≠ List.replicate 48 .p3 ++ List.replicate 48 .m3 then none
  else
    match pairBits (ui.drop 96) with
    | none => none
    | some l =>
      let w := BitVec.ofNat 37 (natOf l)
      if l.length = 37 && commaOk w then some w else none

/-- A comma received: whether every level came inverted, and its bits (11 R292). -/
def commaRead (ui : List Pam) : Option (Bool × BitVec 37) :=
  match commaBits ui with
  | some w => some (false, w)
  | none => (commaBits (ui.map Pam.neg)).map (fun w => (true, w))

/-! RS(544,514) over GF(2^10) (11 R288). The field polynomial x^10 + x^3 + 1, the generator polynomial and the order of the
symbols are those of IEEE 802.3 (PRESUMED, log 66). -/

/-- A field element times x. -/
def gfDouble (a : BitVec 10) : BitVec 10 := if a.getLsbD 9 then (a <<< 1) ^^^ 0x009 else a <<< 1

/-- The product of two field elements. -/
def gfMul (a b : BitVec 10) : BitVec 10 :=
  (List.range 10).foldr (fun i (p : BitVec 10) => if b.getLsbD i then gfDouble p ^^^ a else gfDouble p) 0

/-- α^j. -/
def gfPow : Nat → BitVec 10
  | 0 => 1
  | j + 1 => gfDouble (gfPow j)

/-- A polynomial, highest coefficient first, times x − r. -/
def polyTimes (p : List (BitVec 10)) (r : BitVec 10) : List (BitVec 10) :=
  List.zipWith (· ^^^ ·) (p ++ [0]) (0 :: p.map (gfMul r))

/-- The generator polynomial: the product of x − α^j for j from 0 to 29, highest coefficient first. -/
def rsGen : List (BitVec 10) := (List.range 30).foldl (fun p j => polyTimes p (gfPow j)) [1]

/-- The remainder after one more message symbol. -/
def rsStep (g r : List (BitVec 10)) (m : BitVec 10) : List (BitVec 10) :=
  let f := m ^^^ r.headD 0
  List.zipWith (· ^^^ ·) (r.drop 1 ++ [0]) (g.map (gfMul f))

/-- The 30 parity symbols of message symbols, in the order sent. -/
def rsParity (m : List (BitVec 10)) : List (BitVec 10) :=
  m.foldl (rsStep (rsGen.drop 1)) (List.replicate 30 0)

/-- Bits as 10-bit symbols, each least significant bit first. -/
def symbolsOf : Nat → List Bool → List (BitVec 10)
  | 0, _ => []
  | n + 1, l => BitVec.ofNat 10 (natOf (l.take 10)) :: symbolsOf n (l.drop 10)

/-- The codeword of 5,140 message bits: 514 message symbols, then 30 parity symbols. -/
def rsCodeword (bits : List Bool) : List (BitVec 10) := let m := symbolsOf 514 bits; m ++ rsParity m

/-- What lane position p sends of a codeword: symbols p, p + 16, …, each least significant bit first, in 5 UI. -/
def laneSymbols (p : Nat) (c : List (BitVec 10)) : List (BitVec 10) :=
  (List.range 34).map (fun i => c.getD (16 * i + p) 0)
def laneUi (p : Nat) (c : List (BitVec 10)) : List Pam := (laneSymbols p c).flatMap (fun x => pamBits (bitsOf x 10))

/-- The 16 lanes of a codeword. -/
def stripe (c : List (BitVec 10)) : List (List Pam) := (List.range 16).map (fun p => laneUi p c)

/-! The scrambler (11 R289). -/

/-- Its state at the first message bit after each alignment marker. -/
def scrSeed (n : Nat) : BitVec 31 := BitVec.ofNat 31 (0x2AAAAA00 + n)

/-- One bit of x^31 + x^28 + 1, and the next state (DEDUCED, log 65: the spec gives the polynomial and the seed, not which end
of the register is which). -/
def scrBit (r : BitVec 31) : Bool := r.getLsbD 30 != r.getLsbD 27
def scrNext (r : BitVec 31) : BitVec 31 := (r <<< 1) ||| BitVec.ofNat 31 (b2n (scrBit r))

/-- Message bits scrambled, and the state after them. -/
def scramble (r : BitVec 31) : List Bool → List Bool × BitVec 31
  | [] => ([], r)
  | b :: l => let (m, q) := scramble (scrNext r) l; ((b != scrBit r) :: m, q)

/-! Headers and slots (11 R290, Tables 11.3, 11.4). -/

/-- The header of a codeword: FSYM, FARG and DSEQ. -/
def cwHeader (fsym : BitVec 4) (farg : BitVec 26) (dseq : BitVec 10) : BitVec 40 := fsym ++ farg ++ dseq

/-- The 1,088 bits of a slot: the tag, then the row, byte 0 first, each byte least significant bit first. -/
def slotBits (tag : BitVec 64) (data : Row) : List Bool := bitsOf tag 64 ++ data.toList.flatMap (fun w => bitsOf w 32)

/-- The empty slot. -/
def emptySlot : List Bool := List.replicate 1088 false

/-- The slot of a control record: its kind in bits 61 to 54 of the tag, its 128 bytes as words. -/
def recordTag (kind : Byte) : BitVec 64 := BitVec.ofNat 64 (3 * 2 ^ 62 + kind.toNat * 2 ^ 54)

/-! Training frames (11 R295). -/

/-- PRBS13: polynomial x^13 + x^12 + x^2 + x + 1, as in IEEE 802.3 (PRESUMED, log 66). -/
def prbsBit (r : BitVec 13) : Bool := (r.getLsbD 12 != r.getLsbD 11) != (r.getLsbD 1 != r.getLsbD 0)
def prbsNext (r : BitVec 13) : BitVec 13 := (r <<< 1) ||| BitVec.ofNat 13 (b2n (prbsBit r))

/-- The next n bits of PRBS13. -/
def prbs : Nat → BitVec 13 → List Bool
  | 0, _ => []
  | n + 1, r => prbsBit r :: prbs n (prbsNext r)

/-- A block of a training frame on a lane: the comma, the control block with two UI a bit, or PRBS13 from the lane's seed. -/
def trainUi (sheaf lane block : Nat) (count : Half) (state : Nat) (ctrl : BitVec 85) : List Pam :=
  match block with
  | 0 => commaUi (commaWord lane sheaf count state)
  | 1 => (bitsOf ctrl 85).flatMap pamPair
  | b + 2 => pamBits ((prbs (340 * (b + 1)) (Config.prbsSeed lane)).drop (340 * b))

/-! Codeword times (11 R288, Table 11.2). -/

/-- How many periods of 170 UI at 112 GBd have begun by a time in ps. -/
def codewordsBy (now : Nat) : Nat := now * 112 / 170000

/-- The time in ps of n codewords, rounded up, and the marker period of 4,097 of them (11 R291). -/
def codewordPs (n : Nat) : Nat := ceilDiv (n * 170000) 112
def markerPs : Nat := codewordPs 4097

/-- The skew that a receiver tolerates, 256 UI (11 R292). -/
def skewPs : Nat := ceilDiv 256000 112

end Sys2Proof.Machine
end

