-- ==== Sys2Proof/Machine/Scratch.lean ====
section
/-! DEFINITION. Access to a Stall's scratchpad: translation and protection (08 R213 to R219), bank
conflicts (04 R109, R633), parity and POISON (04 R121 to R128), and the mirrors of the descriptor,
record and take windows (08 R204, 09 R234, 13 R367). -/

namespace Sys2Proof.Machine

/-- A permission of a translation window (08 Table 8.6). -/
inductive Perm where
  | read
  | write
  | arrive
  | page
  | glean
deriving DecidableEq, Repr

def Window.has (w : Window) : Perm → Bool
  | .read => w.r
  | .write => w.w
  | .arrive => w.arr
  | .page => w.page
  | .glean => w.glean

/-- The valid window that covers a logical row (08 R213). -/
def Xlate.hit (x : Xlate) (row : Nat) : Option Window :=
  x.win.toList.find? (fun w => w.valid && decide (w.lline.toNat ≤ row / 32) &&
    decide (row / 32 < w.lline.toNat + w.count.toNat))

/-- The physical row of a logical row in a window (08 R213). -/
def Window.phys (w : Window) (row : Nat) : Nat := 32 * (w.pline.toNat + row / 32 - w.lline.toNat) + row % 32

/-- The enabled backed region that covers a physical row (04 R125). -/
def Xlate.backedBy (x : Xlate) (p : Nat) : Option Backed :=
  x.backed.toList.find? (fun b => b.enable && decide (b.start.toNat ≤ p) &&
    decide (p < b.start.toNat + b.count.toNat))

/-- Checks 2 to 4 of Table 8.4: the physical row, or the kind of the failure. -/
def Xlate.check (x : Xlate) (row : Nat) (perm : Perm) (write : Bool) : Except Byte Nat :=
  match x.hit row with
  | none => .error 1
  | some w =>
    if !w.has perm then .error 2
    else if write && (x.backedBy (w.phys row)).isSome then .error 3
    else .ok (w.phys row)

/-- The stored words of a physical row. -/
def Pad.row (p : Pad) (r : Nat) : Row := p.mem.row (128 * r)

/-- Some word of the row has a wrong parity bit (04 R121). -/
def Pad.parityBad (p : Pad) (r : Nat) : Bool := p.badPar.any (fun w => w / 32 = r)

/-- An entry appended to STALL.POISON_LOG (04 R135, R138). -/
def Pad.logAdd (p : Pad) (state finder : BitVec 2) (row : Nat) : Pad :=
  if p.log.length < 32 then { p with log := p.log ++ [⟨state, finder, BitVec.ofNat 19 row⟩] }
  else { p with logOvf := true, bitsNew := (true, p.bitsNew.2) }

/-- The words of a file's row replaced; each takes a right parity bit, but for the words of `inv`, whose parity bit is
inverted. -/
def mirrorRow (m : Mem) (bad : List Nat) (i : Nat) (r : Row) (mask inv : Word) : Mem × List Nat :=
  let keep := bad.filter (fun w => !(w / 32 = i && mask.getLsbD (w % 32)))
  (m.putRow (128 * i) r mask, (ones 32 inv).foldl (fun l w => insN (32 * i + w) l) keep)

/-- First physical row of the take window, where a translation window covers it (13 R367). -/
def Xlate.takeRow (x : Xlate) : Option Nat := (x.hit 392704).map (fun w => w.phys 392704)

/-- A masked write of a physical row, mirrored in the files with the parity that it carries (04 R105, 08 R204, R205). -/
def Stall.putRow (x : Stall) (p : Nat) (r : Row) (mask inv : Word) : Stall :=
  let (m, b) := mirrorRow x.pad.mem x.pad.badPar p r mask inv
  let x := { x with pad := { x.pad with mem := m, badPar := b } }
  let x := match x.xl.descBase with
    | none => x
    | some l =>
      if 32 * l.toNat ≤ p ∧ p < 32 * l.toNat + 128 then
        let (m, b) := mirrorRow x.xl.descFile x.xl.descBad (p - 32 * l.toNat) r mask inv
        { x with xl := { x.xl with descFile := m, descBad := b } }
      else x
  let x := match x.seq.recBase with
    | none => x
    | some l =>
      if 32 * l.toNat ≤ p ∧ p < 32 * l.toNat + 256 then
        let (m, b) := mirrorRow x.seq.recFile x.seq.recBad (p - 32 * l.toNat) r mask inv
        { x with seq := { x.seq with recFile := m, recBad := b } }
      else x
  match x.xl.takeRow with
  | none => x
  | some t =>
    if t ≤ p ∧ p < t + 512 then
      let (m, b) := mirrorRow x.tk.file x.tk.bad (p - t) r mask inv
      { x with tk := { x.tk with file := m, bad := b } }
    else x

/-- A write of a physical row; one that covers all 32 words clears POISON (04 R122, R137). -/
def Stall.writePhys (x : Stall) (p : Nat) (r : Row) (mask inv : Word) : Stall :=
  let x := x.putRow p r mask inv
  if mask = 0xFFFFFFFF then
    match x.pad.poison.get? p with
    | none => x
    | some (_, by') => { x with pad := { x.pad with poison := x.pad.poison.del p }.logAdd 3 by' p }
  else x

def State.writePhys (s : State) (st : Fin 64) (p : Nat) (r : Row) (mask inv : Word) : State :=
  s.modStl st (fun x => x.writePhys p r mask inv)

/-- A row newly marked POISON (04 R126, R128); finder 0 scrubber, 1 scheduled read, 2 Glean, 3 bridge. -/
def State.poison (s : State) (st : Fin 64) (p : Nat) (finder : BitVec 2) : State :=
  let x := s.stl st
  if (x.pad.poison.get? p).isSome then s
  else if (x.xl.backedBy p).isSome && s.gran.avail then
    (s.modPad st (fun d =>
      { d with poison := d.poison.set p (.refetching, finder), refWait := insN p d.refWait }.logAdd 1 finder p)).raise
        0x1010 (s.owner st) false (stallRow st p) 0
  else
    (s.modPad st (fun d => { d with poison := d.poison.set p (.held, finder) }.logAdd 2 finder p)).raise
        0x1011 (s.owner st) true (stallRow st p) 0

/-- Any agent's read of a physical row: a parity error marks it (04 R122). The words are as stored. -/
def State.readPhys (s : State) (st : Fin 64) (p : Nat) (finder : BitVec 2) : State × Row :=
  let d := (s.stl st).pad
  (if d.parityBad p then s.poison st p finder else s, d.row p)

/-- A row marked POISON whose refetch can clear it (04 R128, Table 4.5). -/
def Pad.refetching (d : Pad) (p : Nat) : Bool :=
  match d.poison.get? p with | some (.refetching, _) => true | _ => false

/-- A scheduled read: of a POISON row it is a step fault (04 R123). -/
def State.readSched (s : State) (st : Fin 64) (p : Nat) : State × Row :=
  let (s, r) := s.readPhys st p 1
  if ((s.stl st).pad.poison.get? p).isNone then (s, r)
  else (s.stepFault st p ((s.stl st).pad.refetching p), r)

/-- An access of a scheduled operation finds its bank taken in this cc: by a deferred arrival, or by an access of an earlier
place in the order (04 R108, R109, R633). -/
def Pad.taken (d : Pad) (p : Nat) : Bool :=
  d.first.any (fun r => r % 32 = p % 32) || d.acc.any (fun e => e.1 % 32 = p % 32)

/-- A write has reached this row in this cc. -/
def Pad.written (d : Pad) (p : Nat) : Bool := d.first.contains p || d.acc.contains (p, true)

/-- A losing request counts; the detector reports it (04 R109, 02 Table 2.2). -/
def State.lose (s : State) (st : Fin 64) (slot : Byte) (p : Nat) (collision : Bool) : State :=
  (s.modPad st (fun d => { d with conflicts := satAdd d.conflicts 1 })).breach st
    (if collision then 0x02 else 0x03) slot 0 p

/-- HORIZON of the image of the partition that holds a Stall. -/
def State.horizonOf (s : State) (st : Fin 64) : Nat := match s.owner st with | some p => (s.part p).horizon | none => 64

/-- The detector's view of an engine read of a logical row (02 Table 2.2, kinds 0x01 and 0x04). -/
def State.hzRead (s : State) (st : Fin 64) (a : Agent) (row : Nat) : State :=
  if !s.sys.dbgOn then s
  else
    let h := (s.stl st).hz
    let lead (e : HzArr) : Bool := match e.wait with | some c => decide (s.schedOf st < c + s.horizonOf st) | none => false
    let s :=
      if h.arrs.any (fun e => e.row = row && e.wait.isNone) then s.breach st 0x01 (BitVec.ofNat 8 a.slot) 0 row
      else if h.arrs.any (fun e => e.row = row && lead e) then s.breach st 0x04 (BitVec.ofNat 8 a.slot) 0 row
      else s
    if h.wrote.contains row || h.reads.contains row then s
    else s.modHz st (fun h => { h with reads := row :: h.reads })

/-- The detector's view of a write of a logical row (02 Table 2.2, kind 0x05): the window of the step before lasts HORIZON
cc past the boundary that closed it (02 R57). -/
def State.hzWrite (s : State) (st : Fin 64) (slot : Byte) (row : Nat) : State :=
  if !s.sys.dbgOn then s
  else
    let h := (s.stl st).hz
    let opened := match (s.stl st).seq.recs with | r :: _ => r.glob | [] => 0
    let s :=
      if h.reads.contains row || (h.prev.contains row && decide (s.cycle ≤ opened + s.horizonOf st)) then
        s.breach st 0x05 slot 0 row
      else s
    if h.wrote.contains row then s else s.modHz st (fun h => { h with wrote := row :: h.wrote })

/-- An engine's read of a logical row in this cc (08 R215, R216). -/
def State.readRow (s : State) (st : Fin 64) (a : Agent) (perm : Perm) (row : Nat) : State × Row :=
  match (s.stl st).xl.check row perm false with
  | .error k => (s.xlateFault st k a.agent row a.desc a.tag false, Row.zero)
  | .ok p =>
    if (s.stl st).pad.taken p then (s.lose st (BitVec.ofNat 8 a.slot) p false, Row.zero)
    else
      let s := s.modPad st (fun d => { d with acc := (p, false) :: d.acc })
      (s.hzRead st a row).readSched st p

/-- An engine's masked write of a logical row in this cc. -/
def State.writeRow (s : State) (st : Fin 64) (a : Agent) (row : Nat) (r : Row) (mask : Word) : State :=
  match (s.stl st).xl.check row .write true with
  | .error k => s.xlateFault st k a.agent row a.desc a.tag true
  | .ok p =>
    if (s.stl st).pad.taken p then s.lose st (BitVec.ofNat 8 a.slot) p ((s.stl st).pad.written p)
    else
      let s := s.modPad st (fun d => { d with acc := (p, true) :: d.acc })
      (s.hzWrite st (BitVec.ofNat 8 a.slot) row).writePhys st p r mask 0

/-- The reads of one operation in one cc, in their order; a row named again is the same access (07 R186, 04 R633). -/
def State.readRows (s : State) (st : Fin 64) (a : Agent) (perm : Perm) (got : Tab Row) : List Nat → State × List Row
  | [] => (s, [])
  | row :: l =>
    match got.get? row with
    | some r =>
      let (s, rs) := s.readRows st a perm got l
      (s, r :: rs)
    | none =>
      let (s, r) := s.readRow st a perm row
      let (s, rs) := s.readRows st a perm (got.set row r) l
      (s, r :: rs)

/-- Whole rows written from a base on, in one cc. -/
def State.writeRows (s : State) (st : Fin 64) (a : Agent) (base : Nat) : List Row → State
  | [] => s
  | r :: l => (s.writeRow st a base r 0xFFFFFFFF).writeRows st a (base + 1) l

/-- n rows from a base on. -/
def rowsFrom (base n : Nat) : List Nat := (List.range n).map (fun i => base + i)

/-- A word of a row as 1-, 2- or 4-byte elements, from the lowest byte. -/
def rowBytes (r : Row) : List Byte := wordsBytes r.toList
def rowHalves (r : Row) : List Half :=
  r.toList.flatMap (fun (w : Word) => [w.setWidth 16, (w >>> 16).setWidth 16])

/-- The row of 32 words of a list, with zero words where it is short. -/
def rowOf (ws : List Word) : Row := Vector.ofFn (fun i : Fin 32 => ws.getD i.val 0)
def halvesWords : List Half → List Word
  | a :: b :: l => (b ++ a) :: halvesWords l
  | [a] => [a.setWidth 32]
  | [] => []

/-- A list cut into rows of 32 words. -/
def rowsOf (n : Nat) (ws : List Word) : List Row := (List.range n).map (fun i => rowOf ((ws.drop (32 * i)).take 32))

end Sys2Proof.Machine
end

