-- ==== Sys2Proof/Machine/Operands.lean ====
section
/-! DEFINITION. The operand forms of a bundle: engine slots, operation records, address fields and
their checks, and the control slot (09 R233 to R238, R635). -/

namespace Sys2Proof.Machine

/-! Engine slots (09 Table 9.2). -/
def slotOpc (w : Word) : Byte := BitVec.ofNat 8 (fld w 31 24)
def slotLsel (w : Word) : Nat := fld w 23 20
def slotRec (w : Word) : Nat := fld w 9 0

/-- LSEL 9 to 15, or a reserved bit of the slot (09 R233, Table 9.6). -/
def slotBad (w : Word) : Bool := decide (8 < slotLsel w) || fld w 19 10 ≠ 0

/-- A loop counter as it stood at the start of the cc (09 R239). -/
def Seq.loopStart (q : Seq) (i : Nat) : Loop :=
  match q.loopWas with
  | some (j, l) => if i = j then l else q.loops[fin 7 i]
  | none => q.loops[fin 7 i]

/-- The iteration index that LSEL names (09 R235, R242). -/
def Seq.iter (q : Seq) (lsel : Nat) : Nat :=
  if lsel = 0 then 0 else ((q.loopStart (lsel - 1)).start - (q.loopStart (lsel - 1)).cur).toNat

/-- Word i of record x in the record file (09 R234). -/
def Seq.recWord (q : Seq) (x i : Nat) : Word := q.recFile.word (32 * x + 4 * i)

/-- Some word of record x has a wrong parity bit. -/
def Seq.recBadAt (q : Seq) (x : Nat) : Bool := q.recBad.any (fun w => w / 8 = x)

/-- A 13-bit two's-complement stride. -/
def stride13 (v : Nat) : Int := if v < 4096 then (v : Int) else (v : Int) - 8192

/-- The effective address of an address field (09 R235): BASE + STRIDE × k. -/
def effAddr (w : Word) (k : Nat) : Int := (fld w 18 0 : Int) + stride13 (fld w 31 19) * (k : Int)

/-- Some row of n rows from an address lies outside 0 to 393,215. -/
def outRange (a : Int) (n : Nat) : Bool := decide (a < 0) || decide (393216 < a + n)

/-- A parity error found in the descriptor file or the record file marks the mirrored row POISON and is a step fault, as
a scheduled read of that row would be (08 R205, 09 R234, 04 R123). -/
def State.tableFault (s : State) (st : Fin 64) (row : Nat) : State :=
  let s := s.poison st row 1
  s.stepFault st row ((s.stl st).pad.refetching row)

/-- The record that an engine slot names, read at issue; a parity error marks the mirrored row POISON
and is a step fault (09 R234, 08 R205). -/
def State.record (s : State) (st : Fin 64) (w : Word) : State × Vector Word 8 :=
  let q := (s.stl st).seq
  let x := slotRec w
  let r := Vector.ofFn (fun i : Fin 8 => q.recWord x i.val)
  if q.recBadAt x then
    match q.recBase with
    | some l =>
      let row := 32 * l.toNat + x / 4
      (s.tableFault st row, r)
    | none => (s, r)
  else (s, r)

/-- Bits outside a mask are set. -/
def extra (w mask : Word) : Bool := w &&& ~~~mask ≠ 0

/-- The code of the first check that fails (09 R635). -/
def firstFault : List (Bool × Byte) → Option Byte
  | [] => none
  | (b, c) :: l => if b then some c else firstFault l

/-! Bundle fault codes (09 Table 9.6). -/
def fcReservedOp : Byte := 0x01
def fcReservedBit : Byte := 0x02
def fcAddrRange : Byte := 0x03
def fcAlign : Byte := 0x04
def fcPrecision : Byte := 0x05
def fcTile : Byte := 0x06
def fcWriteOrder : Byte := 0x07
def fcDescriptor : Byte := 0x08
def fcLoop : Byte := 0x09
def fcPageBusy : Byte := 0x0A
def fcStore : Byte := 0x0B
def fcHoldFull : Byte := 0x0C
def fcOperand : Byte := 0x0D

/-! The descriptor file (08 R203 to R206). -/

/-- Word i of descriptor x. -/
def Xlate.descWord (x : Xlate) (d i : Nat) : Word := x.descFile.word (64 * d + 4 * i)

/-- A descriptor read at issue; a parity error marks its row POISON and is a step fault (08 R205). -/
def State.descriptor (s : State) (st : Fin 64) (d : Nat) : State × Vector Word 16 :=
  let x := (s.stl st).xl
  let r := Vector.ofFn (fun i : Fin 16 => x.descWord d i.val)
  if x.descBad.any (fun w => w / 16 = d) then
    match x.descBase with
    | some l =>
      let row := 32 * l.toNat + d / 2
      (s.tableFault st row, r)
    | none => (s, r)
  else (s, r)

/-! The control slot (09 Table 9.5): 96 bits, OPC in [95:88]. -/

/-- Bits of the control word that an operation does not name are set. -/
def ctlExtra (w : BitVec 96) (named : List (Nat × Nat)) : Bool :=
  (ones 88 w).any (fun i => !(named.any (fun r => decide (r.2 ≤ i) && decide (i ≤ r.1))))

/-- Effective row of a control operation: a 19-bit row moved by a stride. -/
def ctlRow (row stride k : Nat) : Int := (row : Int) + stride13 stride * (k : Int)

/-- An engine operation that is issued while its engine is busy, in debug mode kind 0x09 (02 Table 2.2). -/
def State.busyDrop (s : State) (st : Fin 64) (slot : Nat) : State := s.breach st 0x09 (BitVec.ofNat 8 slot) 0 0

end Sys2Proof.Machine
end

