-- ==== Sys2Proof/Machine/Rings.lean ====
section
/-! DEFINITION. Replies on the command rings (17 R475 to R479), reply entries of a serving context
(14 R387, R414), and the end of a dispatch (02 R638, 03 R95, R97, 17 R489, R490). -/

namespace Sys2Proof.Machine

/-- PCIe is up: PERST_N is high (20 R603). -/
def State.pcieUp (s : State) : Bool := s.chain.perstN

/-- Bytes posted to host memory on a partition's account (18 Table 18.8). -/
def State.hostPut (s : State) (p : Option (Fin 64)) (a : Nat) (bs : List Byte) : State :=
  let s := { s with host := s.host.put a bs }
  match p with
  | some q => s.count q 6 bs.length
  | none => s

/-- Bytes read from host memory on a partition's account. -/
def State.hostGet (s : State) (p : Option (Fin 64)) (a n : Nat) : State × List Byte :=
  (match p with | some q => s.count q 6 n | none => s, s.host.bytes a n)

/-- The partition bound to a virtual function (18 R518). -/
def partOfFn (f : Fin 65) : Option (Fin 64) := if f.val = 0 then none else some (fin 63 (f.val - 1))

/-- Next index of a ring of n entries. -/
def ringNext (i : BitVec 12) (n : Nat) : BitVec 12 := BitVec.ofNat 12 (if n ≤ i.toNat + 1 then 0 else i.toNat + 1)

/-- A command is no longer in flight; a stopped ring stops running with its last one (17 R476). -/
def Func.retire (f : Func) : Func :=
  { f with infl := f.infl - 1, running := f.running && (f.enable || decide (1 < f.infl)) }

/-- Write a reply (17 R475, Table 17.3): posted at REPLY_TAIL, then the MSI-X message while IRQ_EN is 1.
A reply whose write fails is discarded (R477), and so is one of a command a function-level reset found in
flight (R504). -/
def State.reply (s : State) (opc : Byte) (k : Packet) (status : Byte) (ws : List Word) : State :=
  let fn := s.func k.fn
  if fn.orphans.contains k then s.setFunc k.fn { fn with orphans := fn.orphans.erase k }
  else if !s.pcieUp then
    s.setFunc k.fn { fn.retire with errCode := 4, error := true, errNew := true, enable := false }
  else
    let w0 := pack [(opc.toNat, 24), (status.toNat, 16), (k.idx.toNat, 0)]
    let body := ((w0 :: k.tag :: ws) ++ List.replicate 6 0).take 8
    let s := s.hostPut (partOfFn k.fn) (fn.rbase.toNat + 32 * fn.rtail.toNat) (wordsBytes body)
    let s := s.setFunc k.fn { fn.retire with rtail := ringNext fn.rtail fn.rsize.toNat }
    if fn.irq then s.emit (.msix k.fn fn.vec) else s

/-- A reply whose status is not OK, with result words 0 (17 R494). -/
def State.fail (s : State) (opc : Byte) (k : Packet) (status : Byte) : State := s.reply opc k status []

/-! Serving reply rings (14 R387). -/

/-- A serving reply: to its ring, or to that ring's overflow while the ring is full or has one. While PCIe is down it is
lost (20 R603; log 56). -/
def State.servePut (s : State) (p : Fin 64) (k : Nat) (ws : List Word) : State :=
  let q := s.part p
  match q.ctx with
  | none => s
  | some c =>
    let (base, n) := c.repRings.getD k (0, 16)
    let kk : Fin 16 := fin 15 k
    let full := ringNext q.repTail[kk] n = q.repHead[kk]
    if full || c.overflow.any (fun e => e.1 = k) then
      let c' := { c with overflow := c.overflow ++ [(k, ws)] }
      let now := 64 ≤ (c'.overflow.filter (fun e => e.1 = k)).length
      let s := s.setPart p { q with ctx := some { c' with blocked := c.blocked || now } }
      if now && !c.blocked then s.raise 0x5002 (some p) true (BitVec.ofNat 32 k) 0 else s
    else
      let s := if s.pcieUp then
          s.hostPut (some p) (base.toNat + 32 * q.repTail[kk].toNat) (wordsBytes ((ws ++ List.replicate 8 0).take 8))
        else s
      let s := s.modPart p (fun q => { q with repTail := q.repTail.set kk (ringNext q.repTail[kk] n) })
      let fn := s.func c.fn
      if fn.irq && s.pcieUp then s.emit (.msix c.fn fn.vec) else s

/-- A serving reply. POS of one that is no TOKEN is not stated: it is open (log 7). -/
def State.servePost (s : State) (p : Fin 64) (k : Nat) (ws : List Word) : State :=
  if fld (ws.headD 0) 31 24 = 1 then s.servePut p k ws
  else
    let (w, s) := s.draw
    s.servePut p k (ws.set 3 w)

/-- The round that a context works on, or that its next input belongs to (14 R388). -/
def Serving.cur (c : Serving) : Nat := match c.round with | none => 0 | some r => r + 1

/-- An ERROR or DONE entry (14 Table 14.3). -/
def serveErr (tag : Word) (status : Byte) (round : Nat) : List Word :=
  [pack [(3, 24), (status.toNat, 16)], tag, 0, 0, BitVec.ofNat 32 round, BitVec.ofNat 32 (round / 2 ^ 32)]
def serveDone (tag : Word) (reason round : Nat) : List Word :=
  [pack [(2, 24), (reason, 8)], tag, 0, 0, BitVec.ofNat 32 round, BitVec.ofNat 32 (round / 2 ^ 32)]

/-- Entry i of a context's request ring, as words. -/
def State.reqEntry (s : State) (c : Serving) (i : Nat) : List Word := s.host.words (c.reqRing.1.toNat + 64 * i) 16

/-- The reply ring of a request entry: ring 0 for a reserved KIND or a ring that does not exist (14 R385). -/
def entryRing (c : Serving) (ws : List Word) : Nat :=
  let w := ws.headD 0
  if fld w 31 24 = 1 && decide (fld w 23 20 < c.repRings.length) then fld w 23 20 else 0

/-- REQ_HEAD moves past one entry of 64 bytes (14 R393, 18 Table 18.8). -/
def State.reqNext (s : State) (p : Fin 64) (c : Serving) : State :=
  let h := (s.part p).reqHead.toNat
  (s.count p 6 64).modPart p (fun q =>
    { q with reqHead := ringNext q.reqHead c.reqRing.2, ctx := q.ctx.map (fun c => { c with removed := c.removed.filter (· ≠ h) }) })

/-- Every entry from REQ_HEAD to REQ_TAIL not yet handled answered with ERROR and a status (14 R413, R414). -/
def State.flushReqs (s : State) (p : Fin 64) (status : Byte) (onlySubmit : Bool) : Nat → State
  | 0 => s
  | n + 1 =>
    match (s.part p).ctx with
    | none => s
    | some c =>
      let q := s.part p
      if q.reqHead = q.reqTail then s
      else
        let ws := s.reqEntry c q.reqHead.toNat
        let s := if c.removed.contains q.reqHead.toNat || (onlySubmit && fld (ws.headD 0) 31 24 ≠ 1) then s
          else s.servePost p (entryRing c ws) (serveErr (ws.getD 1 0) status c.cur)
        State.flushReqs (s.reqNext p c) p status onlySubmit n

/-- The context of a span faults (14 R414). -/
def State.serveFault (s : State) (p : Fin 64) (status : Byte) : State :=
  match (s.part p).ctx with
  | none => s
  | some c =>
    if c.state ≠ 1 then s
    else
      let s := c.reqs.foldl (fun s e => s.servePost p e.2.ring (serveErr e.2.tag status c.cur)) s
      let s := s.flushReqs p status false 4096
      let s := s.modPart p (fun q =>
        { q with ctx := q.ctx.map (fun c =>
          { c with state := 2, status := status, reqs := [], index := [], stage := 3, admitting := none }) })
      s.raise 0x5001 (some p) true (status.setWidth 32) (((s.part p).span.getD 0).setWidth 32)

/-! The end of a dispatch. -/

/-- SERVE.REPRO_LAST at the end of a dispatch (03 Table 3.4, R86). -/
def reproWord (choice : Word) (d : Dispatch) (status : Byte) (pad : Bool) (len : Nat) : Word :=
  pack [(1, 31), (b2n (choice = 0xFFFFFFFF), 8), (b2n (status ≠ 0), 7), (b2n (d.reruns ≠ 0), 6),
    (b2n (d.padOver ≠ 0), 5), (b2n d.hkMiss, 4), (b2n d.wasFrozen, 3), (b2n d.zskip, 2),
    (b2n (pad && !d.wasFrozen && d.reruns = 0 && len = d.length), 1), (b2n (choice = 0 && status = 0), 0)]

/-- A transfer that the send unit has read, in whole or in part, is ready to leave the dynamic queue with these rows
(10 R277, 02 R636). -/
def Hop.fill (h : Hop) (fid : Nat) (pkts : List DynPkt) : Hop :=
  let q := h.queue.map (fun x => if x.fid = fid && !x.fetch then { x with pkts := pkts, left := pkts.length } else x)
  { h with queue := q.filter (fun x => x.left ≠ 0) }

/-- The operations in progress on a Stall are abandoned: none makes a further access, write, count or transfer. What they
have done stays, and rows that an HE_DSEND has read are sent from the dynamic queue (02 R636). -/
def Stall.abandon (x : Stall) : Stall :=
  let he := x.ops.foldl (fun h o => match o.work with
    | .dsend fid _ got pkts => if o.over then h else h.fill fid (pkts.take got)
    | _ => h) x.he
  { x with ops := [], ca := { x.ca with loading := false, zs := none }, he := he }

/-- A Stall whose dispatch has ended: no Hold is left; after END its engines complete what they run (09 R246), any other end
abandons it (02 R636, 19 R542). -/
def Stall.endRun (x : Stall) (ok : Bool) : Stall :=
  let x := if ok then x else x.abandon
  { x with
    seq := { x.seq with
      state := if ok then x.seq.state else .faulted, holds := [], idleTo := none, redo := none },
    ca := { x.ca with zs := none }, power := if x.power = .s0 then .s1 else x.power }

/-- The scheduled rows of a partition's dispatch in flight are dropped: on the Market each counts at the
router whose input it is at or reaches next, in a delay buffer at the sheaf (10 R637). -/
def State.dropFlights (s : State) (p : Fin 64) : State :=
  let s := (s.flights.filter (fun f => f.part = p)).foldl
    (fun s f => s.modRt f.node (fun r => { r with drop := satAdd r.drop 1 })) s
  let s := { s with flights := s.flights.filter (fun f => f.part ≠ p) }
  match (s.part p).span with
  | none => s
  | some sp => { s with sheaves := s.sheaves.map (fun h =>
      let mine := h.delayBuf.filter (fun r => tagSpan r.tag = sp.toNat)
      { h with delayBuf := h.delayBuf.filter (fun r => tagSpan r.tag ≠ sp.toNat),
               schedLost := satAdd h.schedLost mine.length }) }

/-- A DISPATCH_POST record on every tree port but one (12 R334). -/
def State.sendPost (s : State) (p : Fin 64) (but : Option (Fin 8)) (entry start : Nat) : State :=
  ((s.part p).treePorts.filter (fun k => some k ≠ but)).foldl
    (fun s k => s.recordPort k 0x03 [((s.part p).span.getD 0).toNat, entry, start]) s

/-- A dispatch that the head has just posted becomes known to the span. -/
def State.tellPost (s : State) (p : Fin 64) (w : Waiting) : State :=
  match w.start with
  | some t => if (s.part p).sizeM1 = 0 then s else s.sendPost p none w.entry t
  | none => s

/-- A variant swap has taken effect and its write pass has not ended: no dispatch is posted (15 R436). -/
def Part.holdsPost (q : Part) : Bool :=
  let due : Bool := match q.ctx with | some c => c.swapDue && c.state = 1 | none => false
  match q.swap with
  | some (_, _, n) => decide (3 ≤ n) && !due
  | none => false

/-- The post of the next waiting dispatch (17 R488, 12 R334): on one module 1,024 cc after its post in the
next cycle, on several the next epoch boundary. -/
def State.postNext (s : State) (p : Fin 64) : State :=
  let q := s.part p
  match q.queue with
  | w :: l =>
    if w.start.isSome || q.holdsPost then s
    else
      let w := { w with start := some (if q.sizeM1 = 0 then s.cycle + 1025 else (s.cycle / 65536 + 1) * 65536) }
      (s.modPart p (fun q => { q with queue := w :: l })).tellPost p w
  | [] => s

/-- Every queued dispatch completes with a status (12 R347, 17 R490, R495). -/
def State.failQueue (s : State) (p : Fin 64) (status : Byte) : State :=
  s.modPart p (fun q =>
    { q with queue := [], ended := q.ended ++ q.queue.filterMap (fun w => w.pkt.map (fun k => Ended.mk k status [])) })

/-- The running dispatch of a partition ends in this cycle with a status. -/
def State.endDispatch (s : State) (p : Fin 64) (status : Byte) : State :=
  match (s.part p).disp with
  | none => s
  | some d =>
    let q := s.part p
    let pad := match q.image with | some i => !i.hold | none => false
    let len := s.cycle + 1 - d.start
    let rep := reproWord q.choice d status pad len
    let s := s.count p 8 1
    let s := if status = 0 then s else s.count p 9 1
    let s := s.count p 10 q.choice.toNat
    let s := if q.choice = 0 then s else s.count p 11 1
    let s := s.dropFlights p
    let ws : List Word := [q.choice, rep, BitVec.ofNat 32 d.start, BitVec.ofNat 32 (d.start / 2 ^ 32),
      BitVec.ofNat 32 len, BitVec.ofNat 32 (len / 2 ^ 32)]
    let mine := match d.pkt with | some k => [Ended.mk k status ws] | none => []
    let st2 := if status = stSpanFault ∨ q.spanState = 3 then stSpanFault else stFaulted
    let rest := if status = 0 then [] else q.queue.filterMap (fun w => w.pkt.map (fun k => Ended.mk k st2 []))
    let s := s.modPart p (fun q =>
      { q with disp := none, choiceLast := q.choice, repro := rep, lastStat := some status,
               lastRuns := (BitVec.ofNat 16 d.reruns, BitVec.ofNat 16 d.padOver),
               ended := q.ended ++ mine ++ rest, queue := if status = 0 then q.queue else [],
               tree := ⟨[], [], []⟩ })
    let s := q.members.foldl (fun s st => s.modStl st (fun x => x.endRun (status = 0))) s
    let s := if status = 0 then s else s.serveFault p status
    s.postNext p

end Sys2Proof.Machine
end

