-- ==== Sys2Proof/Machine/Market.lean ====
section
/-! DEFINITION. The Market: geometry, slot tables and dynamic routing (10 R258 to R269, R281, R282), route
tables (12 R349), and the landing of arrivals (04 R108 to R113, 08 R215 to R217). -/

namespace Sys2Proof.Machine

/-! Geometry (10 R258 to R261). Ports: 0 N, 1 E, 2 S, 3 W, 4 L. -/

/-- Die coordinates of a router. -/
def dieX (r : Fin 64) : Nat := 4 * (r.val / 16 % 2) + r.val % 4
def dieY (r : Fin 64) : Nat := 4 * (r.val / 32) + r.val % 16 / 4

/-- The router at die coordinates. -/
def routerAt (x y : Nat) : Fin 64 := fin 63 (16 * (x / 4 + 2 * (y / 4)) + x % 4 + 4 * (y % 4))

/-- What an output port leads to: a router's input with the latency in cc, the Stall, a sheaf, a Stem port,
or nothing (10 R259 to R261, Table 10.1). -/
inductive PortEnd where
  | router (r : Fin 64) (inp : Fin 5) (lat : Nat)
  | stall
  | sheaf (n : Fin 20)
  | stem (f : Fin 4)
  | none
deriving DecidableEq, Repr

/-- The router and port that a sheaf attaches to (10 Table 10.1). -/
def sheafAt (n : Fin 20) : Fin 64 × Fin 5 :=
  match n.val with
  | 4 => (4, 3)
  | 9 => (23, 1)
  | 14 => (40, 3)
  | 19 => (59, 1)
  | v => if v < 4 then (fin 63 v, 0) else if v < 9 then (fin 63 (v + 11), 0)
    else if v < 14 then (fin 63 (v + 34), 2) else (fin 63 (v + 45), 2)

/-- The router and port that a Stem port attaches to (10 Table 10.1). -/
def stemAt (f : Fin 4) : Fin 64 × Fin 5 :=
  match f.val with
  | 0 => (8, 3)
  | 1 => (27, 1)
  | 2 => (36, 3)
  | _ => (55, 1)

/-- The outward side of an edge router. -/
def outward (r : Fin 64) (o : Fin 5) : PortEnd :=
  match (List.finRange 20).find? (fun n => sheafAt n = (r, o)) with
  | some n => .sheaf n
  | Option.none =>
    match (List.finRange 4).find? (fun f => stemAt f = (r, o)) with
    | some f => .stem f
    | Option.none => .none

/-- Where an output leads: one cc over a mesh link, three over a Field bridge (10 R260). -/
def portEnd (r : Fin 64) (o : Fin 5) : PortEnd :=
  let x := dieX r
  let y := dieY r
  match o.val with
  | 0 => if y = 0 then outward r o else .router (routerAt x (y - 1)) 2 (if y = 4 then 3 else 1)
  | 1 => if x = 7 then outward r o else .router (routerAt (x + 1) y) 3 (if x = 3 then 3 else 1)
  | 2 => if y = 7 then outward r o else .router (routerAt x (y + 1)) 0 (if y = 3 then 3 else 1)
  | 3 => if x = 0 then outward r o else .router (routerAt (x - 1) y) 1 (if x = 4 then 3 else 1)
  | _ => .stall

/-- The Field of a Stall. -/
def fieldOf (st : Fin 64) : Fin 4 := fin 3 (st.val / 16)

/-! Scheduled class (10 R264 to R269). -/

/-- The input that an output's slot table entry selects at a schedule cycle, when it is VALID. -/
def Router.sel (x : Router) (o : Fin 5) (cyc : Nat) : Option Nat :=
  let e := Tab.getD x.slots[o] (cyc % 4096) 0
  if bit e 7 then some (fld e 6 4) else none

/-- The outputs that take a row of a partition from an input in a schedule cycle (10 R266). -/
def Router.takers (x : Router) (p : Fin 64) (inp : Fin 5) (cyc : Nat) : List (Fin 5) :=
  (List.finRange 5).filter (fun o => x.owner[o] = some p && x.sel o cyc = some inp.val)

/-- The tag of a scheduled row that leaves on a sheaf at a schedule cycle (11 Table 11.4). -/
def Flight.tag (f : Flight) (cyc : Nat) : BitVec 64 :=
  mkTag 1 f.arr.span f.arr.row f.arr.ctr 0 (cyc % 4096 * 8)

/-- The Stall of a partition whose detector reports a row that missed its slot: the sender on this module, else the router's
Stall where the partition holds it, else the partition's lowest Stall (02 R68, R71; DEDUCED, log 30). -/
def State.detector (s : State) (r : Fin 64) (p : Fin 64) (a : Arrival) : Fin 64 :=
  match a.src with
  | some st => st
  | none => if s.owner r = some p then r else (s.part p).members.headD r

/-- A dropped scheduled row (10 R267): counted at the router, and a breach of the partition whose transfer missed its slot. -/
def State.marketDrop (s : State) (r : Fin 64) (p : Fin 64) (a : Arrival) : State :=
  (s.modRt r (fun x => { x with drop := satAdd x.drop 1 })).breachOf (s.detector r p a) (some p) 0x08
    (if a.src.isSome then 5 else 0xFF) 0 a.row.toNat

/-! Dynamic routing (10 R281, R282, 12 R349). -/

/-- A port can carry dynamic rows now: an ACTIVE sheaf that is no self-loop and no sheaf of the ring (11 R319, 13 R356). -/
def State.carries (s : State) (k : Fin 8) : Bool := (s.activeOf k).any (fun n => !(s.sheaf n).selfLoop && !s.ringSheaf n)

/-- Torus coordinates of a node ID: X [3:0], Y [7:4], Z [12:8] (12 R352, 20 R594). -/
def nodeXyz (n : BitVec 13) : Nat × Nat × Nat := (fld n 3 0, fld n 7 4, fld n 12 8)

/-- Torus sizes from LINK.TORUS, 1 in each dimension while it is not VALID. -/
def torusSize (t : Word) : Nat × Nat × Nat :=
  if bit t 31 then (fld t 3 0 + 1, fld t 7 4 + 1, fld t 19 15 + 1) else (1, 1, 1)

/-- The node across a torus port from a node, where there is one: ports X+, X−, Y+, Y−, Z+, Z− (11 Table 11.1). -/
def torusStep (sz : Nat × Nat × Nat) (n : BitVec 13) (port : Nat) : Option (BitVec 13) :=
  let (x, y, z) := nodeXyz n
  let up (v m : Nat) := (v + 1) % m
  let dn (v m : Nat) := (v + m - 1) % m
  let (a, b, c) := match port with
    | 0 => (up x sz.1, y, z)
    | 1 => (dn x sz.1, y, z)
    | 2 => (x, up y sz.2.1, z)
    | 3 => (x, dn y sz.2.1, z)
    | 4 => (x, y, up z sz.2.2)
    | _ => (x, y, dn z sz.2.2)
  let m := BitVec.ofNat 13 (a + 16 * b + 256 * c)
  if m = n then none else some m

/-- Torus distance between two nodes. -/
def torusDist (sz : Nat × Nat × Nat) (a b : BitVec 13) : Nat :=
  let d (u v m : Nat) : Nat := let e := (u + m - v % m) % m; min e (m - e)
  let (x, y, z) := nodeXyz a
  let (u, v, w) := nodeXyz b
  d x u sz.1 + d y v sz.2.1 + d z w sz.2.2

/-- The link between two nodes, either named first. -/
def sameLink (a b : BitVec 13) (e : BitVec 13 × BitVec 13) : Bool := (e.1 = a && e.2 = b) || (e.1 = b && e.2 = a)

/-- A link recorded as lost. -/
def Link.isLost (l : Link) (a b : BitVec 13) : Bool := l.lost.any (sameLink a b)

/-- One level of the search for shortest paths: nodes of the last level with their first port; what is
found so far. -/
def routeLevel (l : Link) (sz : Nat × Nat × Nat) (front : List (BitVec 13 × Nat)) (found : Tab (BitVec 4)) :
    Tab (BitVec 4) × List (BitVec 13 × Nat) :=
  let new := front.flatMap (fun e => (List.range 6).filterMap (fun k =>
    match torusStep sz e.1 k with
    | none => none
    | some m => if l.isLost e.1 m || (found.get? m.toNat).isSome then none else some (m, e.2)))
  let best := new.foldl (fun (t : Tab Nat) e =>
    match t.get? e.1.toNat with
    | some p => if e.2 < p then t.set e.1.toNat e.2 else t
    | none => t.set e.1.toNat e.2) []
  (best.foldl (fun t e => Tab.set t e.1 (BitVec.ofNat 4 e.2)) found, best.map (fun e => (BitVec.ofNat 13 e.1, e.2)))

/-- All levels. -/
def routeSearch (l : Link) (sz : Nat × Nat × Nat) : Nat → List (BitVec 13 × Nat) → Tab (BitVec 4) → Tab (BitVec 4)
  | 0, _, t => t
  | f + 1, front, t =>
    let (t, front) := routeLevel l sz front t
    if front.isEmpty then t else routeSearch l sz f front t

/-- The dynamic route table: the first hop of a shortest path over the torus without its lost links, ties to
the lowest port (12 R349). This module's own entry is 0xF. -/
def Link.routes (l : Link) : Tab (BitVec 4) :=
  match l.node with
  | none => []
  | some me =>
    let sz := torusSize l.torus
    let first := (List.range 6).filterMap (fun k => match torusStep sz me k with
      | none => none
      | some m => if l.isLost me m then none else some (m, k))
    let best := first.foldl (fun (t : Tab Nat) e => if (t.get? e.1.toNat).isSome then t else t.set e.1.toNat e.2) []
    let t0 : Tab (BitVec 4) := best.map (fun e => (e.1, BitVec.ofNat 4 e.2))
    Tab.del (routeSearch l sz 8192 (best.map (fun e => (BitVec.ofNat 13 e.1, e.2))) (t0.set me.toNat 0xF)) me.toNat

/-- The table computed anew. -/
def State.reroute (s : State) : State := { s with link := { s.link with route := s.link.routes } }

/-- The far node of a port, from an ACTIVE sheaf of it. -/
def State.farNode (s : State) (k : Fin 8) : Option (BitVec 13) :=
  (s.activeOf k).findSome? (fun n => (s.sheaf n).far.map (·.1))

/-- The port a dynamic row for a node leaves on (12 R349). -/
def State.routePort (s : State) (node : BitVec 13) : Option (Fin 8) :=
  match s.link.route.get? node.toNat with
  | none => none
  | some e =>
    if e = 0xF then none
    else
      let k := fin 7 e.toNat
      if s.carries k then some k
      else
        match s.link.node with
        | none => none
        | some me =>
          let sz := torusSize s.link.torus
          (List.finRange 8).find? (fun k => k.val < 6 && s.carries k &&
            (match s.farNode k with | some f => decide (torusDist sz f node < torusDist sz me node) | none => false))

/-- The sheaf a dynamic row for a node leaves on: the lowest ACTIVE one of its port that is no ring sheaf
(DESIGN CHOICE log 31: the spec names the port). -/
def State.routeSheaf (s : State) (node : BitVec 13) : Option (Fin 20) :=
  match s.routePort node with
  | none => none
  | some k => (s.activeOf k).find? (fun n => !(s.sheaf n).selfLoop && !s.ringSheaf n)

/-- The router and output at which a dynamic packet leaves the Market (10 R282). A packet that is on the Market when its node
has no usable port any more has none, and waits at its router until one is usable (DESIGN CHOICE, log 62). -/
def State.dynTarget (s : State) (d : DynPkt) : Option (Fin 64 × Fin 5) :=
  match d.kind.toNat with
  | 0 => some (d.stall, 4)
  | 2 => some (stemAt (fieldOf d.src))
  | _ => (s.routeSheaf d.node).map sheafAt

/-- The output of a router that a dynamic packet takes: first along X, then along Y (10 R281). -/
def State.dynOut (s : State) (r : Fin 64) (d : DynPkt) : Option (Fin 5) :=
  match s.dynTarget d with
  | none => none
  | some (t, o) =>
    if dieX r < dieX t then some 1
    else if dieX t < dieX r then some 3
    else if dieY r < dieY t then some 2
    else if dieY t < dieY r then some 0
    else some o

/-! Arrivals. -/

/-- A row of a transfer of this Hop Engine has landed (10 R277). -/
def Hop.landed (h : Hop) (fid : Nat) : Hop :=
  let q := h.queue.map (fun x => if x.fid = fid && x.fetch then { x with left := x.left - 1 } else x)
  { h with queue := q.filter (fun x => !(x.fetch && x.left = 0)) }

/-- LAST, FRAME, DEST, ARM, COUNT, FIRST and LAND of a take entry (13 Table 13.4). -/
def Takes.word (t : Takes) (e i : Nat) : Word := t.file.word (16 * e + 4 * i)
def Takes.isLast (t : Takes) (e : Nat) : Bool := bit (t.word e 0) 31
def Takes.frame (t : Takes) (e : Nat) : Nat := fld (t.word e 0) 21 0

/-- The cursor moves past entries that are done (13 R368). -/
def Takes.advance (t : Takes) : Nat → Takes
  | 0 => t
  | n + 1 =>
    let c := t.cursor.toNat
    if !t.past && t.done.contains c then
      Takes.advance { t with cursor := t.cursor + 1, done := t.done.filter (· ≠ c), past := t.isLast c } n
    else t

/-- A row of a take has landed; with its last row the take is done (13 R371). -/
def Takes.landed (t : Takes) (e : Nat) : Takes :=
  let act := t.active.map (fun x => if x.entry = e then { x with toLand := x.toLand - 1 } else x)
  if act.any (fun x => x.entry = e && x.toLand = 0) then
    Takes.advance { t with active := act.filter (fun x => x.entry ≠ e), done := insN e t.done } 8
  else { t with active := act }

/-- What waits for an arrival is told that it landed. -/
def State.viaLanded (s : State) (st : Fin 64) (v : Via) : State :=
  match v with
  | .fetch fid => s.modHe st (fun h => h.landed fid)
  | .take e => s.modTk st (fun t => t.landed e)
  | _ => s

/-- The detector's view of an arrival (02 Table 2.2): a write, and, unless this Stall's own Hop Engine sent it, a row that a
later read must wait for. -/
def State.hzArrive (s : State) (st : Fin 64) (a : Arrival) : State :=
  if !s.sys.dbgOn then s
  else
    let s := s.hzWrite st 0xFF a.row.toNat
    if a.src = some st then s
    else s.modHz st (fun h =>
      let l := h.arrs.filter (fun e => e.row ≠ a.row.toNat)
      { h with arrs := ⟨a.row.toNat, a.ctr, h.stepNo, none⟩ :: l })

/-- An arrival's words are written to its physical row, with the parity that they carry, and it counts (04 R113, 18
Table 18.8). -/
def State.landAt (s : State) (st : Fin 64) (a : Arrival) (p : Nat) : State :=
  let s := s.writePhys st p a.data 0xFFFFFFFF a.bad
  let s := ((s.tallyArrive st a.ctr).hzArrive st a).viaLanded st a.via
  match a.sheaf, s.owner st with
  | true, some q => s.count q 5 128
  | _, _ => s

/-- The step faults of a partition that wait for this row's refetch. -/
def Part.faultAt (q : Part) (st : Fin 64) (row : Nat) : Bool :=
  match q.disp with
  | none => false
  | some d => d.faults.any (fun g => g.stall = st && g.row = row && !g.far && g.landed.isNone)

/-- The refetch of a row has landed: the step fault that waited for it is cleared from the next cc on, its release (04 R129,
12 R337). -/
def State.faultLanded (s : State) (st : Fin 64) (row : Nat) : State :=
  match s.owner st with
  | none => s
  | some p =>
    if !(s.part p).faultAt st row then s
    else
      let land (g : StepFault) : StepFault :=
        if g.stall = st && g.row = row && !g.far && g.landed.isNone then { g with landed := some (s.cycle + 1) } else g
      (s.modDisp p (fun d => { d with faults := d.faults.map land })).mark p (s.cycle + 1) false

/-- A refetch write lands: it bypasses translation, covers all 32 words and counts nothing (04 R113, R127, 08 R215). -/
def State.landRefetch (s : State) (st : Fin 64) (p : Nat) (r : Row) : State :=
  let s := (s.writePhys st p r 0xFFFFFFFF 0).modPad st (fun d =>
    { d with refOut := d.refOut.filter (fun x => x.row.toNat ≠ p) })
  (s.raise 0x1012 (s.owner st) false (stallRow st p) 0).faultLanded st p

/-- The checks of Table 8.4 on an arrival: the physical row, or the state after the failure; a dropped
arrival counts nothing (08 R216, R217, R219). While the Stall is cleared every arrival is dropped (18 R516). -/
def State.pass (s : State) (st : Fin 64) (a : Arrival) : Except State Nat :=
  let x := (s.stl st).xl
  let own := match x.spanId with | some i => i = a.span | none => false
  if (s.stl st).clearing.isSome then .error s
  else if !own then
    .error (((s.modXl st (fun x => { x with foreign := satAdd x.foreign 1 })).raise 0x1021 (s.owner st) false
      (stallArg st) (a.span.setWidth 32)).viaLanded st a.via)
  else
    match x.check a.row.toNat .arrive true with
    | .ok p => .ok p
    | .error k => .error ((s.xlateFault st k 6 a.row.toNat 0 0 true).viaLanded st a.via)

/-- An arrival write to a row that a scheduled engine access of this cc is served is deferred to the next cc, one to a bank
(04 R108, R633). -/
def Pad.defers (d : Pad) (p : Nat) : Bool :=
  d.acc.any (fun e => e.1 = p) && !d.first.any (fun r => r % 32 = p % 32) &&
    !d.deferred.any (fun a => a.row.toNat % 32 = p % 32)

/-- The deferral, which debug mode reports when the engine access is a write (04 R110). -/
def State.defer (s : State) (st : Fin 64) (a : Arrival) (p : Nat) : State :=
  let w := (s.stl st).pad.acc.contains (p, true)
  let s := s.modPad st (fun d => { d with deferred := d.deferred ++ [a] })
  if w then s.breach st 0x02 0xFF 0 p else s

/-- A bank has served a request in this cc (04 R104). -/
def Pad.bankUsed (d : Pad) (bank : Nat) : Bool :=
  d.acc.any (fun e => e.1 % 32 = bank) || d.first.any (fun r => r % 32 = bank) || d.served.any (fun r => r % 32 = bank)

/-- A request of rank 3 to 8 for a row is served. -/
def Pad.serve (d : Pad) (p : Nat) : Pad := { d with served := p :: d.served }

/-- A scheduled arrival at rank 3 in its landing cycle (04 R107 to R109, R633): a losing one still counts. -/
def State.landScheduled (s : State) (st : Fin 64) (a : Arrival) : State :=
  match s.pass st a with
  | .error s => s
  | .ok p =>
    let d := (s.stl st).pad
    if d.defers p then s.defer st a p
    else if d.bankUsed (p % 32) then
      ((s.lose st 0xFF p (d.written p || d.served.contains p)).tallyArrive st a.ctr).viaLanded st a.via
    else (s.landAt st a p).modPad st (fun d => d.serve p)

/-- A bank has served nothing in this cc, and its Stall is not clearing its scratchpad (04 R107, 18 R514). -/
def State.bankFree (s : State) (st : Fin 64) (bank : Nat) : Bool :=
  (s.stl st).clearing.isNone && !(s.stl st).pad.bankUsed bank

/-- A deferred arrival lands at rank 1 at the start of the next cc (04 R108). -/
def State.landDeferred (s : State) (st : Fin 64) : State :=
  let l := (s.stl st).pad.deferred
  l.foldl (fun s a =>
    let first (s : State) (p : Nat) : State := s.modPad st (fun d => { d with first := p :: d.first })
    match a.via with
    | .refetch => first (s.landRefetch st a.row.toNat a.data) a.row.toNat
    | _ => match s.pass st a with
      | .error s => s
      | .ok p => first (s.landAt st a p) p)
    (s.modPad st (fun d => { d with deferred := [] }))

/-- A row of the receive buffer in this cc, with the banks that an earlier row of the buffer tried: it lands
at rank 4, is deferred behind an access of its own row, or waits (04 R108, R111, R633). -/
def State.landDynamic (st : Fin 64) (e : State × List Nat) (a : Arrival) : State × List Nat :=
  let (s, tried) := e
  let back (s : State) : State := s.modPad st (fun d => { d with rx := d.rx ++ [a] })
  match s.pass st a with
  | .error s => (s, tried)
  | .ok p =>
    let b := p % 32
    if tried.contains b then (back s, tried)
    else if s.bankFree st b then ((s.landAt st a p).modPad st (fun d => d.serve p), b :: tried)
    else if (s.stl st).pad.defers p then (s.defer st a p, b :: tried)
    else (back s, b :: tried)

/-- A refetch whose contents have come, in this cc: it lands at rank 4 before any row of the receive buffer, is deferred
behind an access of its own row, or waits (04 R108, R111, R633). -/
def State.tryRefetch (s : State) (st : Fin 64) (r : Refetch) : State :=
  let p := r.row.toNat
  match r.data with
  | none => s
  | some row =>
    if s.bankFree st (p % 32) then (s.landRefetch st p row).modPad st (fun d => d.serve p)
    else if (s.stl st).pad.defers p then
      let a : Arrival :=
        { row := r.row, data := row, bad := 0, ctr := none, span := 0, sheaf := false, src := none, via := .refetch }
      (s.defer st a p).modPad st (fun d => { d with refOut := d.refOut.filter (fun x => x.row.toNat ≠ p) })
    else s

/-- The refetches of a Stall whose contents have come, lower rows first (04 R633). -/
def State.refetchCc (s : State) (st : Fin 64) : State :=
  (sortBy (fun r => r.row.toNat) (s.stl st).pad.refOut).foldl (fun s r => s.tryRefetch st r) s

/-- SCHEDULED_ARRIVAL: the scheduled rows that land in this Stall in this schedule cycle, lower destination
rows first (10 R279, 04 R633). A Stall with no such row is not changed. -/
def execScheduledArrival (st : Fin 64) (s : State) : Answer :=
  .next (
    match s.running st with
    | none => s
    | some (p, d) =>
      if d.frozen then s
      else
        let due (f : Flight) : Bool := f.part = p && f.node = st && f.inp.isNone && decide (f.due ≤ d.sched)
        let l := sortBy (fun a => a.arr.row.toNat) (s.flights.filter due)
        l.foldl (fun s f => s.landScheduled st f.arr) { s with flights := s.flights.filter (fun f => !due f) })

/-- DYNAMIC_ARRIVAL_LANDS: the rows of the receive buffer whose banks are free land (04 R111). -/
def execDynamicArrivalLands (st : Fin 64) (s : State) : Answer :=
  let l := (s.stl st).pad.rx
  .next (l.foldl (State.landDynamic st) (s.modPad st (fun d => { d with rx := [] }), [])).1

/-- The Field bridge between two routers of different Fields: F0–F1, F2–F3, F0–F2, F1–F3 (19 R547). -/
def bridgeOf (r t : Fin 64) : Fin 4 :=
  let a := min (fieldOf r).val (fieldOf t).val
  let b := max (fieldOf r).val (fieldOf t).val
  if a = 0 && b = 1 then 0 else if a = 2 then 1 else if a = 0 then 2 else 3

/-- A row as it comes off a link: across a Field bridge whose skew is outside ±0.3 cc, the parity bit of every word is
inverted (19 R548). -/
def State.crossed (s : State) (r t : Fin 64) (lat : Nat) (a : Arrival) : Arrival :=
  let k : Int := s.clk.skew[bridgeOf r t].toInt
  if lat = 3 && decide (3 * ccPs s.clk.fcode < 10 * k.natAbs) then { a with bad := 0xFFFFFFFF } else a

/-- A packet put at a router's input, or into a receive buffer, a sheaf's queue or a Stem port; none where
there is no room (10 R281, 04 R111), or where the matrix drains for a reset (16 R466). -/
def State.dynPut (s : State) (r : Fin 64) (o : Fin 5) (d : DynPkt) : Option State :=
  match portEnd r o with
  | .router t i lat =>
    if ((s.stl t).rt.inq[i]).length < 8 then
      some (s.modRt t (fun x => { x with inq := x.inq.set i (x.inq[i] ++ [{ d with ready := s.cycle + lat, arr := s.crossed r t lat d.arr }]) }))
    else none
  | .stall => if (s.stl r).pad.rx.length < 64 then some (s.modPad r (fun p => { p with rx := p.rx ++ [d.arr] })) else none
  | .sheaf n => some (s.modSheaf n (fun h => { h with txq := h.txq ++ [d] }))
  | .stem f => if s.fab.drainTo.isSome then none else some { s with fab := { s.fab with hubq := s.fab.hubq.set f (s.fab.hubq[f] ++ [{ d with ready := s.now }]) } }
  | .none => none

/-- The waiting packet of an input for an output: the oldest one there that wants it, so that a packet held up for one output
does not hold up those behind it for another (DESIGN CHOICE, log 62: the spec gives the turn of the inputs only). -/
def State.waiting (s : State) (r : Fin 64) (o i : Fin 5) : Option DynPkt :=
  ((s.stl r).rt.inq[i]).find? (fun d => decide (d.ready ≤ s.cycle) && s.dynOut r d = some o)

/-- DYNAMIC_PACKET_FORWARD: an output that carried nothing in this cc forwards one waiting packet, its
inputs in turn (10 R281). -/
def execDynamicPacketForward (r : Fin 64) (o : Fin 5) (s : State) : Answer :=
  let x := (s.stl r).rt
  .next (
    if x.held.contains o || x.sent.contains o then s
    else
      let order := (List.range 5).map (fun k => fin 4 (x.rr[o].val + k))
      match order.findSome? (fun i => (s.waiting r o i).map (fun d => (i, d))) with
      | none => s
      | some (i, d) =>
        match s.dynPut r o d with
        | none => s
        | some s => s.modRt r (fun x => { x with
            inq := x.inq.set i (x.inq[i].erase d), rr := x.rr.set o (fin 4 (i.val + 1)), sent := o :: x.sent }))

end Sys2Proof.Machine
end

