-- ==== Sys2Proof/Machine/Windows.lean ====
section
/-! DEFINITION. Granary blocks and their CRC (15 R419 to R422), the directory (R424), and hub windows
(16 R447, R457 to R460). -/

namespace Sys2Proof.Machine

/-! The block CRC (15 R420): polynomial 0x04C1_1DB7 reflected, initial value and final XOR 0xFFFF_FFFF. -/

/-- Eight steps of the reflected CRC register. -/
def crcStep : Nat → Word → Word
  | 0, c => c
  | n + 1, c => crcStep n (if c.getLsbD 0 then (c >>> 1) ^^^ 0xEDB88320 else c >>> 1)

def crc32 (bs : List Byte) : Word :=
  (bs.foldl (fun c b => crcStep 8 (c ^^^ b.setWidth 32)) 0xFFFFFFFF) ^^^ 0xFFFFFFFF

/-- Bytes of the data space and its blocks (15 R419). -/
def granBytes : Nat := 0xFE00000000

/-- The 512 bytes of a block, and whether the stored CRC matches them. -/
def Granary.block (g : Granary) (b : Nat) : List Byte := g.mem.bytes (512 * b) 512
def Granary.blockOk (g : Granary) (b : Nat) : Bool := Tab.getD g.crc b 0 = crc32 (g.block b)

/-- The region that covers a byte. -/
def Granary.regionAt (g : Granary) (a : Nat) : Option (Nat × Region) :=
  g.dir.find? (fun e => decide (e.2.base ≤ a) && decide (a < e.2.base + e.2.size))

/-- A bad block is logged, counted and reported (15 R422). A full log keeps its 16 entries. -/
def State.granBad (s : State) (b : Nat) : State :=
  let g := s.gran
  let g := { g with
    err := satAdd g.err 1, badLog := if g.badLog.length < 16 then g.badLog ++ [b] else g.badLog }
  let a1 : Word := match g.regionAt (512 * b) with
    | some (i, _) => BitVec.ofNat 32 i
    | none => 0x80000000
  { s with gran := g }.raise 0x1040 none false (BitVec.ofNat 32 b) a1

/-- The controller's read of a block (15 R422); `glitch`: the first of two reads found a mismatch that the
devices do not hold. True: the block is good. -/
def State.readBlock (s : State) (b : Nat) (glitch : Bool) : State × Bool :=
  if s.gran.blockOk b then
    (if glitch then { s with gran := { s.gran with retry := satAdd s.gran.retry 1 } } else s, true)
  else (s.granBad b, false)

/-- Blocks from the first on are read until one is bad: that block's number (15 R422). -/
def State.readBlocks (s : State) (glitch : Bool) : Nat → Nat → State × Option Nat
  | _, 0 => (s, none)
  | b, n + 1 =>
    let (s, ok) := s.readBlock b glitch
    if ok then State.readBlocks s false (b + 1) n else (s, some b)

/-- A write of bytes inside one block: a whole block gets a fresh CRC, a part is merged if the block is
good (15 R421). -/
def State.writeBlock (s : State) (a : Nat) (bs : List Byte) : State :=
  let b := a / 512
  let (s, ok) := if a % 512 = 0 && bs.length = 512 then (s, true) else s.readBlock b false
  if !ok then s
  else
    let m := s.gran.mem.put a bs
    let g := { s.gran with mem := m }
    { s with gran := { g with crc := Tab.set g.crc b (crc32 (g.block b)) } }

/-- A write of bytes from an address on, block by block. -/
def State.granWrite (s : State) (a : Nat) : Nat → List Byte → State
  | 0, _ => s
  | n + 1, bs =>
    if bs.isEmpty then s
    else
      let k := 512 - a % 512
      State.granWrite (s.writeBlock a (bs.take k)) (a + k) n (bs.drop k)

/-- Free MiB and where a region of some MiB fits lowest (15 R424). -/
def Granary.freeMib (g : Granary) : Nat := granBytes / 1048576 - (g.dir.foldl (fun n e => n + e.2.size) 0) / 1048576

/-- The lowest base, of 0 and the ends of regions, from which `size` bytes are free. -/
def Granary.place (g : Granary) (size : Nat) : Option Nat :=
  let cand := sortBy id (0 :: g.dir.map (fun e => e.2.base + e.2.size))
  cand.find? (fun b => decide (b + size ≤ granBytes) &&
    g.dir.all (fun e => decide (b + size ≤ e.2.base) || decide (e.2.base + e.2.size ≤ b)))

/-! The order of service (15 R433). A command that completes a Granary request stands for the service of its last read or
write, so it does nothing while a request that goes first is waiting (DEDUCED, log 75). -/

/-- A Granary window is at the head of a Stem port's queue of writes: the time at which the row came there. -/
def State.hubWaits (s : State) (f : Fin 4) : Option Nat :=
  match s.fab.hubq[f] with
  | d :: _ =>
    let x := (s.part d.part).hwin[fin 15 d.win.toNat]
    if bit x.ctl 31 && fld x.ctl 25 24 = 2 then some d.ready else none
  | [] => none

/-- An IMAGE_LOAD that places rows from the Granary or its backing region, and the check pass of a swap, whose last request
counts as the latest of its class. -/
def State.placeWaits (s : State) (p : Fin 64) : List Nat :=
  let q := s.part p
  let job := match q.job with
    | some j => if j.opc = 0x20 && j.phase = 2 && fld (j.pkt.w 0) 31 30 ≠ 0 then [j.since] else []
    | none => []
  match q.swap with
  | some (_, _, 2) => s.now :: job
  | _ => job

/-- A GRANARY_PUT WRITE or a GRANARY_GET READ; a WRITE waits at the controller only while the journal has room for it. -/
def State.copyWaits (s : State) (f : Fin 65) : List Nat :=
  ((s.func f).jobsG.filter (fun j =>
    (j.opc = 0x30 && fld (j.pkt.w 0) 31 28 = 2 && s.pwr.roomDirectory) || j.opc = 0x31)).map (·.since)

/-- The requests that wait at the Granary controller, each with its class and arrival (15 R433). -/
def State.granQueue (s : State) : List (Nat × Nat) :=
  ((List.finRange 64).flatMap (fun st =>
    ((s.stl st).pad.refOut.filter (fun r => r.data.isNone)).map (fun r => (1, r.since)))) ++
  ((List.finRange 4).flatMap (fun f =>
    (((s.fab.fetches[f].take 128).filter (fun e => e.2.kind = 2)).map (fun e => (2, e.2.since))) ++
    (s.hubWaits f).toList.map (fun t => (2, t)))) ++
  ((List.finRange 64).flatMap (fun p => (s.placeWaits p).map (fun t => (3, t)))) ++
  ((List.finRange 65).flatMap (fun f => (s.copyWaits f).map (fun t => (4, t))))

/-- Some waiting request is served before one of a class and arrival: 1 refetch, 2 HE_FETCH and hub-window write, 3 placement
and Hawker fill, 4 GRANARY_PUT and GRANARY_GET, 5 patrol. -/
def State.granWaits (s : State) (cls t : Nat) : Bool :=
  s.gran.avail && s.granQueue.any (fun e => decide (e.1 < cls) || (e.1 = cls && decide (e.2 < t)))

/-! Hub windows (16 Tables 16.4, 16.5). -/

def Hwin.kind (w : Hwin) : Nat := fld w.ctl 25 24
def Hwin.region (w : Hwin) : Nat := fld w.ctl 11 0
def Hwin.base (w : Hwin) : Nat := (dword (w.baseLo &&& 0xFFFFF000) w.baseHi).toNat
def Hwin.bytes (w : Hwin) : Nat := 4096 * fld w.size 27 0

/-- The checks of Table 16.5 on a request of n bytes at offset o: the target kind and address, or the number
of the check that fails. -/
def State.window (s : State) (p : Fin 64) (w : Nat) (o : Int) (n : Nat) (write : Bool) : Except Nat (Nat × Nat) :=
  let x := (s.part p).hwin[fin 15 w]
  if !bit x.ctl 31 || x.kind = 3 then .error 1
  else if !bit x.ctl (if write then 29 else 30) then .error 2
  else if o < 0 ∨ (x.bytes : Int) < o + n then .error 3
  else
    let a := x.base + o.toNat
    match x.kind with
    | 0 => .ok (0, a)
    | 1 =>
      let q := s.part p
      if 4096 * q.hubBase ≤ a ∧ a + n ≤ 4096 * (q.hubBase + q.hubPages) then .ok (1, a) else .error 4
    | _ =>
      match s.gran.dir.get? x.region with
      | none => .error 4
      | some r =>
        if r.owner.toNat = p.val && decide (a + n ≤ r.size) && !(write && decide (0 < r.pins)) then .ok (2, r.base + a)
        else .error 4

/-- A failed check is counted; the first of a dispatch is recorded and reported (16 R459). -/
def State.winFail (s : State) (p st : Fin 64) (w check : Nat) (o : Int) (write : Bool) : State :=
  let s := { s with fab := { s.fab with winFaults := satAdd s.fab.winFaults 1 } }
  let s := s.modPart p (fun q => { q with winFaults := satAdd q.winFaults 1 })
  if (s.part p).winTold then s
  else
    let v := pack [(1, 31), (check, 28), (b2n write, 27), (p.val, 16), (w, 12), (st.val, 0)]
    let s := { s with fab := { s.fab with winFault := v, bitsNew := (s.fab.bitsNew.1, s.fab.bitsNew.2.1, true) } }
    (s.modPart p (fun q => { q with winFault := v, winTold := true, winNew := true })).raise 0x1050 (some p) true v
      (BitVec.ofInt 32 o)

/-- n bytes of a target that passed the checks: kind 0 host, 1 hub SRAM, 2 Granary (18 Table 18.8). A Granary
row of a bad block is not good. -/
def State.hubRead (s : State) (p : Fin 64) (kind a n : Nat) (glitch : Bool) : State × List Byte × Bool :=
  match kind with
  | 0 => let (s, bs) := s.hostGet (some p) a n; (s, bs, true)
  | 1 => (s, s.sram.bytes a n, true)
  | _ =>
    let (s, ok) := s.readBlock (a / 512) glitch
    (s.count p 7 n, s.gran.mem.bytes a n, ok)

/-- A directory entry written, with its update in the journal buffer (15 R424, 19 R539). -/
def State.putRegion (s : State) (i : Nat) (r : Region) : State :=
  { s with gran := { s.gran with dir := s.gran.dir.set i r } }.toJournal (.directory i (some r))

/-- A region that a write through a window changes is no longer VERIFIED (15 Table 15.3). -/
def State.unverify (s : State) (a : Nat) : State :=
  match s.gran.regionAt a with
  | some (i, r) => if r.verified.isSome then s.putRegion i { r with verified := none } else s
  | none => s

/-- Bytes written to a target that passed the checks. -/
def State.hubWrite (s : State) (p : Fin 64) (kind a : Nat) (bs : List Byte) : State :=
  match kind with
  | 0 => s.hostPut (some p) a bs
  | 1 => { s with sram := s.sram.put a bs }
  | _ => ((s.granWrite a 2 bs).unverify a).count p 7 bs.length

end Sys2Proof.Machine
end

