-- ==== Sys2Proof/Machine/Images.lean ====
section
/-! DEFINITION. Gheson images: the header and section table (09 R255, R256), the signature (18 R524 to R526),
the checks of IMAGE_LOAD (02 Table 2.6, 08 R207, R214, 09 R257, 10 R270, R271, 13 R357, R361, R367, 15 R430),
placement and unloading. -/

namespace Sys2Proof.Machine

/-- A section entry (09 Table 9.8). -/
structure Section where
  ty     : Nat
  ord    : Nat
  rank   : Nat
  target : Nat
  len    : Nat
  off    : Nat
deriving DecidableEq, Repr

/-- Section entry k of an image's bytes. -/
def sectionAt (m : Mem) (k : Nat) : Section :=
  let a := 0x200 + 16 * k
  let w := m.word a
  { ty := fld w 31 24, ord := fld w 23 16, rank := fld w 15 0, target := (m.word (a + 4)).toNat,
    len := (m.word (a + 8)).toNat, off := (m.word (a + 12)).toNat }

/-- The header fields of an image of `len` bytes (09 Table 9.7). -/
def imageOf (m : Mem) (len : Nat) : Image :=
  { bytes := m, length := len, spanSize := fld (m.word 8) 13 0, streamed := bit (m.word 12) 1,
    hold := bit (m.word 12) 0, shape := m.dword 0x10, horizon := fld (m.word 0x18) 12 0,
    hopLat := fld (m.word 0x1C) 11 0, boundG := fld (m.word 0x20) 23 0, boundH := fld (m.word 0x24) 23 0,
    boundD := fld (m.word 0x28) 23 0, timeout := fld (m.word 0x2C) 15 0, foot := fld (m.word 0x30) 18 0,
    descLine := fld (m.word 0x34) 13 0, recLine := fld (m.word 0x38) 13 0,
    entries := (List.range (fld (m.word 0x3C) 4 0)).map (fun e =>
      (fld (m.word (0x100 + 16 * e)) 13 0, (m.dword (0x108 + 16 * e)).toNat)),
    size := (List.range 6).map (fun a => fld (m.word (0x40 + 4 * a)) 15 0),
    nsec := fld (m.word 4) 31 16, placed := 0, backing := none }

def Image.sections (i : Image) : List Section := (List.range i.nsec).map (sectionAt i.bytes)

/-- The number of bits that the header gives the word at a byte offset (09 Table 9.7). -/
def headerBits (a : Nat) : Nat :=
  if a = 8 then 14 else if a = 12 then 2 else if a = 0x18 then 13 else if a = 0x1C then 12
  else if a = 0x20 ∨ a = 0x24 ∨ a = 0x28 then 24 else if a = 0x2C then 16 else if a = 0x30 then 19
  else if a = 0x34 ∨ a = 0x38 then 14 else if a = 0x3C then 5
  else if 0x40 ≤ a ∧ a < 0x58 then 16 else if 0x58 ≤ a ∧ a < 0x100 then 0
  else if a < 0x100 then 32
  else if a % 16 = 0 then 14 else if a % 16 = 4 then 0 else 32

/-- MAGIC, FORMAT, ENTRIES or a reserved bit of the header is wrong (09 R255). -/
def Image.headerBad (i : Image) : Bool :=
  decide (i.length < 512) || i.bytes.word 0 ≠ 0x47485331 || fld (i.bytes.word 4) 15 0 ≠ 3 ||
  decide (i.entries.length < 1) || decide (16 < i.entries.length) ||
  (List.range 128).any (fun k => decide (2 ^ headerBits (4 * k) ≤ (i.bytes.word (4 * k)).toNat))

/-- Section types (09 Table 9.8). -/
def tyBundles : Nat := 1
def tyRows : Nat := 2
def tyXlate : Nat := 3
def tyScale : Nat := 4
def tyBacked : Nat := 5
def tySlots : Nat := 6
def tySig : Nat := 15

/-- The section has a reserved TYPE, or extends past the image or its target (09 R256). -/
def Section.bad (x : Section) (i : Image) : Bool :=
  !([tyBundles, tyRows, tyXlate, tyScale, tyBacked, tySlots, tySig].contains x.ty) ||
  decide (i.length < x.off + x.len) ||
  (x.ty = tyBundles && (x.target % 128 ≠ 0 || x.len % 32 ≠ 0 || decide (16384 < x.target + x.len / 32))) ||
  (x.ty = tyRows && x.ord ≠ 0xFE && decide (393216 < x.target + ceilDiv x.len 128)) ||
  (x.ty = tyXlate && (x.target ≠ 0 || decide (256 < x.len))) ||
  (x.ty = tyScale && (x.target ≠ 0 || decide (1024 < x.len))) ||
  (x.ty = tyBacked && (x.target ≠ 0 || decide (256 < x.len))) || (x.ty = tySig && x.target ≠ 0)

/-- The SIGNATURE section is the last section (09 R256). -/
def Image.sigBad (i : Image) : Bool := (i.sections.dropLast).any (fun x => x.ty = tySig)

/-- The sections of a type for a Stall ordinal of the member of a rank (09 R256). -/
def Image.for (i : Image) (rank k ty : Nat) : List Section :=
  i.sections.filter (fun x => x.ty = ty && (x.rank = 0xFFFF || x.rank = rank) && (x.ord = 0xFF || x.ord = k))

/-- The bytes of a section. -/
def Image.body (i : Image) (x : Section) : Mem := i.bytes.slice x.off x.len 0

/-- The table that the matching sections of a type give, each written over those before it; what none gives is zero (DESIGN
CHOICE, log 67: the spec does not say what a section shorter than its table leaves, such as the STALL.SCALE entries past it). -/
def Image.table (i : Image) (rank k ty : Nat) : Mem :=
  (i.for rank k ty).foldl (fun m x => m.copy i.bytes x.off x.len 0) []

/-- A translation window from its two words (08 Table 8.6). -/
def windowOf (a b : Word) : Window :=
  { valid := bit a 31, r := bit a 30, w := bit a 29, arr := bit a 28, page := bit a 27, glean := bit a 26,
    lline := BitVec.ofNat 14 (fld a 13 0), count := BitVec.ofNat 14 (fld b 27 14),
    pline := BitVec.ofNat 14 (fld b 13 0) }

/-- The translation windows of a Stall. -/
def Image.windows (i : Image) (rank k : Nat) : Vector Window 32 :=
  let t := i.table rank k tyXlate
  Vector.ofFn (fun w : Fin 32 => windowOf (t.word (8 * w.val)) (t.word (8 * w.val + 4)))

/-- The valid window that covers all of n logical lines. -/
def coverOf (win : Vector Window 32) (line n : Nat) : Option Window :=
  win.toList.find? (fun w => w.valid && decide (w.lline.toNat ≤ line) && decide (line + n ≤ w.lline.toNat + w.count.toNat))

/-- n logical lines lie in one valid window with permissions R and W. -/
def coverRW (win : Vector Window 32) (line n : Nat) : Bool :=
  match coverOf win line n with
  | some w => w.r && w.w
  | none => false

/-- Two elements of a list, the earlier one first, are related. -/
def anyPair {α : Type} (f : α → α → Bool) : List α → Bool
  | [] => false
  | a :: l => l.any (f a) || anyPair f l

/-- The windows break 08 R214, 09 R257 or, of a streamed image, 13 R367. -/
def Image.windowsBad (i : Image) (win : Vector Window 32) : Bool :=
  let v := win.toList.filter (fun w => w.valid)
  v.any (fun w => w.count.toNat = 0 || decide (12288 < w.count.toNat) || decide (12288 < w.pline.toNat + w.count.toNat)) ||
  anyPair (fun a b => decide (a.lline.toNat < b.lline.toNat + b.count.toNat) &&
    decide (b.lline.toNat < a.lline.toNat + a.count.toNat)) v ||
  !coverRW win i.descLine 4 || !coverRW win i.recLine 8 || (i.streamed && !coverRW win 12272 16)

/-- A BACKED entry of a Stall: logical START, COUNT and the two GRAN words, when enabled (15 R430). -/
def Image.backed (i : Image) (rank k : Nat) : List (Option (Nat × Nat × Word × Word)) :=
  let t := i.table rank k tyBacked
  (List.range 16).map (fun m =>
    if bit (t.word (16 * m + 4)) 31 then
      some (fld (t.word (16 * m)) 18 0, fld (t.word (16 * m + 4)) 18 0, t.word (16 * m + 8), t.word (16 * m + 12))
    else none)

/-- The logical rows of an enabled entry are written by exactly one ROWS section; that section. -/
def Image.rowsOf (i : Image) (rank k start n : Nat) : Option Section :=
  match (i.for rank k tyRows).filter (fun x =>
      decide (x.target < start + n) && decide (start < x.target + ceilDiv x.len 128)) with
  | [x] => if x.target ≤ start ∧ start + n ≤ x.target + ceilDiv x.len 128 ∧ x.off % 128 = 0 then some x else none
  | _ => none

/-- The physical first row of logical rows that lie in one valid window. -/
def physOf (win : Vector Window 32) (start n : Nat) : Option Nat :=
  match win.toList.find? (fun w => w.valid && decide (32 * w.lline.toNat ≤ start) &&
      decide (start + n ≤ 32 * (w.lline.toNat + w.count.toNat))) with
  | some w => some (w.phys start)
  | none => none

/-- The backed entries of a Stall break 15 R430. -/
def Image.backedBad (i : Image) (rank k : Nat) (win : Vector Window 32) : Bool :=
  let l := (i.backed rank k).filterMap id
  l.any (fun e => e.2.1 = 0 || decide (393216 < e.1 + e.2.1) || e.2.2.1 ≠ 0 || e.2.2.2 ≠ 0 ||
    (i.rowsOf rank k e.1 e.2.1).isNone || (physOf win e.1 e.2.1).isNone) ||
  anyPair (fun a b => match physOf win a.1 a.2.1, physOf win b.1 b.2.1 with
    | some p, some q => decide (p < q + b.2.1) && decide (q < p + a.2.1)
    | _, _ => false) l

/-- Some row of a ROWS section lies in no valid window. -/
def Image.rowsBad (i : Image) (rank k : Nat) (win : Vector Window 32) : Bool :=
  (i.for rank k tyRows).any (fun x => (List.range (ceilDiv x.len 128)).any (fun r =>
    !(win.toList.any (fun w => w.valid && decide (w.lline.toNat ≤ (x.target + r) / 32) &&
      decide ((x.target + r) / 32 < w.lline.toNat + w.count.toNat)))))

/-- The bytes that the ROWS sections place on n logical rows, from byte 0. -/
def Image.rowBytes (i : Image) (rank k row n : Nat) : Mem :=
  ((i.for rank k tyRows).foldl (fun (m : Mem) x => m.copy i.bytes x.off x.len (128 * x.target)) []).slice (128 * row) (128 * n) 0

/-- A store of bundles from the BUNDLES sections: bundles by store address, and the lines written (09 R249). -/
def Image.store (i : Image) (rank k : Nat) : Tab (BitVec 256) × BitVec 128 :=
  (i.for rank k tyBundles).foldl (fun acc x =>
    let t := (i.body x).foldl (fun (t : Tab (BitVec 256)) e =>
      let a := x.target + e.1 / 32
      let b : BitVec 256 := e.2.setWidth 256
      t.set a (Tab.getD t a 0 ||| b <<< (8 * (e.1 % 32)))) (Tab.clear acc.1 x.target (x.len / 32))
    let lines := ((List.range 128).filter (fun l =>
      decide (x.target / 128 ≤ l) && decide (l < ceilDiv (x.target + x.len / 32) 128))).foldl
        (fun (m : BitVec 128) l => m ||| ((1 : BitVec 128) <<< l)) acc.2
    (t, lines)) ([], 0)

/-- A Pad-mode image uses, on one Stall, a source that needs Hold mode, or a padded class whose bound is 0 (02 R44, R45,
Table 2.6, 05 R149): zero-skip in a descriptor that its ROWS sections place, or a dynamic transfer of its bundles. The class of
a transfer through a hub window is that of the window as it stands (DEDUCED, log 68: `win` gives its KIND); serving input and
Glean results have no mark in an image and are refused by SERVE_OPEN (14 R380). -/
def Image.padBad (i : Image) (rank k : Nat) (win : Nat → Option Nat) : Bool :=
  let d := i.rowBytes rank k (32 * i.descLine) 128
  let r := i.rowBytes rank k (32 * i.recLine) 256
  let zskip := (List.range 256).any (fun x =>
    fld (d.word (64 * x)) 31 28 = 1 && bit (d.word (64 * x + 8)) 20)
  let ops := (i.store rank k).1.map (fun e =>
    let w := BitVec.ofNat 32 (e.2.toNat % 2 ^ 32)
    (fld w 31 24, fld (r.word (32 * fld w 9 0 + 16)) 31 30, fld (r.word (32 * fld w 9 0 + 28)) 31 28))
  let dyn := ops.any (fun e => e.1 = 2 && decide (e.2.1 < 2))
  let hub := (ops.filter (fun e => e.1 = 3 || (e.1 = 2 && e.2.1 = 2))).map (fun e => win e.2.2)
  i.streamed || zskip || (dyn && i.boundD = 0) || (hub.contains (some 2) && i.boundG = 0) ||
  (hub.any (fun x => x = some 0 || x = some 1) && i.boundH = 0) || (hub.contains none && i.boundH = 0 && i.boundG = 0)

/-- The ranks that sections of the image name. -/
def Image.ranks (i : Image) : List Nat := (i.sections.map (fun x => x.rank)).eraseDups

/-! Slot tables (10 R270, R271). -/

/-- The router and port that a SLOTS section names. -/
def Section.port (x : Section) : Fin 64 × Fin 5 := (fin 63 (x.target / 256), fin 4 (x.target % 8))

/-- The outputs that a SLOTS section must not make valid: a Stem port, an unconnected one, or the L output of a
Stall outside the partition's shape. -/
def slotShut (shape : DWord) (r : Fin 64) (o : Fin 5) : Bool :=
  match portEnd r o with
  | .stem _ => true
  | .none => true
  | .stall => !shape.getLsbD r.val
  | _ => false

def Image.slotsBad (i : Image) : Bool :=
  (i.sections.filter (fun x => x.ty = tySlots)).any (fun x =>
    x.ord ≠ 0xFF || x.len ≠ 4096 || x.target % 256 ≥ 5 || decide (64 * 256 ≤ x.target) ||
    (let (r, o) := x.port
     (i.body x).any (fun e => fld e.2 3 0 ≠ 0 || decide (4 < fld e.2 6 4) || (bit e.2 7 && slotShut i.shape r o))))

/-- The SLOTS sections of a rank. -/
def Image.slotsOf (i : Image) (rank : Nat) : List Section :=
  i.sections.filter (fun x => x.ty = tySlots && (x.rank = 0xFFFF || x.rank = rank))

/-- The sheaf behind a port of a router, as an output or as an input. -/
def sheafOf (r : Fin 64) (o : Fin 5) : Option (Fin 20) :=
  match portEnd r o with
  | .sheaf n => some n
  | _ => none

/-- The measured latency of a link that the rank's slot tables use exceeds HOP_LATENCY (02 R43): the sheaf of
the table's output, or of an input that a valid entry selects. -/
def State.slotsSlow (s : State) (i : Image) (rank : Nat) : Bool :=
  (i.slotsOf rank).any (fun x =>
    let (r, o) := x.port
    let slow (q : Fin 5) : Bool := match sheafOf r q with
      | some n => decide (i.hopLat < (s.sheaf n).schedCc.toNat)
      | none => false
    (i.body x).any (fun e => bit e.2 7 && (slow o || slow (fin 4 (fld e.2 6 4)))))

/-! Ring tables (13 Table 13.1, R357). -/

/-- Member j of a ring table's bytes. -/
def ringEntryAt (m : Mem) (j : Nat) : RingEntry :=
  let a := 16 + 16 * j
  { depot := bit (m.word a) 31, dpart := BitVec.ofNat 6 (fld (m.word a) 21 16),
    node := BitVec.ofNat 13 (fld (m.word a) 12 0), out := BitVec.ofNat 3 (fld (m.word (a + 4)) 30 28),
    byp := BitVec.ofNat 3 (fld (m.word (a + 4)) 26 24), hop := fld (m.word (a + 4)) 11 0,
    delay := fld (m.word (a + 8)) 27 0 }

/-- REV_LEN, WIDTH and the members of a ring table. -/
def ringTable (m : Mem) : Nat × Nat × List RingEntry :=
  (fld (m.word 0) 27 0, fld (m.word 4) 17 16, (List.range (fld (m.word 4) 13 0)).map (ringEntryAt m))

/-- The sheaf of an index at a port. -/
def portSheaf (k : Nat) (i : Nat) : Fin 20 := if k < 6 then fin 19 (3 * k + i) else fin 19 (12 + k)

/-- The checks of 13 R357 and 19 R549 that one member can make on a table for a span of so many members: a
status, if one fails. The sheaves of a hop are this member's own ring-out and ring-in. -/
def State.ringCheck (s : State) (p : Fin 64) (members : Nat) (t : Nat × Nat × List RingEntry) : Option Byte :=
  let (rev, width, l) := t
  let me := l.findIdx (fun e => some e.node = s.link.node)
  let n := l.length
  let prev := (me + n - 1) % n
  let at' (j : Nat) : RingEntry := l.getD j ⟨false, 0, 0, 0, 0, 0, 0⟩
  let idx := List.range width
  let outs := idx.map (portSheaf (at' me).out.toNat)
  let ins := (List.finRange 20).filter (fun h => match (s.sheaf h).far with
    | some (node, port, i) => node = (at' prev).node && port = (at' prev).out && decide (i.toNat < width)
    | none => false)
  let rows := 393216 * (s.part p).members.length
  let foreign := (outs ++ ins).any (fun h => (s.sheaf h).foreign)
  if rev % 256 ≠ 0 || decide (rev < 4096) || decide (2 ^ 28 - 256 < rev) ||
      rev ≠ l.foldl (fun a e => a + e.hop + e.delay) 0 || l.any (fun e => !e.depot && e.delay ≠ 32) ||
      l.any (fun e => e.depot && decide (e.delay < 1024)) || width = 0 || decide (n < 2) || decide (8192 < n) ||
      (((at' me).depot) && decide (rows < (at' me).delay * width)) || decide (n ≤ me) ||
      anyPair (fun a b => a.node = b.node) l || (l.filter (fun e => !e.depot)).length ≠ members ||
      outs.any (fun h => decide ((at' me).hop < (s.sheaf h).schedCc.toNat)) ||
      ins.any (fun h => decide ((at' prev).hop < (s.sheaf h).schedCc.toNat)) ||
      (l.zipIdx.any (fun e => e.1.byp ≠ 0 && (at' ((e.2 + 1) % n)).depot)) ||
      ((at' ((me + n - 2) % n)).byp ≠ 0 && (List.finRange 20).any (fun h => match (s.sheaf h).far with
        | some (node, port, _) => node = (at' ((me + n - 2) % n)).node && port = (at' ((me + n - 2) % n)).byp &&
            decide ((at' ((me + n - 2) % n)).hop + 32 + (at' prev).hop < (s.sheaf h).schedCc.toNat)
        | none => false)) ||
      (((at' me).byp ≠ 0) && decide ((at' me).hop + 32 + (at' ((me + 1) % n)).hop <
        (s.sheaf (portSheaf (at' me).byp.toNat 0)).schedCc.toNat)) ||
      (l.any (fun e => decide (6 ≤ e.out.toNat) || e.byp ≠ 0) && width ≠ 1) || foreign then some stBadParam
  else if outs.any (fun h =>
      let (r, o) := sheafAt h
      ((s.stl r).rt.slots[o]).any (fun e => bit e.2 7)) ||
      ((s.ring.state ≠ 0 || s.ring.acceptAt.isSome) && s.ring.id ≠ (s.part p).span.getD 0) then some stNoResource
  else none

/-- A frame section (13 R361): its positions. -/
def frameSpan (x : Section) : Nat × Nat := (256 * x.target, x.len / 128)
def Image.frames (i : Image) : List Section :=
  i.sections.filter (fun x => x.ty = tyRows && x.ord = 0xFE && x.rank = 0xFFFF)
def Image.framesBad (i : Image) (rev width : Nat) : Bool :=
  i.frames.any (fun x => x.len % 32768 ≠ 0 || decide (rev * width < (frameSpan x).1 + (frameSpan x).2)) ||
  anyPair (fun a b => decide ((frameSpan a).1 < (frameSpan b).1 + (frameSpan b).2) &&
    decide ((frameSpan b).1 < (frameSpan a).1 + (frameSpan a).2)) i.frames

/-! The checks together. -/

/-- The KIND of a hub window that is VALID (16 Table 16.4). -/
def Part.windowKind (q : Part) (w : Nat) : Option Nat :=
  let x := q.hwin[fin 15 w]
  if bit x.ctl 31 then some (fld x.ctl 25 24) else none

def prod (l : List Nat) : Nat := l.foldl (· * ·) 1

/-- The checks of IMAGE_LOAD that give BAD_PARAM (02 Table 2.6, 09 R255, R256). -/
def State.imageBad (s : State) (p : Fin 64) (i : Image) : Bool :=
  let q := s.part p
  let rank := q.rank.toNat
  let n := q.members.length
  i.headerBad || decide (i.length < 512 + 16 * i.nsec) || i.sections.any (fun x => x.bad i) || i.sigBad ||
  q.spanState ≠ 2 || i.spanSize ≠ q.sizeM1.toNat + 1 || i.shape ≠ q.stalls || decide (i.horizon < 64) ||
  decide (i.horizon < q.h) || i.hopLat = 0 || i.timeout = 0 || decide (32768 < i.timeout) ||
  prod (i.size.take 4) ≠ i.spanSize || prod (i.size.drop 4) ≠ n || i.slotsBad || s.slotsSlow i rank || q.depot ||
  (List.range n).any (fun k =>
    let win := i.windows rank k
    i.windowsBad win || i.backedBad rank k win || i.rowsBad rank k win) ||
  (!i.hold && (rank :: i.ranks).any (fun r => (List.range n).any (fun k => i.padBad r k q.windowKind)))

/-- The checks that give NO_RESOURCE: FOOTPRINT (01 R33), and a port that another partition owns (10 R271). -/
def State.imageShort (s : State) (p : Fin 64) (i : Image) : Bool :=
  decide (393216 < i.foot) || (i.slotsOf (s.part p).rank.toNat).any (fun x =>
    let (r, o) := x.port
    match (s.stl r).rt.owner[o] with
    | some q => q ≠ p
    | none => false)

/-! Signatures (18 R522 to R526). -/

/-- The public key of slot 1 to 7. -/
def Keys.key (k : Keys) (slot : Nat) : Option (List Byte) :=
  if slot = 1 then k.owner else if 2 ≤ slot ∧ slot ≤ 7 then k.block[fin 5 (slot - 2)] else none

/-- The SIGNATURE section of an image: the last section, of 128 bytes at the end. -/
def Image.sig (i : Image) : Option Section :=
  match i.sections.getLast? with
  | some x => if x.ty = tySig ∧ x.len = 128 ∧ x.off + 128 = i.length then some x else none
  | none => none

/-- The signed digest (18 R524). -/
def Image.digest (i : Image) (x : Section) : List Byte := sha384 (i.bytes.bytes 0 x.off)

/-- The key slot that verifies the image for a partition, if one does (18 R525). -/
def State.verify (s : State) (keymask : Byte) (i : Image) : Option Nat :=
  match i.sig with
  | none => none
  | some x =>
    let a := x.off
    let slot := fld (i.bytes.word (a + 4)) 10 8
    if i.bytes.word a ≠ 0x47534947 || fld (i.bytes.word (a + 4)) 7 0 ≠ 1 || slot = 0 || !keymask.getLsbD slot then none
    else
      match s.keys.key slot with
      | none => none
      | some k =>
        if ecdsaOk k (i.digest x) (i.bytes.bytes (a + 0x10) 48) (i.bytes.bytes (a + 0x40) 48) then some slot else none

/-! Placement (09 R256, 15 R429 to R431). -/

/-- Rows of a section placed by physical address: parity right, POISON cleared and logged (04 R122, R137). -/
def Stall.placeRows (x : Stall) (i : Image) (t : Section) (win : Vector Window 32) : Stall :=
  let b := i.body t
  (List.range (ceilDiv t.len 128)).foldl (fun x r =>
    match physOf win (t.target + r) 1 with
    | some p => x.writePhys p (b.row (128 * r)) 0xFFFFFFFF 0
    | none => x) x

/-- A backed entry: physical START, COUNT and the Granary row (15 R430). -/
def Image.backedEntry (i : Image) (rank k : Nat) (win : Vector Window 32) (base : Option Nat) (e : Nat) : Backed :=
  match (i.backed rank k).getD e none, base with
  | some (start, n, _, _), some g =>
    match physOf win start n, i.rowsOf rank k start n with
    | some p, some x =>
      { enable := true, start := BitVec.ofNat 19 p, count := BitVec.ofNat 19 n,
        gran := BitVec.ofNat 33 ((g + x.off) / 128 + (start - x.target)) }
    | _, _ => ⟨false, 0, 0, 0⟩
  | _, _ => ⟨false, 0, 0, 0⟩

/-- Coordinates of a Stall: span rank on axes 0 to 3, Stall ordinal on axes 4 and 5 (08 R208). -/
def meshOf (size : List Nat) (rank k : Nat) : Vector (Half × Half) 6 :=
  Vector.ofFn (fun a : Fin 6 =>
    let n := size.getD a.val 1
    let c := if a.val < 4 then rank / prod (size.take a.val) % n
      else if a.val = 4 then k % n else k / size.getD 4 1
    (BitVec.ofNat 16 n, BitVec.ofNat 16 c))

/-- A file mirrors n rows from a physical row on (08 R204). -/
def Pad.mirror (d : Pad) (p n : Nat) : Mem × List Nat :=
  (d.mem.slice (128 * p) (128 * n) 0, (d.badPar.filter (fun w => p ≤ w / 32 && w / 32 < p + n)).map (fun w => w - 32 * p))

/-- The descriptor, record and take files hold what their windows hold. -/
def Stall.remirror (x : Stall) : Stall :=
  let x := match x.xl.descBase with
    | some l => let (m, b) := x.pad.mirror (32 * l.toNat) 128; { x with xl := { x.xl with descFile := m, descBad := b } }
    | none => x
  let x := match x.seq.recBase with
    | some l => let (m, b) := x.pad.mirror (32 * l.toNat) 256; { x with seq := { x.seq with recFile := m, recBad := b } }
    | none => x
  match x.xl.takeRow with
  | some t => let (m, b) := x.pad.mirror t 512; { x with tk := { x.tk with file := m, bad := b } }
  | none => x

/-- One Stall of the partition takes the image; STALL.SCALE entries past a short SCALE section are 0 (log 67) (05 R150, 06 R162, R165, 07 R189, 08 R208, R214, 09 R249, R257). -/
def Stall.place (x : Stall) (i : Image) (rank k : Nat) (span : Option (BitVec 12)) (base : Option Nat) : Stall :=
  let win := i.windows rank k
  let line (l n : Nat) : Option (BitVec 14) := (coverOf win l n).map (fun w => BitVec.ofNat 14 (w.pline.toNat + l - w.lline.toNat))
  let xl := { x.xl with
    win := win, mesh := meshOf i.size rank k, spanId := span, descBase := line i.descLine 4,
    backed := Vector.ofFn (fun e : Fin 16 => i.backedEntry rank k win base e.val) }
  let (st, lines) := i.store rank k
  let seq := { x.seq with store := st, storeBad := [], valid := lines, fromImg := lines, recBase := line i.recLine 8 }
  let sc := i.table rank k tyScale
  let ca := { x.ca with
    acc := [], valid := false, scale := Vector.ofFn (fun n : Fin 256 => sc.word (4 * n.val)) }
  let x := { x with xl := xl, seq := seq, ca := ca, le := { x.le with const := Vector.replicate 16 0 },
                    ve := { x.ve with const := Vector.replicate 16 0 } }
  ((i.for rank k tyRows).foldl (fun x t => x.placeRows i t win) x).remirror

/-- A partition gives up its ports (10 R271); the L outputs stay those of its own Stalls (10 R265). -/
def State.dropPorts (s : State) (p : Fin 64) : State :=
  { s with stalls := s.stalls.map (fun x =>
      let keep (o : Fin 5) : Bool := x.rt.owner[o] = some p
      { x with rt := { x.rt with
          slots := Vector.ofFn (fun o : Fin 5 => if keep o then [] else x.rt.slots[o]),
          owner := Vector.ofFn (fun o : Fin 5 => if keep o && o.val ≠ 4 then none else x.rt.owner[o]) } }) }

/-- A SLOTS section makes its partition the owner of the output: not of a Stem port's, and a Stall's L output is the holder's
(10 R265). -/
def ownedBySlots (r : Fin 64) (o : Fin 5) : Bool :=
  match portEnd r o with
  | .stem _ => false
  | .stall => false
  | _ => true

/-- The slot tables of an image. -/
def State.placeSlots (s : State) (p : Fin 64) (i : Image) : State :=
  (i.slotsOf (s.part p).rank.toNat).foldl (fun s x =>
    let (r, o) := x.port
    let t : Tab Byte := i.body x
    s.modRt r (fun y => { y with slots := y.slots.set o t, owner := if ownedBySlots r o then y.owner.set o (some p) else y.owner })) s

/-- PINS of a region moved by one (15 R431). -/
def State.pin (s : State) (r : Option (BitVec 12)) (up : Bool) : State :=
  match r with
  | none => s
  | some i =>
    match s.gran.dir.get? i.toNat with
    | none => s
    | some x =>
      let x := { x with pins := if up then x.pins + 1 else x.pins - 1 }
      { s with gran := { s.gran with dir := s.gran.dir.set i.toNat x } }

/-- The partition's image is unloaded: its region's pin falls and its Stalls' SPAN_ID is invalid (08 R214, 15 R431). The whole
register reads 0 then: R214 clears VALID and does not say whether the field keeps the ID (DESIGN CHOICE, log 72). -/
def State.unload (s : State) (p : Fin 64) : State :=
  match (s.part p).image with
  | none => s
  | some i =>
    let s := (s.pin i.backing false).modPart p (fun q => { q with image := none })
    let s := (s.part p).members.foldl (fun s st => s.modXl st (fun x => { x with spanId := none })) s
    if s.ring.part = some p then { s with ring := { s.ring with haltReq := true } } else s

/-- The base of a region. -/
def State.regionBase (s : State) (r : Option (BitVec 12)) : Option Nat :=
  match r with
  | none => none
  | some i => (s.gran.dir.get? i.toNat).map (·.base)

/-- The sections placed on a member. -/
def Image.placedOn (i : Image) (rank n : Nat) : Nat :=
  (i.sections.filter (fun x => x.ty ≠ tySig && (x.rank = 0xFFFF || x.rank = rank) &&
    (x.ord = 0xFF || decide (x.ord < n)))).length

/-- The image is placed on a partition (09 R256, 15 R429 to R431); the image it had is unloaded. -/
def State.placeImage (s : State) (p : Fin 64) (i : Image) : State :=
  let s := (s.unload p).dropPorts p
  let q := s.part p
  let rank := q.rank.toNat
  let i := { i with placed := i.placedOn rank q.members.length }
  let base := s.regionBase i.backing
  let s := q.members.zipIdx.foldl (fun s e => s.modStl e.1 (fun x => x.place i rank e.2 q.span base)) s
  let rows := (q.members.zipIdx.map (fun e =>
    ((i.for rank e.2 tyRows).map (fun x => x.len)).foldl (· + ·) 0)).foldl (· + ·) 0
  let s := if i.backing.isSome then s.count p 7 rows else s
  ((s.placeSlots p i).pin i.backing true).modPart p (fun q => { q with image := some i })

/-- Store lines that came from a BUNDLES section and are invalid are written again (09 R252). -/
def State.rewriteLines (s : State) (p : Fin 64) : State :=
  match (s.part p).image with
  | none => s
  | some i =>
    (s.part p).members.zipIdx.foldl (fun s e =>
      s.modSeq e.1 (fun q =>
        let lines := q.fromImg &&& ~~~q.valid
        if lines = 0 then q
        else
          let (t, _) := i.store (s.part p).rank.toNat e.2
          let hit (a : Nat) : Bool := lines.getLsbD (a / 128)
          { q with
            store := (t.filter (fun x => hit x.1)).foldl (fun u x => Tab.set u x.1 x.2) (q.store.filter (fun x => !hit x.1)),
            storeBad := q.storeBad.filter (fun w => !hit (w / 8)), valid := q.valid ||| lines })) s

end Sys2Proof.Machine
end

