-- ==== Sys2Proof/Machine/Flags.lean ====
section
/-! DEFINITION. Comparisons and narrowing with saturation: the conditions of compare-and-count
(04 Table 4.4) and of VE_CMP (09 Table 9.3), and signed saturation. -/

namespace Sys2Proof.Machine

/-- A value of an element: its n low bits read as signed or unsigned. -/
def elemVal (n : Nat) (signed : Bool) (v : Nat) : Int :=
  let u := v % 2 ^ n
  if signed && 2 ^ (n - 1) ≤ u then (u : Int) - (2 ^ n : Nat) else (u : Int)

/-- The test of a compare-and-count condition on an element of n bits (04 Table 4.4). -/
def cntTest (cond n : Nat) (signed : Bool) (w k l : Nat) : Bool :=
  let wv := elemVal n signed w
  let kv := elemVal n signed k
  let lv := elemVal n signed l
  match cond with
  | 0 => wv = kv
  | 1 => wv ≠ kv
  | 2 => wv < kv
  | 3 => wv ≤ kv
  | 4 => kv < wv
  | 5 => kv ≤ wv
  | 6 => kv ≤ wv ∧ wv ≤ lv
  | 7 => wv < kv ∨ lv < wv
  | 8 => (w % 2 ^ n) &&& (l % 2 ^ n) = (k % 2 ^ n) &&& (l % 2 ^ n)
  | _ => false

/-- A number brought into [lo, hi]. -/
def clampI (v lo hi : Int) : Int := if v < lo then lo else if hi < v then hi else v

/-- Saturation to n bits, two's complement. -/
def satS (n : Nat) (v : Int) : Int := clampI v (-(2 ^ (n - 1) : Nat)) ((2 ^ (n - 1) : Nat) - 1)

/-- A VE_CMP condition on a three-way comparison: −1, 0, 1, or none when an operand is a NaN. -/
def cmpTest (cond : Nat) : Option Int → Bool
  | none => cond = 1
  | some c =>
    match cond with
    | 0 => c = 0
    | 1 => c ≠ 0
    | 2 => c < 0
    | 3 => c ≤ 0
    | 4 => 0 < c
    | 5 => 0 ≤ c
    | _ => false

end Sys2Proof.Machine
end

