-- ==== Sys2Proof/Machine/Sequencer.lean ====
section
/-! DEFINITION. The Stall Sequencer: NOP and the control operations (09 R231 to R253), with tally waits
and compare-and-count (02 R46, 04 R114 to R120). A Stall that does not issue performs none of them. -/

namespace Sys2Proof.Machine

/-- Issue stops: no later bundle of the dispatch issues (09 R249). -/
def State.stopIssue (s : State) (st : Fin 64) : State := s.modSeq st (fun q => { q with state := .ended })

/-- The line of the bundle at PC is invalid, or PC has passed 16,383 (09 R249). -/
def Seq.noBundle (q : Seq) : Bool := q.past || !q.valid.getLsbD (q.pc.toNat / 128)

/-- A word of the bundle at PC has a wrong parity bit (09 R252). -/
def Seq.badBundle (q : Seq) : Bool := q.storeBad.any (fun w => w / 8 = q.pc.toNat)

/-- NOP: nothing issues for the slot. For the control slot, the bundle's own checks come about here:
parity (09 R252) and the STORE fault (09 R249). -/
def execNop (st : Fin 64) (slot : Fin 6) (s : State) : Answer :=
  let q := (s.stl st).seq
  .next (
    if !s.issues st || slot.val ≠ 0 then s
    else if q.noBundle then (s.bundleFault st 0 fcStore).stopIssue st
    else if q.badBundle then
      let line := q.pc.toNat / 128
      let s := s.modSeq st (fun q => { q with valid := q.valid &&& ~~~((1 : BitVec 128) <<< line) })
      let s := s.raise 0x1030 (s.owner st) true (stallArg st) (BitVec.ofNat 32 line)
      (s.bundleFault st 0 fcStore).stopIssue st
    else s)

/-- TALLY_SET: step 1 of Table 4.3 in the issue cycle (04 R114). -/
def execTallySet (st : Fin 64) (w : BitVec 96) (s : State) : Answer :=
  .next (
    if !s.issues st then s
    else if ctlExtra w [(32, 0)] then s.bundleFault st 0 fcReservedBit
    else s.tallyUp st (ctrIx (BitVec.ofNat 9 (fld w 32 24))) (fun t => { t with set := some (fld w 23 0) }))

/-- The detector at a tally wait that passes: the arrivals of its counter so far are waited for, from the schedule cycle in
which the hold point issued, and its counter may stand above its threshold (02 Table 2.2, kinds 0x01, 0x04, 0x07). -/
def State.hzWait (s : State) (st : Fin 64) (c : Fin 512) (thr sched : Nat) : State :=
  if !s.sys.dbgOn then s
  else
    let v := (s.stl st).seq.startOf c
    let s := s.modHz st (fun h => { h with arrs := h.arrs.map (fun e =>
      if e.ctr = some (BitVec.ofNat 9 c.val) && e.wait.isNone then { e with wait := some sched } else e) })
    if thr < v then s.breach st 0x07 0 c.val 0 else s

/-- TALLY_WAIT: a hold point (02 R46, R47, 09 R240, R241). -/
def execTallyWait (st : Fin 64) (w : BitVec 96) (s : State) : Answer :=
  let q := (s.stl st).seq
  let c := ctrIx (BitVec.ofNat 9 (fld w 32 24))
  let thr := fld w 23 0
  let consume := bit w 33
  .next (
    if !s.issues st then s
    else if ctlExtra w [(33, 0)] then s.bundleFault st 0 fcReservedBit
    else if thr ≤ q.startOf c then
      let s := s.hzWait st c thr (s.schedOf st)
      if consume then s.tallyUp st c (fun t => { t with subs := t.subs + thr }) else s
    else if 16 ≤ q.outstanding then s.bundleFault st 0 fcHoldFull
    else
      match s.running st with
      | none => s
      | some (p, _) => s.raiseHold st p (some (BitVec.ofNat 9 c.val, BitVec.ofNat 24 thr, consume)))

/-- KEY_SET: writes key pair PAIR (09 Table 9.5). -/
def execKeySet (st : Fin 64) (w : BitVec 96) (s : State) : Answer :=
  .next (
    if !s.issues st then s
    else if ctlExtra w [(67, 0)] then s.bundleFault st 0 fcReservedBit
    else s.modSeq st (fun q =>
      { q with keys := q.keys.set (fin 15 (fld w 67 64)) ⟨BitVec.ofNat 32 (fld w 31 0), BitVec.ofNat 32 (fld w 63 32)⟩ }))

/-- The elements of a row: 8, 16 or 32 bits (04 R119). -/
def rowElems (r : Row) (width : Nat) : List Nat :=
  match width with
  | 0 => (rowBytes r).map (·.toNat)
  | 1 => (rowHalves r).map (·.toNat)
  | _ => r.toList.map (fun (w : Word) => w.toNat)

def ctlAgent : Agent := ⟨0, 0, 0, 0⟩

/-- The number of elements that match (04 R119). -/
def cntCount (r : Row) (width cond : Nat) (signed : Bool) (k : KeyPair) : Nat :=
  ((rowElems r width).filter (fun e => cntTest cond (8 * 2 ^ width) signed e k.k.toNat k.l.toNat)).length

/-- An operation of the control slot that has had its issue cycle and takes `len` cycles (02 R39). -/
def ctlOpOf (opc : Byte) (len : Nat) (w : Work) : Op :=
  { ag := ctlAgent, dst := ctlAgent, opc := opc, t := 1, busy := 0, len := len, work := w }

def State.ctlOp (s : State) (st : Fin 64) (o : Op) : State := s.modStl st (fun x => { x with ops := x.ops ++ [o] })

/-- CNT: compare-and-count (04 R119, R120). The count reaches a counter in the next cycle, or a word of a
row in the one after. -/
def execCnt (st : Fin 64) (w : BitVec 96) (s : State) : Answer :=
  let q := (s.stl st).seq
  let lsel := fld w 87 84
  let k := q.iter lsel
  let row := ctlRow (fld w 83 65) (fld w 19 7) k
  let drow := ctlRow (fld w 52 34) (fld w 19 7) k
  let toWord := bit w 53
  .next (
    if !s.issues st then s
    else
      match firstFault [(ctlExtra w [(87, 7)] || decide (8 < lsel), fcReservedBit),
          (decide (8 < fld w 61 58) || fld w 64 63 = 3, fcOperand),
          (outRange row 1 || (toWord && outRange drow 1), fcAddrRange)] with
      | some f => s.bundleFault st 0 f
      | none =>
        let (s, r) := s.readRow st ctlAgent .read row.toNat
        let n := cntCount r (fld w 64 63) (fld w 61 58) (bit w 62) q.keys[fin 15 (fld w 57 54)]
        s.ctlOp st (if toWord then ctlOpOf 4 3 (.words drow.toNat (fld w 33 29) [BitVec.ofNat 32 n])
          else ctlOpOf 4 2 (.count (BitVec.ofNat 9 (fld w 28 20)) n)))

/-- SCYC: the schedule cycle of the issue cycle, written in the next cycle (09 Table 9.5). -/
def execScyc (st : Fin 64) (w : BitVec 96) (s : State) : Answer :=
  let q := (s.stl st).seq
  let lsel := fld w 87 84
  let row := ctlRow (fld w 83 65) (fld w 59 47) (q.iter lsel)
  .next (
    if !s.issues st then s
    else
      match firstFault [(ctlExtra w [(87, 47)] || decide (8 < lsel), fcReservedBit),
          (fld w 64 60 % 2 = 1, fcOperand), (outRange row 1, fcAddrRange)] with
      | some f => s.bundleFault st 0 f
      | none =>
        s.ctlOp st (ctlOpOf 5 2
          (.words row.toNat (fld w 64 60) [BitVec.ofNat 32 q.sched, BitVec.ofNat 32 (q.sched / 2 ^ 32)])))

/-- IDLE: no bundle in the next COUNT schedule cycles (09 R243). -/
def execIdle (st : Fin 64) (w : BitVec 96) (s : State) : Answer :=
  .next (
    if !s.issues st then s
    else if ctlExtra w [(23, 0)] then s.bundleFault st 0 fcReservedBit
    else if fld w 23 0 = 0 then s.bundleFault st 0 fcOperand
    else s.modSeq st (fun q => { q with idleTo := some (q.sched + fld w 23 0 + 1) }))

/-- IDLE_COUNT_END: the count has expired and issue resumes at PC + 1 (09 R243). Before that it does nothing. -/
def execIdleCountEnd (st : Fin 64) (s : State) : Answer :=
  let q := (s.stl st).seq
  .next (
    match q.idleTo with
    | some t => if s.issues st && t ≤ q.sched then s.modSeq st (fun q => { q with idleTo := none }) else s
    | none => s)

/-- A loop counter written, with its value at the start of the cc kept (09 R239, R242). -/
def Seq.setLoop (q : Seq) (i : Nat) (l : Loop) : Seq :=
  { q with loops := q.loops.set (fin 7 i) l, loopWas := some (i, q.loopStart i) }

/-- LOOP_SET: COUNT into the counter and its start count (09 R242). -/
def execLoopSet (st : Fin 64) (w : BitVec 96) (s : State) : Answer :=
  let n := fld w 23 0
  .next (
    if !s.issues st then s
    else if ctlExtra w [(26, 0)] then s.bundleFault st 0 fcReservedBit
    else if n = 0 then s.bundleFault st 0 fcLoop
    else s.modSeq st (fun q => q.setLoop (fld w 26 24) ⟨BitVec.ofNat 24 n, BitVec.ofNat 24 n⟩))

/-- LOOP_END: decrements and branches while the result is non-zero (09 R242). -/
def execLoopEnd (st : Fin 64) (w : BitVec 96) (s : State) : Answer :=
  let q := (s.stl st).seq
  let i := fld w 26 24
  let l := q.loopStart i
  .next (
    if !s.issues st then s
    else if ctlExtra w [(26, 24), (13, 0)] then s.bundleFault st 0 fcReservedBit
    else if l.cur = 0 then s.bundleFault st 0 fcLoop
    else s.modSeq st (fun q =>
      let q := q.setLoop i ⟨l.cur - 1, l.start⟩
      if l.cur - 1 ≠ 0 then { q with branch := some (BitVec.ofNat 14 (fld w 13 0)) } else q))

/-- JUMP: the next bundle is at TARGET (09 Table 9.5). -/
def execJump (st : Fin 64) (w : BitVec 96) (s : State) : Answer :=
  .next (
    if !s.issues st then s
    else if ctlExtra w [(13, 0)] then s.bundleFault st 0 fcReservedBit
    else s.modSeq st (fun q => { q with branch := some (BitVec.ofNat 14 (fld w 13 0)) }))

/-- The record of a step boundary in a global cycle (02 R55, 09 R244). -/
def Seq.stepRec (q : Seq) (id : Word) (glob : Nat) : StepRec :=
  { cyc := q.sched, glob := glob, id := id, tally := Vector.ofFn (fun i => BitVec.ofNat 24 (q.startOf i)), pc := q.pc,
    loops := Vector.ofFn (fun i : Fin 8 => q.loopStart i.val), keys := q.keys }

/-- The engine constants clear, a pending LDC is lost, TILE_VALID clears and the count of dynamic issues
starts again (07 R189, 06 R165, 10 R278). -/
def Stall.boundary (x : Stall) : Stall :=
  { x with
    le := { x.le with const := Vector.replicate 16 0 },
    ve := { x.ve with const := Vector.replicate 16 0 },
    ca := { x.ca with valid := false, live := 0 },
    he := { x.he with issues := 0 },
    ops := x.ops.filter (fun o => !o.isLdc),
    seq := { x.seq with steps := satAdd x.seq.steps 1 },
    hz := { x.hz with
      prev := x.hz.reads, reads := [], wrote := [], stepNo := x.hz.stepNo + 1,
      arrs := x.hz.arrs.filter (fun e => x.hz.stepNo ≤ e.step) } }

/-- A dynamic packet of a partition's own transfers. -/
def ownPkt (p : Fin 64) (d : DynPkt) : Bool :=
  d.part = p && !d.arr.sheaf && (match d.arr.via with | .plain => true | .fetch _ => true | _ => false)

/-- A transfer that a partition's Stalls have issued has not landed, as far as this module sees it (02 R56). -/
def State.transfersOpen (s : State) (p : Fin 64) : Bool :=
  s.flights.any (fun f => f.part = p) ||
  (s.part p).members.any (fun st => !(s.stl st).he.queue.isEmpty ||
    (s.stl st).pad.rx.any (fun a => match a.via with | .plain => true | .fetch _ => true | _ => false)) ||
  s.stalls.toList.any (fun x => x.rt.inq.toList.any (fun l => l.any (ownPkt p))) ||
  s.fab.hubq.toList.any (fun l => l.any (ownPkt p)) || s.fab.downq.toList.any (fun l => l.any (ownPkt p)) ||
  s.fab.fetches.toList.any (fun l => l.any (fun e => e.2.part = p)) ||
  s.sheaves.toList.any (fun h => h.txq.any (ownPkt p) || h.unacked.any (fun e => ownPkt p e.2))

/-- The detector at a step boundary: STEP_OPEN and STEP_SHORT (02 Table 2.2). The bundle of a boundary that a rerun issues
again closes no step. -/
def State.hzBoundary (s : State) (st : Fin 64) : State :=
  let x := s.stl st
  if !s.sys.dbgOn || x.seq.redo = some x.seq.sched then s
  else
    match s.owner st with
    | none => s
    | some p =>
      let opened := match x.seq.recs with | r :: _ => r.cyc | [] => 0
      let busy := x.ops.any (fun o => o.ag.slot ≠ 0) || x.ca.live ≠ 0
      let s := if s.transfersOpen p || busy then s.breach st 0x06 0 0 0 else s
      if x.seq.sched < opened + (s.part p).horizon + 1 then s.breach st 0x0A 0 0 0 else s

/-- STEP_MARK: a step boundary (09 R244, 02 R55). -/
def execStepMark (st : Fin 64) (w : BitVec 96) (s : State) : Answer :=
  let id := BitVec.ofNat 32 (fld w 31 0)
  .next (
    if !s.issues st then s
    else if ctlExtra w [(31, 0)] then s.bundleFault st 0 fcReservedBit
    else
      let s := s.hzBoundary st
      s.modStl st (fun x =>
        let r := x.seq.stepRec id s.cycle
        let x := x.boundary
        { x with seq := { x.seq with
          recs := (r :: x.seq.recs.filter (fun e => e.cyc ≠ r.cyc)).take 3, step := id, redo := none } }))

/-- EPOCH_SYNC: an activity forecast for the Power Processor (09 R245, 19 R558). -/
def execEpochSync (st : Fin 64) (w : BitVec 96) (s : State) : Answer :=
  .next (
    if !s.issues st then s
    else if ctlExtra w [(3, 0)] then s.bundleFault st 0 fcReservedBit
    else
      let a := BitVec.ofNat 4 (fld w 3 0)
      s.modStl st (fun x => { x with act := some (match x.act with | some b => if a < b then b else a | none => a) }))

/-- The 256-bit bundle of 8 words, word 0 lowest (09 R232). -/
def bundleOf (ws : List Word) : BitVec 256 := BitVec.ofNat 256 (bytesNat (wordsBytes ws))

/-- The four bundles of a row. -/
def rowBundles (r : Row) : List (BitVec 256) :=
  (List.range 4).map (fun j => bundleOf ((r.toList.drop (8 * j)).take 8))

/-- Words from word i of a row, and their mask. -/
def wordsAt (i : Nat) (ws : List Word) : Row × Word :=
  (Vector.ofFn (fun k : Fin 32 => if i ≤ k.val then ws.getD (k.val - i) 0 else 0),
    BitVec.ofNat 32 ((2 ^ ws.length - 1) * 2 ^ i))

/-- Four bundles of a store line (09 R250): the line becomes valid, its parity is that of the rows it came from. -/
def Seq.putLine (q : Seq) (line : Nat) (bs : List (BitVec 256)) (bad : List Nat) : Seq :=
  let store := bs.zipIdx.foldl (fun t (e : BitVec 256 × Nat) => Tab.set t (128 * line + e.2) e.1) q.store
  let one : BitVec 128 := (1 : BitVec 128) <<< line
  let old := q.storeBad.filter (fun w => w / 1024 ≠ line)
  { q with
    store := store, valid := q.valid ||| one, fromImg := q.fromImg &&& ~~~one,
    storeBad := bad.foldl (fun l w => insN (1024 * line + w) l) old }

/-- The wrong-parity words of a line that a PAGE reads in this cc; a row it is not served comes as zeros with right parity. -/
def Stall.lineBad (x : Stall) (row : Nat) : List Nat :=
  (List.range 32).flatMap (fun i =>
    match x.xl.check (row + i) .page false with
    | .error _ => []
    | .ok p => if x.pad.taken p then []
      else (x.pad.badPar.filter (fun w => w / 32 = p)).map (fun w => 32 * i + w % 32))

/-- One cycle of a PAGE: the line read in the cycle before enters the store, and the next one is read with permission P
(09 R250). -/
def State.pageCc (s : State) (st : Fin 64) (row line : Nat) (held : List (BitVec 256)) (bad : List Nat) (o : Op) : State × Op :=
  let s := if o.t = 0 then s else s.modSeq st (fun q => q.putLine (line + o.t - 1) held bad)
  if o.t < o.busy then
    let bad := (s.stl st).lineBad (row + 32 * o.t)
    let (s, rs) := s.readRows st o.ag .page [] (rowsFrom (row + 32 * o.t) 32)
    (s, o.next (.page row line (rs.flatMap rowBundles) bad))
  else (s, o.next (.page row line [] []))

/-- PAGE: copies scratchpad lines into store lines (09 R250). -/
def execPage (st : Fin 64) (w : BitVec 96) (s : State) : Answer :=
  let q := (s.stl st).seq
  let lsel := fld w 87 84
  let row := ctlRow (fld w 83 65) (fld w 45 33) (q.iter lsel)
  let store := fld w 64 51
  let n := fld w 50 46 + 1
  .next (
    if !s.issues st then s
    else
      match firstFault [(ctlExtra w [(87, 33)] || decide (8 < lsel), fcReservedBit),
          (outRange row (32 * n) || decide (16384 < store + 128 * n), fcAddrRange),
          (row % 32 ≠ 0 || store % 128 ≠ 0, fcAlign), ((s.stl st).busy 0, fcPageBusy)] with
      | some f => s.bundleFault st 0 f
      | none =>
        let ag : Agent := ⟨0, 7, 0, 0⟩
        s.startOp st (fun s o => s.pageCc st row.toNat (store / 128) [] [] o)
          { ag := ag, dst := ag, opc := 0x30, t := 0, busy := n, len := n + 1, work := .page row.toNat (store / 128) [] [] })

/-- One cycle of a compare-and-count or of an SCYC (04 R120, 09 Table 9.5): the count reaches its counter, or the words their
row, in the last one. -/
def State.ctlOpCc (s : State) (st : Fin 64) (o : Op) : State × Op :=
  if o.t + 1 ≠ o.len then (s, o.next o.work)
  else
    match o.work with
    | .count c n => (s.tallyUp st (ctrIx c) (fun t => { t with adds := t.adds + n }), o.next o.work)
    | .words row word ws =>
      let (r, m) := wordsAt word ws
      (s.writeRow st o.dst row r m, o.next o.work)
    | w => (s, o.next w)

/-- Every Stall of a partition has issued END. -/
def State.allEnded (s : State) (p : Fin 64) : Bool :=
  (s.part p).members.all (fun st => (s.stl st).seq.endedAt.isSome)

/-- END: closes the last step and ends the dispatch for this Stall. With the last Stall's END the dispatch is over: this cycle
is its end cycle (09 R246). -/
def execEndDispatch (st : Fin 64) (w : BitVec 96) (s : State) : Answer :=
  .next (
    if !s.issues st then s
    else if ctlExtra w [] then s.bundleFault st 0 fcReservedBit
    else
      let s := s.hzBoundary st
      let s := s.modStl st (fun x =>
        let x := x.boundary
        { x with seq := { x.seq with state := .ended, endedAt := some s.cycle, redo := none } })
      match s.running st with
      | some (p, _) => if s.allEnded p then s.modDisp p (fun d => { d with closing := true }) else s
      | none => s)

/-- The end of the cc in which the last END issued ends the dispatch, unless a fault stop has been decided by then, which ends
it at its own end cycle, or a step fault to be rerun is outstanding, which freezes the span (02 R60, R638, 09 R246, R253;
DEDUCED, log 48). -/
def State.closeCc (s : State) (p : Fin 64) : State :=
  match (s.part p).disp with
  | none => s
  | some d =>
    if !d.closing then s
    else if d.stop.isNone && d.faults.isEmpty then s.endDispatch p stOk
    else s.modDisp p (fun d => { d with closing := false })

end Sys2Proof.Machine
end

