-- ==== Sys2Proof/Machine/Words.lean ====
section
/-! DEFINITION. Registers as words, for replies, events and register reads: SYS.ID (01 Table 1.5), the link
registers (11 Table 11.10, R317), partition and span registers (18 Table 18.10, 12 Table 12.4). -/

namespace Sys2Proof.Machine

def SheafState.code : SheafState → Nat
  | .disabled => 0
  | .detect => 1
  | .train => 2
  | .lock => 3
  | .caps => 4
  | .active => 5
  | .failed => 6
  | .blind => 7

/-- SYS.ID.STEPPING: fixed at manufacture, and 2 or higher on a module that this manual describes (00 R1, 01 R29; log 5). -/
def stepping : Nat := 2 + Config.stepping.toNat % 14

/-- SYS.ID (01 Table 1.5). -/
def sysId : Word := pack [(0x0A08, 16), (stepping, 4), (Config.metal.toNat, 0)]

/-- LINK.NODE and LINK.TIMEBASE (11 R317). -/
def State.nodeWord (s : State) : Word := match s.link.node with | some n => pack [(1, 31), (n.toNat, 0)] | none => 0
def State.timebase (s : State) : Word :=
  let l := s.link
  pack [(b2n l.estab, 31), (b2n l.root, 30), (l.rootNode.toNat, 16), (l.dist.toNat, 8),
    ((match l.parent with | some n => n.val | none => 0), 0)]

/-- LINK.SHEAF_STATUS, SHEAF_LAT, SHEAF_FAR and SHEAF_EQ (11 Table 11.10). -/
def State.sheafStatus (s : State) (n : Fin 20) : Word :=
  let h := s.sheaf n
  pack [(h.state.code, 28), (h.fail.toNat, 24), (b2n h.latOk, 23), (b2n h.selfLoop, 22),
    (b2n (s.link.parent = some n), 21), (b2n h.foreign, 20), (b2n h.drift, 19), (h.lanes.toNat, 0)]
def Sheaf.latWord (h : Sheaf) : Word := pack [(h.schedCc.toNat, 20), (min h.holdCc 255, 12), (h.delay.toNat, 0)]
def Sheaf.farWord (h : Sheaf) : Word :=
  match h.far with
  | some (n, p, i) => pack [(1, 31), (n.toNat, 16), (p.toNat, 8), (i.toNat, 0)]
  | none => 0
def Sheaf.eqWord (h : Sheaf) : Word := h.eq[0] ++ h.eq[1] ++ h.eq[2] ++ h.eq[3]

/-- LINK.PORT_STATUS (11 R317). -/
def Port.status (x : Port) : Word := pack [(b2n x.enable, 31), (x.keep.toNat, 0)]

/-- PART.STATE and PART.HUB (18 Table 18.10). -/
def Part.stateWord (q : Part) (p : Nat) : Word := pack [(q.state.toNat, 30), (b2n q.depot, 28), (p, 0)]
def Part.hubWord (q : Part) : Word := pack [(q.hubBase, 16), (q.hubPages, 0)]

/-- PART.SPAN_ID, SPAN_RANK, SPAN_HOLD, SPAN_STATUS and SPAN_LOST (12 Table 12.4). -/
def Part.spanIdWord (q : Part) : Word := match q.span with | some i => pack [(1, 31), (i.toNat, 0)] | none => 0
def Part.rankWord (q : Part) : Word := pack [(q.sizeM1.toNat, 16), (q.rank.toNat, 0)]
def Part.holdWord (q : Part) : Word :=
  pack [(b2n q.isRoot, 31), (q.parent.toNat, 28), (q.kids.toNat, 16), (q.h, 0)]
def Part.spanStatus (q : Part) : Word := pack [(q.spanState.toNat, 29), (q.cause.toNat, 24), (q.origin.toNat, 0)]
def Part.lostWord (q : Part) : Word := match q.lost with | some n => pack [(1, 31), (n.toNat, 0)] | none => 0

/-- SERVE.REPRO_LAST as STEP_STATUS shows it (17 Table 17.8): of the running dispatch so far, or of the last. -/
def Part.reproNow (q : Part) : Word :=
  match q.disp with
  | none => q.repro
  | some d => pack [(b2n (q.choice = 0xFFFFFFFF), 8), (b2n (d.reruns ≠ 0), 6), (b2n (d.padOver ≠ 0), 5),
      (b2n d.hkMiss, 4), (b2n d.wasFrozen, 3), (b2n d.zskip, 2)]

/-- Dispatch queue entries in use: those not posted (17 R486, R488). -/
def Part.dqUsed (q : Part) : Nat := (q.queue.filter (fun w => w.start.isNone)).length

/-- A dispatch is running or queued. -/
def Part.dispatching (q : Part) : Bool := q.disp.isSome || !q.queue.isEmpty

/-- The partition is a head: rank 0 of its span, or of no span (17 R485). -/
def Part.head (q : Part) : Bool := q.span.isNone || q.rank = 0

end Sys2Proof.Machine
end

