-- ==== Sys2Proof/Machine/Hold.lean ====
section
/-! DEFINITION. The start and the end of a dispatch (02 R38, R638, 03 R88, 16 R453), freezes and reruns
(02 R47 to R64, R636), and the hold tree (12 R337 to R345). -/

namespace Sys2Proof.Machine

/-! The subtree count (12 R337). -/

/-- Sum of raises minus releases of the marks whose stamp a test picks. -/
def marksSum (pick : Nat → Bool) (l : List (Nat × Bool)) : Int :=
  (l.filter (fun m => pick m.1)).foldl (fun n m => if m.2 then n + 1 else n - 1) 0

/-- The stamps at which the count goes from 0 to more than 0 (true) or back to 0 (false), in order. -/
def transitions (l : List (Nat × Bool)) : List (Nat × Bool) :=
  let stamps := (l.map (·.1)).foldl (fun a s => insN s a) []
  stamps.filterMap (fun s =>
    let before := marksSum (fun t => decide (t < s)) l
    let after := marksSum (fun t => decide (t ≤ s)) l
    if before ≤ 0 ∧ 0 < after then some (s, true)
    else if 0 < before ∧ after ≤ 0 then some (s, false)
    else none)

/-- The transitions of a member not sent and due: their stamp plus `wait` has come. -/
def Part.dueMarks (q : Part) (wait cyc : Nat) : List (Nat × Bool) :=
  (transitions q.tree.marks).filter (fun t => decide (t.1 + wait ≤ cyc) && !q.tree.sent.contains t)

/-- The span has no parent to send to on this module: its root, or a span of one module. -/
def Part.top (q : Part) : Bool := q.isRoot || q.sizeM1 = 0

/-- HOLD_UPWARD_SEND: in cycle s + 24 + h(m) a member sends its subtree's transitions to its parent (12 R337). -/
def execHoldUpwardSend (p : Fin 64) (s : State) : Answer :=
  let q := s.part p
  .next (
    if q.top || q.spanState ≠ 2 then s
    else
      (q.dueMarks (24 + q.height) s.cycle).foldl (fun s t =>
        (s.sendPort (fin 7 q.parent.toNat) (if t.2 then 1 else 2) (holdArg q.span t.1)).modPart p (fun q =>
          { q with tree := { q.tree with sent := q.tree.sent ++ [t] } })) s)

/-- A span-level transition fixes a freeze or its end (12 R339). -/
def HoldTree.freeze (t : HoldTree) (e : Nat × Bool) : HoldTree :=
  if e.2 then { t with freezes := t.freezes ++ [(e.1, none)] }
  else
    let rec close : List (Nat × Option Nat) → List (Nat × Option Nat)
      | [] => []
      | (a, none) :: l => (a, some e.1) :: l
      | (a, some b) :: l => (a, some b) :: close l
    { t with freezes := close t.freezes }

/-- A downward symbol on the child ports, and its effect here. -/
def State.downSymbol (s : State) (p : Fin 64) (e : Nat × Bool) : State :=
  let q := s.part p
  let s := q.childPorts.foldl (fun s k => s.sendPort k (if e.2 then 1 else 2) (holdArg q.span e.1)) s
  s.modPart p (fun q => if q.disp.isSome then { q with tree := q.tree.freeze e } else q)

/-- HOLD_DOWNWARD_SEND: in cycle s + 24 + Dmax the root sends the span's transitions down (12 R338). -/
def execHoldDownwardSend (p : Fin 64) (s : State) : Answer :=
  let q := s.part p
  .next (
    if !q.top then s
    else
      (q.dueMarks (24 + q.height) s.cycle).foldl (fun s t =>
        let s := s.modPart p (fun q => { q with tree := { q.tree with sent := q.tree.sent ++ [t] } })
        s.downSymbol p t) s)

/-! Freezes. -/

/-- A freeze in force in a cycle: begun, and not released long enough ago (02 R47, R48). -/
def freezeNow (h cyc : Nat) (e : Nat × Option Nat) : Bool :=
  decide (e.1 + h ≤ cyc) && (match e.2 with | some r => decide (cyc < r + h) | none => true)

/-- The fault stop's end cycle has come. -/
def Dispatch.stopDue (d : Dispatch) (cyc : Nat) : Bool :=
  match d.stop with | some x => decide (x.endAt ≤ cyc) | none => false

/-- FREEZE_START: the first frozen cycle of the span (02 R47, R49, 12 R339). -/
def execFreezeStart (p : Fin 64) (s : State) : Answer :=
  let q := s.part p
  .next (
    match q.disp with
    | none => s
    | some d =>
      if d.frozen || d.stopDue s.cycle || !(q.tree.freezes.any (freezeNow q.horizon s.cycle)) then s
      else s.modDisp p (fun d => { d with frozen := true, wasFrozen := true, freezePs := 0 }))

/-- No freeze is in force, and every one begun has been released. -/
def Part.thawed (q : Part) (cyc : Nat) : Bool := !(q.tree.freezes.any (freezeNow q.horizon cyc))

/-- Freezes that have ended are forgotten. -/
def Part.dropFreezes (q : Part) (cyc : Nat) : Part :=
  let keep (e : Nat × Option Nat) : Bool := match e.2 with | some r => decide (cyc < r + q.horizon) | none => true
  { q with tree := { q.tree with freezes := q.tree.freezes.filter keep } }

/-- RAISED_HOLD_RELEASE: raised Holds whose condition holds at the start of this cycle are released; a
consuming wait subtracts its threshold (02 R48, 09 R240). -/
def execRaisedHoldRelease (st : Fin 64) (s : State) : Answer :=
  .next (
    match s.running st with
    | none => s
    | some (p, _) =>
      let q := (s.stl st).seq
      let ready (h : RaisedHold) : Bool := h.released.isNone && decide (h.raised < s.cycle) &&
        (match h.wait with
         | some (c, thr, _) => decide (thr.toNat ≤ q.startOf (ctrIx c))
         | none => false)
      (q.holds.filter ready).foldl (fun s h =>
        let s := s.modSeq st (fun q => { q with holds := releaseHold (fun x => x = h) s.cycle q.holds })
        let s := s.mark p s.cycle false
        match h.wait with
        | some (c, thr, consume) =>
          let s := s.hzWait st (ctrIx c) thr.toNat h.sched
          if consume then s.tallyUp st (ctrIx c) (fun t => { t with subs := t.subs + thr.toNat }) else s
        | none => s) s)

/-- FREEZE_END: the span's freeze has ended and issue resumes; once a step fault's own freeze has begun, the rerun follows
instead (02 R48, R49, R64). -/
def execFreezeEnd (p : Fin 64) (s : State) : Answer :=
  let q := s.part p
  .next (
    match q.disp with
    | none => s
    | some d =>
      if !d.frozen || d.cut || !q.thawed s.cycle then s
      else (s.modDisp p (fun d => { d with frozen := false, freezePs := 0 })).modPart p (fun q => q.dropFreezes s.cycle))

/-- HOLD_TIMEOUT: the freeze has lasted longer than HOLD_TIMEOUT (02 R54). -/
def execHoldTimeout (p : Fin 64) (s : State) : Answer :=
  let q := s.part p
  .next (
    match q.disp, q.image with
    | some d, some i =>
      if !d.frozen || decide (d.freezePs ≤ i.timeout * 30517579) || d.stopDue s.cycle then s
      else
        (s.raise 0x2001 (some p) true ((q.span.getD 0).setWidth 32) (BitVec.ofNat 32 i.timeout)).endDispatch p stTimeout
    | _, _ => s)

/-- SQ_STEP of the partition's lowest Stall. -/
def State.stepId (s : State) (p : Fin 64) : Word :=
  match (s.part p).members with
  | st :: _ => (s.stl st).seq.step
  | [] => 0

/-- FAULT_STOP_END: the end cycle of the fault stop that governs (02 R638); one that is a step fault raises
0x2005 (02 R64). -/
def execFaultStopEnd (p : Fin 64) (s : State) : Answer :=
  .next (
    match (s.part p).disp with
    | none => s
    | some d =>
      match d.stop with
      | none => s
      | some x =>
        if s.cycle < x.endAt then s
        else
          let s := if x.rank = 5 then s.raise 0x2005 (some p) true (s.stepId p) (x.status.setWidth 32) else s
          s.endDispatch p x.status)

/-- A Stall set back to a boundary: its records, its control state and its idle engines (02 R61, R636, 09 R244). -/
def Stall.restore (x : Stall) (r : StepRec) : Stall :=
  let seq := { x.seq with
    state := .issuing, pc := r.pc, branch := none, issued := false, past := false, endedAt := none, loopWas := none,
    idleTo := none, loops := r.loops, keys := r.keys, tally := r.tally, ccs := [], holds := [],
    recs := x.seq.recs.filter (fun e => e.cyc ≤ r.cyc), redo := some r.cyc, sched := r.cyc }
  { x with
    seq := seq, ca := { x.ca with valid := false, live := 0, guarded := none },
    le := { x.le with const := Vector.replicate 16 0 }, ve := { x.ve with const := Vector.replicate 16 0 },
    he := { x.he with issues := 0 },
    hz := { x.hz with arrs := [], reads := [], prev := [], wrote := [] } }

/-- How often each step has been rerun, with one more rerun of the step opened at a boundary. -/
def countRerun (cyc : Nat) : List (Nat × Nat) → List (Nat × Nat)
  | [] => [(cyc, 1)]
  | (a, n) :: l => if a = cyc then (a, n + 1) :: l else (a, n) :: countRerun cyc l

/-- The step fault that governs a rerun: the one of the smallest f (12 R340). -/
def Dispatch.governing (d : Dispatch) : Option StepFault :=
  d.faults.foldl (fun g e => match g with | some x => if e.f < x.f then some e else some x | none => some e) none

/-- The refetches that the outstanding step faults wait for have landed: on this member each is known, on another the
release of the span's freeze says so (02 R62, 04 R129, 12 R339). -/
def Part.cured (q : Part) (d : Dispatch) (cyc : Nat) : Bool :=
  d.faults.all (fun g => g.far || (match g.landed with | some v => decide (v ≤ cyc) | none => false)) &&
  (!(d.faults.any (fun g => g.far)) ||
    q.tree.freezes.all (fun e => match e.2 with | some r => decide (r ≤ cyc) | none => false))

/-- The first frozen cycle of a step fault to be rerun: operations in progress are abandoned on every Stall (02 R636). -/
def State.cutOps (s : State) (p : Fin 64) : State :=
  let q := s.part p
  match q.disp with
  | none => s
  | some d =>
    if d.cut || !(d.frozen && d.faults.any (fun g => decide (g.f + q.horizon ≤ s.cycle))) then s
    else q.members.foldl (fun s st => s.modStl st Stall.abandon) (s.modDisp p (fun d => { d with cut := true }))

/-- The records of the boundary are restored in the first frozen cycle at whose start every refetch has landed (02 R61, 04
R129, Table 4.10, 10 R637). Every step that the rerun repeats counts (02 R63). -/
def State.restoreStep (s : State) (p : Fin 64) : State :=
  let q := s.part p
  match q.disp with
  | none => s
  | some d =>
    match d.governing with
    | none => s
    | some g =>
      if !d.cut || d.restored || !q.cured d s.cycle then s
      else
        let pick (st : Fin 64) : Option StepRec := restoreRec q.horizon g.f (s.stl st).seq.recs
        match q.members.head?.bind pick with
        | none => s
        | some r =>
          let again := d.faults.foldl (fun l g => (s.rerunSteps p g.f).foldl (fun l c => insN c l) l) []
          let s := s.dropFlights p
          let s := q.members.foldl (fun s st =>
            match pick st with
            | some r => s.modStl st (fun x => x.restore r)
            | none => s) s
          s.modDisp p (fun d => { d with
            restored := true, sched := r.cyc, rerunOf := again.foldl (fun l c => countRerun c l) d.rerunOf })

/-- STEP_RERUN: the fault's freeze has ended and issue resumes at the restored boundary (02 R61, R64, 04 R129). -/
def execStepRerun (p : Fin 64) (s : State) : Answer :=
  let q := s.part p
  .next (
    match q.disp with
    | none => s
    | some d =>
      match d.governing, q.members.head?.bind (fun st => (s.stl st).seq.recs.head?) with
      | some g, some r =>
        if !d.restored || !q.thawed s.cycle then s
        else
          let s := (s.modDisp p (fun d =>
            { d with frozen := false, freezePs := 0, faults := [], cut := false, restored := false,
                     reruns := d.reruns + 1 })).modPart p (fun q => q.dropFreezes s.cycle)
          let (w, s) := if g.far then s.draw else (stallArg g.stall, s)
          (s.count p 12 1).raise 0x2004 (some p) true r.id w
      | _, _ => s)

/-! The start of a dispatch. -/

/-- A Stall at the start cycle (08 R634, 09 R248, 13 R368, 02 R55). Operations of the dispatch before it that are still in
progress go on (09 R246). -/
def Stall.start (x : Stall) (pc : BitVec 14) (cyc : Nat) : Stall :=
  let seq := { x.seq with
    state := .issuing, pc := pc, branch := none, issued := false, past := false, endedAt := none, loopWas := none,
    idleTo := none, loops := Vector.replicate 8 ⟨0, 0⟩, holds := [], recs := [], redo := none,
    sched := 0, fault := { x.seq.fault with valid := false, more := 0 } }
  let x := { x with
    seq := seq, power := .s0, ca := { x.ca with guarded := none },
    xl := { x.xl with xf := { x.xl.xf with valid := false, more := 0 } },
    hz := { x.hz with cap := { x.hz.cap with valid := false, more := 0 }, arrs := [], reads := [], prev := [],
                      wrote := [], stepNo := 0 },
    tk := { x.tk with cursor := 0, past := false, active := [], done := [] } }
  let r := x.seq.stepRec x.seq.step cyc
  let x := x.boundary
  { x with seq := { x.seq with recs := [r] } }

/-- DISPATCH_START: the head of the queue starts in its start cycle T (02 R38, 03 R88, 13 R373, 09 R248). -/
def execDispatchStart (p : Fin 64) (s : State) : Answer :=
  let q := s.part p
  .next (
    match q.disp, q.queue, q.image with
    | none, w :: l, some i =>
      match w.start with
      | none => s
      | some t =>
        if s.cycle < t then s
        else
          let (pc, len) := i.entries.getD w.entry (0, 0)
          let d : Dispatch :=
            { pkt := w.pkt, entry := w.entry, length := len, start := s.cycle, sched := 0, frozen := false,
              wasFrozen := false, zskip := false, reruns := 0, rerunOf := [], padOver := 0, hkMiss := false,
              freezePs := 0, stop := none, faults := [], cut := false, restored := false, closing := false }
          let s := s.rewriteLines p
          let s := s.modPart p (fun q =>
            { q with disp := some d, queue := l, choice := q.pendChoice, pendChoice := 0, hkMiss := 0,
                     winTold := false, tree := ⟨[], [], []⟩ })
          q.members.foldl (fun s st => s.modStl st (fun x => x.start (BitVec.ofNat 14 pc) s.cycle)) s
    | _, _, _ => s)

/-- A dynamic packet of kind 2 of a partition is on its way to the hub. -/
def hubBound (p : Fin 64) (d : DynPkt) : Bool := d.kind = 2 && d.part = p

/-- Some hub-bound row of a partition has not taken effect (16 R453, R467). -/
def State.hubPending (s : State) (p : Fin 64) : Bool :=
  s.stalls.toList.any (fun x => x.he.queue.any (fun t => t.pkts.any (hubBound p)) ||
    x.rt.inq.toList.any (fun l => l.any (hubBound p))) ||
  s.fab.hubq.toList.any (fun l => l.any (hubBound p))

/-- A HALT completes after the replies of every dispatch that it ended (17 R495). -/
def State.haltDone (s : State) (p : Fin 64) : State :=
  let q := s.part p
  match q.halt with
  | none => s
  | some (k, n) =>
    if (n % 2 = 1 && q.disp.isSome) || !q.ended.isEmpty then s
    else
      (s.modPart p (fun q => { q with halt := none })).reply 0x23 k stOk
        [BitVec.ofNat 32 (n / 8 % 8), BitVec.ofNat 32 (n % 2)]

/-- DISPATCH_REPLY: once the partition's hub-bound rows have taken effect, the oldest reply of an ended
dispatch is written (16 R453, 17 R489, R490), and after the last one that of a HALT that waits for them. -/
def execDispatchReply (p : Fin 64) (s : State) : Answer :=
  let q := s.part p
  .next (
    match q.ended with
    | [] => s
    | e :: l =>
      if s.hubPending p then s
      else ((s.modPart p (fun q => { q with ended := l })).reply 0x22 e.pkt e.status e.words).haltDone p)

/-! Hold-class symbols (12 R339 to R345). -/

/-- The count nearest this module's own that has the given 14 low bits (11 R305). -/
def nearest (cyc : Nat) (low : Nat) : Nat :=
  let base := cyc / 16384 * 16384 + low
  if base + 8192 ≤ cyc then base + 16384
  else if cyc + 8192 < base ∧ 16384 ≤ base then base - 16384 else base

/-- The partition of a span on this module. -/
def State.spanPart (s : State) (span : BitVec 12) : Option (Fin 64) :=
  (List.finRange 64).find? (fun p => (s.part p).span = some span && decide (2 ≤ (s.part p).spanState.toNat))

/-- A Hold-class symbol is taken on an ACTIVE sheaf once; identical copies within 100 ns are discarded (11 R305). -/
def State.hearSymbol (s : State) (n : Fin 20) (fsym : BitVec 4) (arg : BitVec 26) : Option State :=
  let k := sheafPort n
  let h := (s.port k).heard.filter (fun e => decide (s.now < e.2.2 + 100000))
  if (s.sheaf n).state ≠ .active || h.any (fun e => e.1 = fsym && e.2.1 = arg) then none
  else some (s.modPort k (fun x => { x with heard := h ++ [(fsym, arg, s.now)] }))

/-- The span faults on the member that detects it in cycle x, with a cause of Table 12.3 (12 R345, R347). -/
def State.spanFault (s : State) (p : Fin 64) (cause : BitVec 4) (x : Nat) : State :=
  let q := s.part p
  if q.spanState ≠ 2 then s
  else
    let s := s.modPart p (fun q => { q with spanState := 3, cause := cause, origin := q.rank })
    let s := s.raise 0x4002 (some p) true (s.part p).spanStatus ((q.span.getD 0).setWidth 32)
    let s := match q.disp with
      | some _ => s.stopHere p x 6 stSpanFault
      | none => (s.failQueue p stSpanFault).serveFault p stSpanFault
    s.flood p none 4 x

/-- A Hold-class symbol came too late to be acted on (12 R341). -/
def State.holdLate (s : State) (p : Fin 64) (stamp : Nat) : State :=
  (s.raise 0x4004 (some p) true (((s.part p).span.getD 0).setWidth 32) (BitVec.ofNat 32 stamp)).spanFault p 3 s.cycle

/-- HOLD_RAISE or HOLD_RELEASE received: merged upward from a child, in force and forwarded from the parent. -/
def State.holdSymbol (s : State) (n : Fin 20) (up : Bool) (arg : BitVec 26) : State :=
  match s.hearSymbol n (if up then 1 else 2) arg with
  | none => s
  | some s =>
    match s.spanPart (BitVec.ofNat 12 (fld arg 25 14)) with
    | none => s
    | some p =>
      let q := s.part p
      let t := nearest s.cycle (fld arg 13 0)
      let k := sheafPort n
      if q.childPorts.contains k then
        let s := if q.disp.isSome then s.mark p t up else s
        if t + 24 + q.height < s.cycle then s.holdLate p t else s
      else if !q.isRoot && k.val = q.parent.toNat then
        let s := s.downSymbol p (t, up)
        if t + q.horizon < s.cycle then s.holdLate p t else s
      else s

/-- HOLD_RAISE (12 R337, R339). -/
def execHoldRaise (n : Fin 20) (arg : BitVec 26) (s : State) : Answer := .next (s.holdSymbol n true arg)

/-- HOLD_RELEASE (12 R337, R339). -/
def execHoldRelease (n : Fin 20) (arg : BitVec 26) (s : State) : Answer := .next (s.holdSymbol n false arg)

/-- STEP_FAULT: forwarded on every other tree port; the smallest fault cycle governs the rerun (12 R340). -/
def execStepFault (n : Fin 20) (arg : BitVec 26) (s : State) : Answer :=
  .next (
    match s.hearSymbol n 3 arg with
    | none => s
    | some s =>
      match s.spanPart (BitVec.ofNat 12 (fld arg 25 14)) with
      | none => s
      | some p =>
        let q := s.part p
        let k := sheafPort n
        if !q.treePorts.contains k then s
        else
          let f := nearest s.cycle (fld arg 13 0)
          let s := s.flood p (some k) 3 f
          match q.disp with
          | none => s
          | some d =>
            if d.faults.any (fun g => g.f = f && g.far) then s
            else if s.canRerun p d f then s.addFault p ⟨f, 0, 0, true, none⟩
            else s.stopAt p f 5 stPoisoned)

/-- SPAN_END: forwarded on every other tree port; the dispatch ends at its stamp plus HORIZON (12 R340). The
symbol carries neither the cause nor the originating rank: both are free values, the cause one that R342
gives (log 22). With no dispatch running it takes back the posted one, on a member that is not the head (log 55). -/
def execSpanEnd (n : Fin 20) (arg : BitVec 26) (s : State) : Answer :=
  .next (
    match s.hearSymbol n 4 arg with
    | none => s
    | some s =>
      match s.spanPart (BitVec.ofNat 12 (fld arg 25 14)) with
      | none => s
      | some p =>
        let q := s.part p
        let k := sheafPort n
        if !q.treePorts.contains k then s
        else
          let x := nearest s.cycle (fld arg 13 0)
          let s := s.flood p (some k) 4 x
          let (w, s) := s.draw
          let cause := w.toNat % 6
          let first := q.stopsFirst x
          let s := if q.spanState = 2 && first then s.modPart p (fun q => { q with origin := BitVec.ofNat 13 (w.toNat / 8) }) else s
          if cause = 0 && q.disp.isNone && !q.head then s.modPart p (fun q => { q with queue := [] })
          else if cause = 0 then s.stopHere p x 6 stFaulted
          else if q.spanState ≠ 2 then s.stopHere p x 6 stSpanFault
          else
            let s := s.modPart p (fun q => { q with spanState := 3, cause := BitVec.ofNat 4 cause })
            let s := s.raise 0x4002 (some p) true (s.part p).spanStatus ((q.span.getD 0).setWidth 32)
            match q.disp with
            | some _ => s.stopHere p x 6 stSpanFault
            | none => (s.failQueue p stSpanFault).serveFault p stSpanFault)

end Sys2Proof.Machine
end

