-- ==== Sys2Proof/Machine/Packets.lean ====
section
/-! DEFINITION. Command rings (17 R470 to R477) and the common checks of a packet (17 R480 to R485), with the
commands that only read or that steer dispatches: PING, QUERY_INFO, DISPATCH, HALT, STEP_STATUS, LINK_STATUS. -/

namespace Sys2Proof.Machine

/-! Rings. -/

def pow2In (n lo hi : Nat) : Bool := decide (lo ≤ n) && decide (n ≤ hi) && n = 2 ^ n.log2

/-- The setup meets 17 R471: both bases multiples of 4 KiB, both sizes powers of 2 from 16 to 4,096. -/
def Func.setupOk (f : Func) : Bool :=
  f.cbase.toNat % 4096 = 0 && f.rbase.toNat % 4096 = 0 && pow2In f.csize.toNat 16 4096 && pow2In f.rsize.toNat 16 4096

/-- A function's CTL fields other than ENABLE. -/
def Func.ctl (f : Func) (v : Word) : Func := { f with irq := bit v 30, vec := BitVec.ofNat 5 (fld v 4 0) }

/-- CTL written with ENABLE from 0 to 1 (17 R471, R472); RUNNING is set from stage READY on (20 R608). -/
def State.enableRing (s : State) (f : Fin 65) (v : Word) : State :=
  let x := (s.func f).ctl v
  if x.setupOk then
    s.setFunc f { x with enable := true, running := s.sys.stage = 7, head := 0, tail := 0, rhead := 0, rtail := 0 }
  else s.setFunc f { x with enable := true, error := true, errNew := true, errCode := 1 }

/-- CTL written with ENABLE 0: RUNNING clears when nothing is in flight (17 R476). -/
def State.disableRing (s : State) (f : Fin 65) (v : Word) : State :=
  let x := (s.func f).ctl v
  s.setFunc f { x with enable := false, running := x.running && decide (0 < x.infl) }

/-- A write of CMDQ.CTL; written while ENABLE is 1 and stays 1, only IRQ_EN and VECTOR change. -/
def State.putCtl (s : State) (f : Fin 65) (v : Word) : State :=
  if !bit v 31 then s.disableRing f v
  else if (s.func f).enable then s.setFunc f ((s.func f).ctl v)
  else s.enableRing f v

/-- DOORBELL: TAIL, or ERR_CODE 2 for a value at or above CRING_SIZE (17 R473). -/
def State.putDoorbell (s : State) (f : Fin 65) (v : Word) : State :=
  let x := s.func f
  let t := fld v 11 0
  if x.csize.toNat ≤ t then s.setFunc f { x with error := true, errNew := true, errCode := 2 }
  else s.setFunc f { x with tail := BitVec.ofNat 12 t }

/-- CMDQ_ENABLE: a write of CTL with ENABLE 1 while it is 0; a write of another kind is not this command. -/
def execCmdqEnable (f : Fin 65) (v : Word) (s : State) : Answer :=
  .next (if bit v 31 && !(s.func f).enable then s.viaMatrix (.host f) 0x1018 (some v) (State.enableRing · f v) else s)

/-- CMDQ_DISABLE: a write of CTL with ENABLE 0; a write of another kind is not this command. -/
def execCmdqDisable (f : Fin 65) (v : Word) (s : State) : Answer :=
  .next (if bit v 31 then s else s.viaMatrix (.host f) 0x1018 (some v) (State.disableRing · f v))

/-- DOORBELL (17 R473). -/
def execDoorbell (f : Fin 65) (v : Word) (s : State) : Answer :=
  .next (s.viaMatrix (.host f) 0x1020 (some v) (State.putDoorbell · f v))

/-- Replies written and not consumed. -/
def Func.unread (x : Func) : Nat := (x.rtail.toNat + x.rsize.toNat - x.rhead.toNat) % max 1 x.rsize.toNat

/-- The MP may read the packet at HEAD (17 R474). -/
def Func.readable (x : Func) : Bool :=
  x.enable && x.running && x.head ≠ x.tail && decide (x.infl + x.unread + 1 < x.rsize.toNat)

/-- The command packet of 64 bytes that a function's ring holds at HEAD (17 Table 17.2). -/
def State.packetAt (s : State) (f : Fin 65) : Byte × Packet :=
  let x := s.func f
  let a := x.cbase.toNat + 64 * x.head.toNat
  let w := s.host.word a
  (BitVec.ofNat 8 (fld w 31 24),
   { fn := f, low := w.setWidth 24, tag := s.host.word (a + 4), idx := x.head,
     words := Vector.ofFn (fun i : Fin 14 => s.host.word (a + 8 + 4 * i.val)) })

/-- The opcodes of 17 Table 17.6. -/
def opcodes : List Byte :=
  [0x01, 0x02, 0x10, 0x11, 0x13, 0x14, 0x20, 0x21, 0x22, 0x23, 0x24] ++
  [0x30, 0x31, 0x32, 0x33, 0x34, 0x40, 0x41, 0x50, 0x51, 0x52, 0x60, 0x61, 0x70, 0x71, 0x7F]

/-- Class I: a command of it completes before the next packet is read (17 R481, Table 17.4). -/
def classI (opc : Byte) : Bool := [(0x01 : Byte), 0x02, 0x24, 0x52, 0x70].contains opc

/-- PACKET_READ: the packet at HEAD is read and accepted, in ring order; one of class I is completed before the
next is read (17 R474, R477, R481). A reserved opcode completes at once with BAD_OPCODE (R479, R484). -/
def execPacketRead (f : Fin 65) (fail : Bool) (s : State) : Answer :=
  let x := s.func f
  .next (
    if !x.readable || x.accepted.any (fun a => classI a.1) || decide (2 ≤ s.pwr.mstate.toNat) then s
    else if fail || !s.pcieUp then
      s.setFunc f { x with error := true, errNew := true, errCode := 3, enable := false, running := x.running && decide (0 < x.infl) }
    else
      let (opc, k) := s.packetAt f
      let s := match partOfFn f with
        | some p => s.count p 6 64
        | none => s
      let s := s.setFunc f { x with head := ringNext x.head x.csize.toNat, infl := x.infl + 1 }
      if opcodes.contains opc then s.modFunc f (fun x => { x with accepted := x.accepted ++ [(opc, k)] })
      else s.reply opc k stBadOpcode [])

/-! The checks that every command shares (17 R480, R482, R484, R485). -/

end Sys2Proof.Machine

namespace Sys2Proof

open Sys2Proof.Machine

def Packet.d (k : Packet) (i : Nat) : Nat := (dword (k.w i) (k.w (i + 1))).toNat

/-- The packet came in a tenant view. -/
def Packet.tenant (k : Packet) : Bool := k.fn.val ≠ 0

/-- The partition that the command acts on (17 R480). -/
def Packet.part (k : Packet) : Fin 64 := match partOfFn k.fn with | some p => p | none => fin 63 (fld k.low 5 0)

/-- A reserved bit of word 0 or of a parameter word is set; `masks` gives the bits that words use, from 0x08 on. -/
def Packet.reserved (k : Packet) (masks : List Word) : Bool :=
  (if k.tenant then k.low ≠ 0 else fld k.low 23 6 ≠ 0) ||
  (List.range 14).any (fun i => extra (k.w i) (masks.getD i 0))

end Sys2Proof

namespace Sys2Proof.Machine

/-- A partition that a command may act on (18 R506). -/
def Part.exists' (q : Part) : Bool := decide (2 ≤ q.state.toNat)

/-- What Table 17.6 says of an opcode: T may issue it, its ring is that of a head, it acts on a partition. -/
structure Rule where
  tenant : Bool
  head   : Bool
  acts   : Bool
deriving DecidableEq, Repr

/-- The first check of 17 R484 and R480 that fails (log 60). -/
def State.refuse (s : State) (k : Packet) (r : Rule) (masks : List Word) : Option Byte :=
  let q := s.part k.part
  if k.tenant && !r.tenant then some stDenied
  else if r.head && q.exists' && !q.head then some stDenied
  else if r.acts && !q.exists' then some stBadParam
  else if k.reserved masks then some stBadParam
  else none

/-- The packet is no longer waiting to be started. -/
def State.begin (s : State) (opc : Byte) (k : Packet) : State :=
  s.modFunc k.fn (fun x => { x with accepted := x.accepted.erase (opc, k) })

/-- Commands start in ring order: a packet that has been read starts once those read before it have (17 R481). -/
def State.onTurn (s : State) (opc : Byte) (k : Packet) : Bool :=
  let l := (s.func k.fn).accepted
  !l.contains (opc, k) || l.head? = some (opc, k)

/-- A command: its checks, then its effect. Before its turn it does nothing. -/
def State.command (s : State) (opc : Byte) (k : Packet) (r : Rule) (masks : List Word) (f : State → State) : State :=
  if !s.onTurn opc k then s else
  let s := s.begin opc k
  match s.refuse k r masks with
  | some st => s.fail opc k st
  | none => f s

/-- The first failing check of a list gives the status. -/
def firstStatus : List (Bool × Byte) → Option Byte
  | [] => none
  | (b, c) :: l => if b then some c else firstStatus l

def anyRing : Rule := ⟨true, false, false⟩
def anyMember : Rule := ⟨true, false, true⟩
def headRing : Rule := ⟨true, true, true⟩
def operator : Rule := ⟨false, false, false⟩
def operatorPart : Rule := ⟨false, false, true⟩

/-- PING: returns VALUE and SYS.FWVER (17 R493). -/
def execPing (k : Packet) (s : State) : Answer :=
  .next (s.command 0x01 k anyRing [0xFFFFFFFF] (fun s => s.reply 0x01 k stOk [k.w 0, s.sys.fwver]))

/-- QUERY_INFO (17 Table 17.8). Page 1 on the operator's ring names an existing partition. -/
def execQueryInfo (k : Packet) (s : State) : Answer :=
  let q := s.part k.part
  let st := s.sys.stallOk
  .next (s.command 0x02 k anyRing [0xFF] (fun s =>
    match (k.w 0).toNat with
    | 0 =>
      if k.tenant then s.reply 0x02 k stOk [sysId, s.sys.fwver]
      else s.reply 0x02 k stOk [sysId, s.sys.fwver, s.nodeWord, BitVec.ofNat 32 s.gran.freeMib, loW st, hiW st]
    | 1 =>
      if !k.tenant && !q.exists' then s.fail 0x02 k stBadParam
      else
        let ctx : Bool := match q.ctx with | some c => decide (c.state = 1) | none => false
        s.reply 0x02 k stOk [loW q.stalls, hiW q.stalls, q.spanIdWord, q.rankWord, q.spanStatus,
          pack [(b2n q.image.isSome, 31), (b2n ctx, 30), (b2n q.disp.isSome, 19), (q.dqUsed, 16)]]
    | _ => s.fail 0x02 k stBadParam))

/-- STEP_STATUS (17 Table 17.8). -/
def execStepStatus (k : Packet) (s : State) : Answer :=
  let q := s.part k.part
  .next (s.command 0x24 k anyMember [] (fun s =>
    let st := if q.disp.isSome then 1 else if q.lastStat.isSome then 2 else 0
    let (re, pad) := match q.disp with
      | some d => (min d.reruns 0xFFFF, d.padOver)
      | none => (q.lastRuns.1.toNat, q.lastRuns.2.toNat)
    let sched := match q.members with | st :: _ => (s.stl st).seq.sched | [] => 0
    s.reply 0x24 k stOk
      [pack [(st, 30), (q.dqUsed, 27), ((q.lastStat.getD 0).toNat, 0)], q.choice, q.reproNow,
       s.stepId k.part, pack [(re, 16), (pad, 0)], BitVec.ofNat 32 sched]))

/-- LINK_STATUS (17 Table 17.8). -/
def execLinkStatus (k : Packet) (s : State) : Answer :=
  let n := fld (k.w 0) 4 0
  let i := fin 19 n
  let h := s.sheaf i
  .next (s.command 0x52 k operator [0x1F] (fun s =>
    if 19 < n then s.fail 0x52 k stBadParam
    else s.reply 0x52 k stOk [s.sheafStatus i, h.latWord, h.farWord, h.eqWord, (s.port (sheafPort i)).status, s.timebase]))

/-! Dispatches. -/

/-- A job of class P that keeps DISPATCH away (17 R487): IMAGE_LOAD, SPAN_JOIN, SPAN_LEAVE, PART_DESTROY. -/
def Part.loading (q : Part) : Bool := match q.job with
  | some j => [(0x20 : Byte), 0x13, 0x14, 0x11].contains j.opc
  | none => false

/-- The start cycle of a post made in cycle x with nothing ahead: x + 1,024 on one module (17 R488); on several
the first epoch boundary at or after x + 131,072 (12 R334). -/
def Part.startFrom (q : Part) (x : Nat) : Nat :=
  if q.sizeM1 = 0 then x + 1024 else ceilDiv (x + 131072) 65536 * 65536

/-- Stalls of a partition in S2 or S3 begin their wake (19 R541, R543): their times in ps. -/
def State.wakeStalls (s : State) (p : Fin 64) : State :=
  (s.part p).members.foldl (fun s st => s.modStl st (fun x =>
    match x.power, x.wake with
    | .s2, none => { x with wake := some (s.now + 5000000) }
    | .s3, none => { x with wake := some (s.now + 20000000) }
    | _, _ => x)) s

/-- The partition's Stalls have reached S1. -/
def State.awake (s : State) (p : Fin 64) : Bool := (s.part p).members.all (fun st =>
  let x := s.stl st
  x.power = .s0 || x.power = .s1)

/-- The head of an idle partition's queue is posted: with Stalls asleep once they are awake, and not while a swap holds
posts back (17 R488, 19 R543, 15 R436). -/
def State.postHead (s : State) (p : Fin 64) : State :=
  let q := s.part p
  match q.disp, q.queue with
  | none, w :: l =>
    if w.start.isSome || q.holdsPost || !(s.awake p || q.sizeM1 ≠ 0) then s
    else
      let w := { w with start := some (q.startFrom s.cycle) }
      (s.modPart p (fun q => { q with queue := w :: l })).tellPost p w
  | _, _ => s

/-- DISPATCH: posted at once on an idle partition, else queued (17 R486 to R488, 12 R333, R334, 15 R436). On one
module with Stalls in S2 or S3 it is posted when they are awake (19 R543). -/
def execDispatch (k : Packet) (s : State) : Answer :=
  let p := k.part
  .next (s.command 0x22 k headRing [0xF] (fun s =>
    let q := s.part p
    let entry := fld (k.w 0) 3 0
    let n := match q.image with | some i => i.entries.length | none => 16
    match firstStatus [(decide (n ≤ entry), stBadParam), (q.spanState = 3, stSpanFault), (q.image.isNone, stFaulted),
        (q.loading, stBusy), (q.dispatching && decide (4 ≤ q.dqUsed), stBusy)] with
    | some st => s.fail 0x22 k st
    | none =>
      let now := !q.dispatching && !q.holdsPost && (s.awake p || q.sizeM1 ≠ 0)
      let w : Waiting := { pkt := some k, entry := entry, start := if now then some (q.startFrom s.cycle) else none }
      let s := s.modPart p (fun q => { q with queue := q.queue ++ [w] })
      let s := if now then s.tellPost p w else s
      if s.awake p then s else s.wakeStalls p))

/-- HALT: the queued dispatches are cancelled, and with RUNNING the running one ends at x + HORIZON; one that is posted
and has not started is no longer queued, and with RUNNING it ends at once (17 R488, R495; log 55). The reply follows
theirs. -/
def execHalt (k : Packet) (s : State) : Answer :=
  let p := k.part
  let run := bit (k.w 0) 0
  .next (s.command 0x23 k headRing [1] (fun s =>
    let q := s.part p
    if q.halt.isSome then s.fail 0x23 k stBusy
    else
      let posted := q.queue.any (fun w => w.start.isSome)
      let gone := q.queue.filter (fun w => w.start.isNone || run)
      let ends := run && (q.disp.isSome || posted)
      let s := s.modPart p (fun q => { q with
        queue := q.queue.filter (fun w => w.start.isSome && !run),
        ended := q.ended ++ gone.filterMap (fun w => w.pkt.map (fun k => Ended.mk k stFaulted [])),
        halt := some (k, 8 * q.dqUsed + b2n ends) })
      let s := if ends then s.stopOwn p s.cycle 7 stFaulted else s
      s.haltDone p))

/-- The packets of a partition's commands in flight. -/
def Part.packets (q : Part) : List Packet :=
  (match q.job with | some j => if j.opc = 0x11 && j.skip then [] else [j.pkt] | none => []) ++
  (match q.halt with | some (k, _) => [k] | none => []) ++ (match q.swap with | some (k, _, _) => [k] | none => []) ++
  (match q.disp with | some d => d.pkt.toList | none => []) ++ q.queue.filterMap (·.pkt) ++ q.ended.map (·.pkt) ++
  q.adapters.toList.flatMap (fun a => (match a.job with | some (k, _, _) => [k] | none => []) ++ a.retireJob.toList) ++
  (match q.ctx with | some c => c.closeReq.toList | none => [])

/-- Every packet that has been read and not replied to. -/
def State.packets (s : State) : List Packet :=
  s.parts.toList.flatMap Part.packets ++
  s.funcs.toList.flatMap (fun x => x.jobsG.map (·.pkt) ++ x.accepted.map (·.2)) ++
  s.ports.toList.filterMap (fun x => match x.job with | some { cmd := some (k, _), .. } => some k | _ => none) ++
  (match s.clk.job with | some (k, _) => [k] | none => []) ++ s.jobPower.toList ++
  (match s.jobDiag with | some (k, _) => [k] | none => [])

/-- FUNCTION_LEVEL_RESET: the CMDQ registers clear; the replies of commands in flight are discarded (17 R504). -/
def State.funcReset (s : State) (f : Fin 65) : State :=
  let x := s.func f
  let mine := s.packets.filter (fun k => k.fn = f)
  s.setFunc f { Func.reset with
    orphans := x.orphans ++ mine, accepted := x.accepted, jobsG := x.jobsG, eseq := x.eseq, events := x.events,
    eloss := x.eloss }

/-- The replies of a function's commands in flight are discarded (17 R504). -/
def State.orphan (s : State) (f : Fin 65) : State :=
  s.setFunc f { s.func f with orphans := (s.func f).orphans ++ s.packets.filter (fun k => k.fn = f) }

def execFunctionLevelReset (k : Fin 64) (s : State) : Answer := .next (s.funcReset k.succ)

end Sys2Proof.Machine
end

