-- ==== Sys2Proof/Machine/Ring.lean ====
section
/-! DEFINITION. The Hawker Ring as this member sees it: ring table, markers, ring rows and takes (13 R353 to
R378). -/

namespace Sys2Proof.Machine

/-- A command of class P completes. -/
def State.endJob (s : State) (p : Fin 64) (status : Byte) (ws : List Word) : State :=
  match (s.part p).job with
  | none => s
  | some j => (s.modPart p (fun q => { q with job := none })).reply j.opc j.pkt status ws

/-- The results of IMAGE_LOAD (17 Table 17.8). -/
def State.loadDone (s : State) (p : Fin 64) : State :=
  let ws : List Word := match (s.part p).image with
    | some i => [BitVec.ofNat 32 i.entries.length, BitVec.ofNat 32 (s.part p).h, BitVec.ofNat 32 i.foot, BitVec.ofNat 32 i.placed]
    | none => match (s.part p).job with
      | some { img := some i, .. } => [BitVec.ofNat 32 i.entries.length, BitVec.ofNat 32 (s.part p).h, BitVec.ofNat 32 i.foot, 0]
      | _ => []
  s.endJob p stOk ws

/-! Geometry of the ring (13 R359). -/

def noMember : RingEntry := ⟨false, 0, 0, 0, 0, 0, 0⟩
def Ring.at (r : Ring) (j : Nat) : RingEntry := r.table.getD j noMember
def Ring.mine (r : Ring) : RingEntry := r.at r.me
def Ring.prev (r : Ring) (k : Nat) : RingEntry := let n := max 1 r.table.length; r.at ((r.me + n - k % n) % n)

/-- OFFSET[j]. -/
def Ring.offset (r : Ring) (j : Nat) : Nat := (r.table.take j).foldl (fun a e => a + e.delay + e.hop) 0

/-- The wheel positions that the origin's ring-out carries at a cycle, or that pass a member's tap: index of the
cycle in the revolution. -/
def Ring.phase (r : Ring) (cyc off : Nat) : Option Nat :=
  match r.t0 with
  | some t => if t + off ≤ cyc ∧ r.revLen ≠ 0 then some ((cyc - t - off) % r.revLen.toNat) else none
  | none => none

/-- The ring-out sheaf of an index: on a closed ring the sheaf that BYP names (13 R376). -/
def Ring.outSheaf (r : Ring) (i : Nat) : Fin 20 :=
  if r.closed then portSheaf r.mine.byp.toNat 0 else portSheaf r.mine.out.toNat i

/-- The index of a ring-in sheaf: its far end is the member before, or across a bypass the one before that. -/
def State.ringIn (s : State) (n : Fin 20) : Option Nat :=
  let r := s.ring
  if r.table.isEmpty then none
  else
    match (s.sheaf n).far with
    | some (node, port, i) =>
      if node = (r.prev 1).node && port = (r.prev 1).out && decide (i.toNat < r.width) then some i.toNat
      else if node = (r.prev 2).node && (r.prev 2).byp ≠ 0 && port = (r.prev 2).byp then some 0
      else none
    | none => none

/-- A marker's FARG (13 R362, 11 Table 11.9). -/
def markerArg (id : BitVec 12) (kind rev : Nat) : BitVec 26 := id ++ BitVec.ofNat 14 (kind * 4096 + rev % 4096)

/-- A marker is put on the ring-out at a cycle. -/
def State.queueMarker (s : State) (due kind rev : Nat) : State :=
  { s with ring := { s.ring with markers := s.ring.markers ++ [(due, markerArg s.ring.id kind rev)] } }

/-- A HAWKER symbol on every ring-out sheaf. -/
def State.sendMarker (s : State) (arg : BitVec 26) : State :=
  (List.range s.ring.width).foldl (fun s i => s.sendSymbol (s.ring.outSheaf i) 6 arg) s

/-- The ring faults on this member (13 R363, R376): rows are dropped, the fault goes on round the ring, and an
IMAGE_LOAD that waits for the ring completes with FAULTED, its image unloaded. -/
def State.ringFault (s : State) (tell : Bool) : State :=
  let r := s.ring
  if r.state = 0 || r.state = 5 then s
  else
    let s := if tell then s.sendMarker (markerArg r.id 3 r.rev.toNat) else s
    let s := { s with ring := { r with state := 5, held := [], markers := [], inbox := [], tap := [], fillPin := none } }
    let s := s.pin r.fillPin false
    let s := s.raise 0x4012 r.part true (r.id.setWidth 32) (r.rev.setWidth 32)
    match r.part with
    | none => s
    | some p =>
      match (s.part p).job with
      | some j => if j.opc = 0x20 && j.ring.isSome then (s.unload p).endJob p stFaulted [] else s
      | none => s

/-- The ring is OFF again on this member (13 Table 13.3). Its counters stay. -/
def State.ringOff (s : State) : State :=
  { s with ring := { Ring.reset with damaged := s.ring.damaged, tapDrop := s.ring.tapDrop, rev := s.ring.rev, raw := s.ring.raw } }

/-- The member accepts the ring table of an IMAGE_LOAD, with the frame rows of the image (13 R355, R361, R363,
15 R431). -/
def State.ringAccept (s : State) (p : Fin 64) (i : Image) (t : Nat × Nat × List RingEntry) (src : Word) (addr : DWord) : State :=
  let (rev, width, l) := t
  let me := l.findIdx (fun e => some e.node = s.link.node)
  let rows : Tab Nat := i.frames.foldl (fun (t : Tab Nat) x =>
    (List.range (x.len / 128)).foldl (fun (t : Tab Nat) k => Tab.set t (256 * x.target + k) (x.off + 128 * k)) t) []
  let pin := if me = 0 && bit src 31 then some (BitVec.ofNat 12 (fld src 11 0)) else none
  let s := { s with ring := { s.ring with
    id := (s.part p).span.getD 0, revLen := BitVec.ofNat 28 rev, width := width, table := l, me := me, t0 := none,
    acceptAt := some s.cycle, frames := rows, filled := [], hurt := [], haltReq := false, calOk := none, part := some p,
    fillFrom := some (src, addr), fillPin := pin } }
  s.pin pin true

/-- A streamed image's load waits for the ring; when the ring is OFF the member accepts its table (13 R365). -/
def State.ringWaiting (s : State) : State :=
  if s.ring.state ≠ 0 || s.ring.acceptAt.isSome then s
  else
    (List.finRange 64).foldl (fun s p =>
      match (s.part p).job with
      | some { pkt := k, opc := o, phase := n, img := some i, ring := some t, .. } =>
        if o = 0x20 && n = 3 && s.ring.acceptAt.isNone then
          s.ringAccept p i t (k.w 0) (k.d 1)
        else s
      | _ => s) s

/-- Every wheel position that a frame section fills has been filled, as far as this member can see: rows of a frame that it
found damaged do not come again (13 R375; DEDUCED, log 32). -/
def Ring.full (r : Ring) : Bool := r.frames.all (fun e => r.filled.contains e.1 || r.hurt.contains (e.1 / 256))

/-- The ring enters RUN on this member: its IMAGE_LOAD completes (13 R364, 15 R431). -/
def State.ringRun (s : State) : State :=
  let r := s.ring
  let s := { s with ring := { r with state := 3, fillPin := none } }
  let s := s.pin r.fillPin false
  match r.part with
  | some p => match (s.part p).job with
    | some j => if j.opc = 0x20 && j.ring.isSome then s.loadDone p else s
    | none => s
  | none => s

/-- A marker is at this member's tap: the transition that it announces (13 R362 to R366). -/
def State.markerEffect (s : State) (at' kind rev : Nat) : State :=
  let r := s.ring
  let s := { s with ring := { r with rev := BitVec.ofNat 12 rev } }
  if kind = 2 then { s with ring := { s.ring with state := 4, offAt := some (at' + r.revLen.toNat) } }
  else if r.state = 1 then { s with ring := { s.ring with state := 2 } }
  else if r.state = 2 && r.full then s.ringRun else s

/-- What takes effect on this member by this cycle: markers whose cycle at the tap has come, and the end of HALTING one
revolution after the halt boundary (13 R358, Table 13.3). -/
def State.ringDue (s : State) : State :=
  let due (m : Nat × Nat × Nat) : Bool := decide (m.1 ≤ s.cycle)
  let l := s.ring.inbox.filter due
  let s := { s with ring := { s.ring with inbox := s.ring.inbox.filter (fun m => !due m) } }
  let s := l.foldl (fun s m => s.markerEffect m.1 m.2.1 m.2.2) s
  match s.ring.offAt with
  | some c => if s.ring.state = 4 && decide (c ≤ s.cycle) then s.ringOff.ringWaiting else s
  | none => s

/-- REVOLUTION_BOUNDARY: the pending transition, and at the origin the boundary's marker (13 R362 to R366). The
first boundary is an epoch boundary at least 131,072 cc after this member's acceptance; which one, the other
members' acceptances decide, so it is the one at which the command comes (log 32). -/
def execRevolutionBoundary (s : State) : Answer :=
  let s := s.ringDue
  let r := s.ring
  let leave := s.cycle + r.mine.delay
  .next (
    match r.t0 with
    | none =>
      match r.acceptAt with
      | some a =>
        if r.me = 0 && r.state = 0 && s.cycle % 65536 = 0 && decide (a + 131072 ≤ s.cycle) then
          { s with ring := { r with state := 1, t0 := some s.cycle, rev := 0 } }.queueMarker leave 1 0
        else s
      | none => s
    | some t =>
      if r.me ≠ 0 || s.cycle ≤ t || (s.cycle - t) % r.revLen.toNat ≠ 0 then s
      else
        let n := (s.cycle - t) / r.revLen.toNat
        let s := { s with ring := { r with rev := BitVec.ofNat 12 n } }
        let busy : Bool := match r.part with | some p => (s.part p).dispatching | none => false
        if r.state = 1 then
          if r.calOk = some true then { s with ring := { s.ring with state := 2 } }.queueMarker leave 0 n
          else s.ringFault true
        else if r.state = 2 then (if r.full then s.ringRun else s).queueMarker leave 0 n
        else if r.state = 3 then
          if r.haltReq && !busy then
            { s with ring := { s.ring with state := 4, offAt := some (s.cycle + r.revLen.toNat) } }.queueMarker leave 2 n
          else s.queueMarker leave 0 n
        else s)

/-- The cycle in which a marker received now is at this member's tap: the first one of its phase. -/
def Ring.tapAt (r : Ring) (cyc : Nat) : Nat :=
  match r.t0 with
  | some t =>
    let b := t + r.offset r.me
    if cyc ≤ b then b else b + ceilDiv (cyc - b) (max 1 r.revLen.toNat) * r.revLen.toNat
  | none => cyc

/-- A marker other than a fault reaches a member that is not the origin: it takes effect at this member's tap and leaves DELAY
cc after (13 R358, R362). -/
def State.markerAt (s : State) (kind rev : Nat) : State :=
  let r := s.ring
  let at' := r.tapAt s.cycle
  ({ s with ring := { r with inbox := r.inbox ++ [(at', kind, rev)] } }).queueMarker (at' + r.mine.delay) kind rev

/-- HAWKER: a marker on the ring-in (13 R362, R363, R366, R376). -/
def execHawker (n : Fin 20) (arg : BitVec 26) (s : State) : Answer :=
  let r := s.ring
  let kind := fld arg 13 12
  let rev := fld arg 11 0
  let id : BitVec 12 := BitVec.ofNat 12 (fld arg 25 14)
  .next (
    if s.ringIn n ≠ some 0 || (s.sheaf n).state ≠ .active then s
    else if r.me ≠ 0 && kind = 1 then
      if r.state ≠ 0 || r.acceptAt.isNone then s
      else
        let off := r.offset r.me
        let t := ceilDiv (s.cycle - off) 65536 * 65536
        let s := { s with ring := { r with
          state := 1, t0 := some t, rev := 0, id := id, raw := BitVec.ofNat 28 (s.cycle - t) } }
        s.queueMarker (t + off + r.mine.delay) 1 0
    else if id ≠ r.id then s
    else if kind = 3 then s.ringFault (r.me ≠ 0)
    else if r.me = 0 then
      match kind, r.t0, r.calOk with
      | 1, some t, none =>
        let back := t + r.revLen.toNat
        let ok := decide (s.cycle ≤ back) && decide (back ≤ s.cycle + (r.prev 1).hop)
        { s with ring := { r with calOk := some ok, raw := BitVec.ofNat 28 (s.cycle - t) } }
      | _, _, _ => s
    else if r.state = 0 || r.state = 4 || r.state = 5 then s
    else s.markerAt kind rev)

/-! Damage (13 R375). -/

/-- A frame found damaged: counted and reported once. -/
def State.hurtFrame (s : State) (f : Nat) : State :=
  if s.ring.hurt.contains f then s
  else
    { s with ring := { s.ring with hurt := insN f s.ring.hurt, damaged := satAdd s.ring.damaged 1 } }.raise 0x4013 none false
      (s.ring.id.setWidth 32) (BitVec.ofNat 32 f)

/-! Takes (13 R367 to R373). -/

def Takes.dest (t : Takes) (e : Nat) : Nat := fld (t.word e 1) 18 0
def Takes.arm (t : Takes) (e : Nat) : BitVec 9 := BitVec.ofNat 9 (fld (t.word e 2) 24 16)
def Takes.count (t : Takes) (e : Nat) : Nat := fld (t.word e 2) 15 8 + 1
def Takes.first (t : Takes) (e : Nat) : Nat := fld (t.word e 2) 7 0
def Takes.land (t : Takes) (e : Nat) : BitVec 9 := BitVec.ofNat 9 (fld (t.word e 3) 8 0)

/-- The window: four entries from the cursor on, up to the first with LAST (13 R368). -/
def Takes.window (t : Takes) : List Nat :=
  if t.past then []
  else
    let l := (List.range 4).map (fun i => t.cursor.toNat + i)
    let n := l.findIdx t.isLast
    (l.take (n + 1)).filter (fun e => decide (e < 4096))

/-- A miss of a Stall (13 R369, R371, R373). -/
def State.takeMiss (s : State) (st : Fin 64) (p : Fin 64) : State :=
  let s := s.modTk st (fun t => { t with miss := satAdd t.miss 1 })
  ((s.modPart p (fun q => { q with hkMiss := satAdd q.hkMiss 1 })).modDisp p (fun d => { d with hkMiss := true })).count p 13 1

/-- A row of a frame passes a window entry of a Stall: its head starts, retakes or misses (13 R369, R371). -/
def State.takeHead (s : State) (st p : Fin 64) (e : Nat) : State :=
  let t := (s.stl st).tk
  match t.active.find? (fun x => x.entry = e) with
  | some x =>
    if x.missing.isEmpty then s
    else
      let s := s.modTk st (fun t => { t with
        retake := satAdd t.retake 1,
        active := t.active.map (fun y => if y.entry = e then { y with pass := y.missing, missing := [] } else y) })
      s.takeMiss st p
  | none =>
    if t.done.contains e then s
    else
      let c := ctrIx (t.arm e)
      if 1 ≤ (s.stl st).seq.startOf c then
        let s := s.tallyUp st c (fun u => { u with subs := u.subs + 1 })
        let rows := (List.range (t.count e)).map (fun i => t.first e + i)
        s.modTk st (fun t => { t with active := t.active ++ [⟨e, rows, [], t.count e⟩] })
      else s.takeMiss st p

/-- A started take delivers a row, or records it as missing where the tap buffer is full (13 R370, R371). -/
def State.takeRow (s : State) (n : Fin 20) (st p : Fin 64) (e row : Nat) (data : Row) : State :=
  let t := (s.stl st).tk
  match t.active.find? (fun x => x.entry = e) with
  | none => s
  | some x =>
    if !x.pass.contains row then s
    else
      let full := decide (4096 ≤ (s.ring.tap.filter (fun d => d.1 = n)).length)
      let s := s.modTk st (fun t => { t with
        active := t.active.map (fun y => if y.entry = e then
          { y with pass := y.pass.erase row, missing := if full then y.missing ++ [row] else y.missing } else y) })
      if full then { s with ring := { s.ring with tapDrop := satAdd s.ring.tapDrop 1 } }
      else
        let a : Arrival :=
          { row := BitVec.ofNat 19 (t.dest e + row - t.first e), data := data, bad := 0, ctr := some (t.land e),
            span := (s.stl st).xl.spanId.getD 0, sheaf := true, src := none, via := .take e }
        let d : DynPkt :=
          { kind := 0, node := 0, stall := st, src := st, part := p, win := 0, off := 0, first := false, ready := 0, arr := a }
        { s with ring := { s.ring with tap := s.ring.tap ++ [(n, d)] } }

/-- A ring row passes the takes of one Stall. -/
def State.takesAt (s : State) (n : Fin 20) (st p : Fin 64) (f row : Nat) (data : Row) : State :=
  let t := (s.stl st).tk
  (t.window.filter (fun e => t.frame e = f)).foldl (fun s e =>
    let s := if row = t.first e then s.takeHead st p e else s
    s.takeRow n st p e row data) s

/-- A ring row is held until it leaves (13 R358). -/
def State.ringHold (s : State) (i : Nat) (tag : BitVec 64) (data : Row) : State :=
  { s with ring := { s.ring with held := s.ring.held ++ [⟨s.cycle + s.ring.mine.delay, i, tag, data⟩] } }

/-- RING_ROW: the row that is at this member's tap in this cycle on a ring-in sheaf, an empty slot included
(13 R358, R363, R364, R369, R375). -/
def execRingRow (n : Fin 20) (tag : BitVec 64) (data : Row) (s : State) : Answer :=
  let s := s.ringDue
  let r := s.ring
  .next (
    match s.ringIn n with
    | none => s
    | some i =>
      let ty := fld tag 63 62
      let f := fld tag 49 28
      let row := fld tag 27 20
      if r.state = 0 || r.state = 4 || r.state = 5 || (s.sheaf n).state ≠ .active then s
      else if ty = 0 then
        match r.phase s.cycle (r.offset r.me), decide (r.state = 3) with
        | some k, true =>
          let p := k * r.width + i
          if (r.frames.get? p).isSome then s.hurtFrame (p / 256) else s
        | _, _ => s
      else if fld tag 61 50 ≠ r.id.toNat then s
      else if ty = 2 then (if r.state = 1 && r.me ≠ 0 then s.ringHold i tag data else s)
      else if ty ≠ 1 || r.state = 1 then s
      else
        let s := s.ringHold i tag data
        let s := if r.state = 2 && r.me ≠ 0 then { s with ring := { s.ring with filled := insN (256 * f + row) s.ring.filled } } else s
        match r.part with
        | none => s
        | some p =>
          if (s.part p).disp.isNone then s
          else (s.part p).members.foldl (fun s st => s.takesAt n st p f row data) s)

/-- The rows that the origin itself puts on its ring-out at one sheaf index: calibration rows in revolution 0, frame rows in
positions not yet filled, by their place in the image (13 R363, R364). -/
def Ring.inject (r : Ring) (cyc i : Nat) : Option (Nat × BitVec 64 × Option Nat) :=
  if r.me ≠ 0 || (r.state ≠ 1 && r.state ≠ 2) then none
  else
    match r.phase cyc r.mine.delay with
    | none => none
    | some k =>
      let p := k * r.width + i
      let ring := r.id.toNat * 2 ^ 50
      let first : Bool := match r.t0 with | some t => decide (cyc < t + r.mine.delay + r.revLen.toNat) | none => false
      if first then some (p, BitVec.ofNat 64 (2 * 2 ^ 62 + ring), none)
      else if r.state = 2 && !r.filled.contains p then
        (r.frames.get? p).map (fun a => (p, BitVec.ofNat 64 (2 ^ 62 + ring + p / 256 * 2 ^ 28 + p % 256 * 2 ^ 20), some a))
      else none

/-- A frame row as the image in host memory or the Granary holds it now (01 R22, 13 R364); none of a bad block. -/
def State.frameRow (s : State) (a : Option Nat) : State × Option Row :=
  match a, s.ring.fillFrom with
  | some a, some (w, h) =>
    if bit w 31 then
      match s.gran.dir.get? (fld w 11 0) with
      | none => (s, none)
      | some r =>
        let (s, ok) := s.readBlock ((r.base + a) / 512) false
        (s, if ok then some (s.gran.mem.row (r.base + a)) else none)
    else (s, some (s.host.row (h.toNat + a)))
  | _, _ => (s, some Row.zero)

/-- RING_ROW_DEPART: what leaves on the ring-out in this cycle: markers, rows held for DELAY cc, and the origin's
own rows (13 R358, R362 to R364). A bad block in the fill faults the ring, and so fails the command (15 Table 15.2; DEDUCED,
log 35). -/
def execRingRowDepart (s : State) : Answer :=
  let r := s.ring
  let s := (r.markers.filter (fun m => decide (m.1 ≤ s.cycle))).foldl (fun s m => s.sendMarker m.2) s
  let s := { s with ring := { s.ring with
    markers := r.markers.filter (fun m => decide (s.cycle < m.1)), held := r.held.filter (fun h => decide (s.cycle < h.due)) } }
  .next ((List.range r.width).foldl (fun s i =>
    match r.held.find? (fun h => decide (h.due ≤ s.cycle) && h.sheaf = i) with
    | some h => s.sendRow (r.outSheaf i) h.tag h.data
    | none =>
      match r.inject s.cycle i with
      | none => s
      | some (p, tag, a) =>
        match s.frameRow a with
        | (s, none) => s.ringFault true
        | (s, some d) =>
          let s := s.sendRow (r.outSheaf i) tag d
          if r.state = 2 then { s with ring := { s.ring with filled := insN p s.ring.filled } } else s) s)

/-- The member after this one is lost: the ring closes over the bypass, or faults (13 R376). -/
def State.ringLost (s : State) (node : BitVec 13) : State :=
  let r := s.ring
  if r.state = 0 || r.state = 5 then s
  else
    let next := r.at ((r.me + 1) % max 1 r.table.length)
    if next.node ≠ node then s
    else if r.mine.byp ≠ 0 && !next.depot then
      { s with ring := { r with closed := true } }.raise 0x4014 r.part true (r.id.setWidth 32) (node.setWidth 32)
    else s.ringFault true

end Sys2Proof.Machine
end

