-- ==== Sys2Proof/Machine/Span.lean ====
section
/-! DEFINITION. Spans: joining and formation (12 R321 to R332), leaving (12 R348), dispatch posts (12 R334,
R335), lost modules and links (12 R344 to R350). -/

namespace Sys2Proof.Machine

/-! The member table (12 Table 12.1). -/

/-- NODE and NB[0..5] of an entry. -/
structure MemberEntry where
  node : BitVec 13
  nb   : List Nat
deriving DecidableEq, Repr

def memberAt (m : Mem) (a r : Nat) : MemberEntry :=
  let w (k : Nat) : Word := m.word (a + 16 * r + 4 * k)
  { node := BitVec.ofNat 13 (fld (w 0) 12 0),
    nb := [fld (w 1) 15 0, fld (w 1) 31 16, fld (w 2) 15 0, fld (w 2) 31 16, fld (w 3) 15 0, fld (w 3) 31 16] }

def memberTable (m : Mem) (a n : Nat) : List MemberEntry := (List.range n).map (memberAt m a)

/-- One more hop from the ranks found last: the hop distances of the ranks they name. -/
def hopLevel (t : List MemberEntry) (n : Nat) (d : Nat) (front : List Nat) (dist : Tab Nat) : Tab Nat × List Nat :=
  (front.flatMap (fun r => match t[r]? with | some e => e.nb.filter (fun q => decide (q < n)) | none => [])).foldl
    (fun acc q => if (acc.1.get? q).isSome then acc else (acc.1.set q d, q :: acc.2)) (dist, [])

/-- Hop distances from HROOT over NB ports (12 R330). -/
def hopSearch (t : List MemberEntry) (n : Nat) : Nat → Nat → List Nat → Tab Nat → Tab Nat
  | 0, _, _, dist => dist
  | f + 1, d, front, dist =>
    let (dist, front) := hopLevel t n d front dist
    if front.isEmpty then dist else hopSearch t n f (d + 1) front dist

def hopTable (t : List MemberEntry) (root : Nat) : Tab Nat := hopSearch t t.length t.length 1 [root] [(root, 0)]

/-- The port to a rank's parent: the lowest one whose far member lies one hop nearer the root (12 R330). -/
def parentPort (t : List MemberEntry) (dist : Tab Nat) (r : Nat) : Option Nat :=
  match dist.get? r, t[r]? with
  | some (d + 1), some e => (List.range 6).find? (fun p => dist.get? (e.nb.getD p 0xFFFF) = some d)
  | _, _ => none

/-- The ports behind which a rank's children lie: torus port p faces port p xor 1 of the neighbour. -/
def childMask (t : List MemberEntry) (dist : Tab Nat) (r : Nat) : BitVec 6 :=
  match t[r]? with
  | none => 0
  | some e =>
    (List.range 6).foldl (fun (m : BitVec 6) p =>
      if parentPort t dist (e.nb.getD p 0xFFFF) = some (Nat.xor p 1) &&
          (match t[e.nb.getD p 0xFFFF]? with | some c => c.nb.getD (Nat.xor p 1) 0xFFFF = r | none => false)
      then m ||| ((1 : BitVec 6) <<< p) else m) 0

/-! Joining. -/

/-- A torus port is usable for the hold tree (12 R325). -/
def State.usable (s : State) (k : Fin 8) : Bool :=
  let l := (s.activeOf k).filter (fun n => !s.ringSheaf n)
  !l.isEmpty && l.all (fun n => (s.sheaf n).latOk && !(s.sheaf n).selfLoop && !(s.sheaf n).foreign)

/-- The largest HOLD_CC of a port's ACTIVE sheaves (12 R331). -/
def State.holdCc (s : State) (k : Fin 8) : Nat := (s.activeOf k).foldl (fun m n => max m (s.sheaf n).holdCc) 0

/-- The partition is outside any span: span registers 0. -/
def Part.noSpan (q : Part) : Part :=
  { q with span := none, rank := 0, sizeM1 := 0, isRoot := false, parent := 0, kids := 0, h := 0, spanState := 0,
           cause := 0, origin := 0, lost := none, hroot := 0, digest := 0, nbs := [], hops := 0, allRanks := false,
           edges := [], height := 0, tree := ⟨[], [], []⟩ }

/-- SPAN_JOIN fails: the partition stays outside any span (12 R327). -/
def State.joinFail (s : State) (p : Fin 64) (status : Byte) : State := (s.modPart p Part.noSpan).endJob p status []

/-- The span has formed on this member with horizon H (12 R326). -/
def State.formed (s : State) (p : Fin 64) (h : Nat) : State :=
  let s := s.modPart p (fun q => { q with spanState := 2, h := h })
  let q := s.part p
  let s := s.raise 0x4003 (some p) true ((q.span.getD 0).setWidth 32) (pack [(q.rank.toNat, 16), (h, 0)])
  s.endJob p stOk [q.rank.setWidth 32, BitVec.ofNat 32 h]

/-- The SPAN_FORM record this member sends on a port; words for the log of what went out. -/
def State.sendForm (s : State) (p : Fin 64) (k : Fin 8) (members : Nat) (h : Option Nat) : State :=
  let q := s.part p
  s.recordPort k 0x02 [(q.span.getD 0).toNat, q.digest.toNat, q.rank.toNat, q.hops, q.height, members, s.holdCc k,
    h.getD 0]

/-- Formation goes on (12 R326, R327, R331, R332): once every neighbour's record has come and every child's subtree
is complete, this member's is; the root then has H, which goes down the tree even where it is too large (12 Table 12.2). -/
def State.formStep (s : State) (p : Fin 64) : State :=
  let q := s.part p
  if q.spanState ≠ 1 || q.nbs.any (fun b => b.form.isNone) then s
  else if !q.allRanks then s.joinFail p stNoResource
  else
    let kids := q.nbs.filter (fun b => q.kids.getLsbD b.port)
    let done (b : Neighbour) : Bool := match b.form with | some f => decide (0 < f.members) | none => false
    if !kids.all done then s
    else
      let lat (b : Neighbour) : Nat := ((q.edges.find? (fun e => e.1 = b.port)).map (·.2)).getD 0
      let height := kids.foldl (fun m b => match b.form with | some f => max m (f.height + lat b) | none => m) 0
      let members := kids.foldl (fun m b => match b.form with | some f => m + f.members | none => m) 1
      let s := s.modPart p (fun q => { q with height := height })
      if q.isRoot then
        let h := 64 + 2 * height
        if 8191 < h then (kids.foldl (fun s b => s.sendForm p (fin 7 b.port) 0 (some h)) s).joinFail p stNoResource
        else kids.foldl (fun s b => s.sendForm p (fin 7 b.port) 0 (some h)) (s.formed p h)
      else s.sendForm p (fin 7 q.parent.toNat) members none

/-- A partition that runs a command of class P, or a variant swap (17 Table 17.4). -/
def Part.busyP (q : Part) : Bool := q.job.isSome || q.swap.isSome || (match q.ctx with | some c => c.closeReq.isSome | none => false)

/-- SPAN_JOIN (12 R325 to R329). -/
def execSpanJoin (k : Packet) (s : State) : Answer :=
  let p := k.part
  .next (s.command 0x13 k operatorPart [0x0FFF3FFF, 0x1FFF1FFF, 0xFFFFFFFF, 0xFFFFFFFF] (fun s =>
    let q := s.part p
    let id : BitVec 12 := BitVec.ofNat 12 (fld (k.w 0) 27 16)
    let n := fld (k.w 0) 13 0
    let root := fld (k.w 1) 28 16
    let rank := fld (k.w 1) 12 0
    let t := if n ≤ 8192 then memberTable s.host (k.d 2) n else []
    let own := t.getD rank ⟨0, []⟩
    let nbs := (List.range 6).filter (fun x => own.nb.getD x 0xFFFF ≠ 0xFFFF)
    let ok (x : Nat) : Bool := s.usable (fin 7 x) && (match t[own.nb.getD x 0xFFFF]? with
      | some e => s.farNode (fin 7 x) = some e.node
      | none => false)
    match firstStatus [(q.busyP || q.span.isSome || (List.finRange 64).any (fun x => (s.part x).span = some id), stBusy),
        (id = 0 || n = 0 || decide (8192 < n) || decide (n ≤ rank) || decide (n ≤ root) || q.depot ||
          s.link.node ≠ some own.node || anyPair (fun a b => a.node = b.node) t, stBadParam),
        (decide (1 < n) && !s.link.estab, stNoResource), (!nbs.all ok, stNoResource)] with
    | some st => s.fail 0x13 k st
    | none =>
      let dist := hopTable t root
      let digest := BitVec.ofNat 384 (beNat (sha384 (s.host.bytes (k.d 2) (16 * n))))
      let s := s.modPart p (fun q => { q.noSpan with
        span := some id, rank := BitVec.ofNat 13 rank, sizeM1 := BitVec.ofNat 13 (n - 1), isRoot := rank = root,
        parent := BitVec.ofNat 3 ((parentPort t dist rank).getD 0), kids := childMask t dist rank,
        hroot := BitVec.ofNat 13 root, digest := digest, hops := (dist.get? rank).getD 0,
        allRanks := decide (dist.length = n), spanState := 1,
        nbs := nbs.map (fun x => ⟨x, own.nb.getD x 0xFFFF, none⟩),
        edges := nbs.map (fun x => (x, s.holdCc (fin 7 x))),
        job := some { pkt := k, opc := 0x13, phase := 0, since := s.now, img := none, skip := false, ring := none } })
      if n = 1 then
        let s := if s.link.estab then s
          else { s with link := { s.link with estab := true, root := true, rootNode := own.node, dist := 0, parent := none } }
        s.formed p 64
      else (nbs.foldl (fun s x => s.sendForm p (fin 7 x) 0 none) s).formStep p))

/-- The partition that joins a span over a port. -/
def State.joining (s : State) (span : BitVec 12) (k : Fin 8) : Option (Fin 64) :=
  (List.finRange 64).find? (fun p => (s.part p).span = some span && (s.part p).spanState = 1 &&
    (s.part p).nbs.any (fun b => b.port = k.val))

/-- SPAN_FORM: a neighbour's record (12 R326, R327, R331). A first record is answered with this member's own. -/
def execSpanForm (n : Fin 20) (r : FormRecord) (s : State) : Answer :=
  let k := sheafPort n
  .next (
    if (s.sheaf n).state ≠ .active then s
    else
      match s.joining r.span k with
      | none => s
      | some p =>
        let q := s.part p
        if r.digest ≠ q.digest then s.joinFail p stBadParam
        else
          let first := q.nbs.any (fun b => b.port = k.val && b.form.isNone)
          let s := s.modPart p (fun q => { q with
            nbs := q.nbs.map (fun b => if b.port = k.val then { b with form := some r } else b),
            edges := q.edges.map (fun e => if e.1 = k.val then (e.1, max e.2 r.lat) else e) })
          let s := if first then s.sendForm p k 0 none else s
          match r.horizon, decide (!q.isRoot && k.val = q.parent.toNat) with
          | some h, true =>
            let kids := q.childPorts
            if 8191 < h then (kids.foldl (fun s c => s.sendForm p c 0 (some h)) s).joinFail p stNoResource
            else kids.foldl (fun s c => s.sendForm p c 0 (some h)) (s.formed p h)
          | _, _ => s.formStep p)

/-- SPAN_JOIN_TIMEOUT: formation incomplete 1 s after SPAN_JOIN (12 Table 12.2). Before that it does nothing. -/
def execSpanJoinTimeout (p : Fin 64) (s : State) : Answer :=
  .next (
    match (s.part p).job with
    | some j => if j.opc = 0x13 && (s.part p).spanState = 1 && decide (j.since + 1000000000000 ≤ s.now) then
        s.joinFail p stTimeout else s
    | none => s)

/-- The partition leaves its span: a formed span faults with cause MEMBER_LEFT, the image is unloaded, and a
faulted ring of the span is OFF here (12 R348, Table 12.3, 13 Table 13.3). -/
def State.leaveSpan (s : State) (p : Fin 64) : State :=
  let s := (s.spanFault p 2 s.cycle).unload p
  let s := if s.ring.part = some p && s.ring.state = 5 then s.ringOff else s
  s.modPart p Part.noSpan

/-- SPAN_LEAVE (12 R348). A partition in no span has none to leave (log 33). -/
def execSpanLeave (k : Packet) (s : State) : Answer :=
  let p := k.part
  .next (s.command 0x14 k operatorPart [] (fun s =>
    let q := s.part p
    match firstStatus [(q.span.isNone, stBadParam), (q.busyP || (q.spanState = 2 && q.dispatching), stBusy)] with
    | some st => s.fail 0x14 k st
    | none => (s.leaveSpan p).reply 0x14 k stOk []))

/-- DISPATCH_POST: queued with its start cycle and forwarded on every other tree port; at or after its start the
span faults (12 R334, R335). Stalls asleep wake (19 R543). -/
def execDispatchPost (n : Fin 20) (r : PostRecord) (s : State) : Answer :=
  let k := sheafPort n
  .next (
    if (s.sheaf n).state ≠ .active then s
    else
      match s.spanPart r.span with
      | none => s
      | some p =>
        let q := s.part p
        if !q.treePorts.contains k || q.head then s
        else
          let s := s.sendPost p (some k) r.entry.toNat r.start
          if q.spanState ≠ 2 then s
          else if r.start ≤ s.cycle then s.spanFault p 5 s.cycle
          else (s.modPart p (fun q => { q with queue := q.queue ++ [⟨none, r.entry.toNat, some r.start⟩] })).wakeStalls p)

/-! Lost modules and links. -/

/-- The far node of a port, from any sheaf of it that knows. -/
def State.farOf (s : State) (k : Fin 8) : Option (BitVec 13) := (portSheaves k).findSome? (fun n => (s.sheaf n).far.map (·.1))

/-- MODULE_LOST: no sheaf of a port has come back to ACTIVE within 100 µs (12 R344 to R346, 13 R376; log 57). Before that,
or with a sheaf ACTIVE, it does nothing. -/
def execModuleLost (port : Fin 8) (s : State) : Answer :=
  .next (
    match (s.port port).downAt with
    | none => s
    | some t =>
      if s.now < t + 100000000 || !(s.activeOf port).isEmpty then s
      else
        let s := s.modPort port (fun x => { x with downAt := none })
        let node : BitVec 13 := (s.farOf port).getD 0
        let s := s.raise 0x4003 none false (pack [(1, 31), (node.toNat, 0)]) (BitVec.ofNat 32 port.val)
        let s := (List.finRange 64).foldl (fun s p =>
          if decide (2 ≤ (s.part p).spanState.toNat) && (s.part p).treePorts.contains port then
            (s.modPart p (fun q => { q with lost := some node })).spanFault p 1 s.cycle
          else s) s
        s.ringLost node)

/-- A record of a link lost or restored on every ACTIVE torus sheaf but one (12 R350). -/
def State.floodLink (s : State) (but : Option (Fin 20)) (up : Bool) (a b : BitVec 13) : State :=
  ((List.finRange 18).map (fun i => fin 19 i.val)).foldl (fun s n =>
    if (s.sheaf n).state = .active && some n ≠ but then s.sendRecord n (if up then 0x05 else 0x04) [a.toNat, b.toNat]
    else s) s

/-- News of a link: recorded as lost or as restored, once for each change; the record goes on, the routes are computed again
and the event is raised, also for a restored link that this module did not hold as lost (12 R349, R350). -/
def State.linkNews (s : State) (but : Option (Fin 20)) (up : Bool) (a b : BitVec 13) : State :=
  let l := s.link
  if (if up then l.restored else l.lost).any (sameLink a b) then s
  else
    let gone := l.lost.filter (fun e => !sameLink a b e)
    let back := l.restored.filter (fun e => !sameLink a b e)
    let s := { s with link := { l with
      lost := if up then gone else gone ++ [(a, b)], restored := if up then back ++ [(a, b)] else back } }
    (s.floodLink but up a b).reroute.raise 0x4005 none false (pack [(a.toNat, 16), (b.toNat, 0)]) (if up then 0 else 1)

/-- LINK_LOST and LINK_RESTORED received (12 R350). -/
def execLinkLost (n : Fin 20) (a b : BitVec 13) (s : State) : Answer := .next (s.linkNews (some n) false a b)
def execLinkRestored (n : Fin 20) (a b : BitVec 13) (s : State) : Answer := .next (s.linkNews (some n) true a b)

end Sys2Proof.Machine
end

