-- ==== Sys2Proof/Machine/Link.lean ====
section
/-! DEFINITION. The Uhlier Link: training (11 R293 to R297), timebase (11 R298 to R303), rows on a sheaf (11 R307 to
R309), retrain and width change (11 R310 to R315), and the loopback test (17 R502). -/

namespace Sys2Proof.Machine

/-! Equalizer taps. -/

/-- The taps of a preset in 1/80: c(-2), c(-1), c(0), c(+1) (11 Table 11.6). -/
def presetTaps (p : Fin 6) : Vector Byte 4 :=
  match p.val with
  | 0 => #v[0, 0, 80, 0]
  | 1 => #v[0, -8, 72, 0]
  | 2 => #v[0, -12, 60, -8]
  | 3 => #v[4, -16, 52, -8]
  | 4 => #v[4, -20, 44, -12]
  | _ => #v[8, -24, 40, -8]

/-- A request for one tap: 1 increment, 2 decrement; the taps and the status, 1 updated or 2 at limit (11 R295). -/
def tapStep (v : Vector Byte 4) (i : Fin 4) (req : Nat) : Vector Byte 4 × Nat :=
  let lo : Int := if i.val = 0 then -12 else if i.val = 1 then -28 else -20
  let hi : Int := if i.val = 0 then 12 else 0
  let x := v[i].toInt + (if req = 1 then 1 else -1)
  let w := v.set i (BitVec.ofInt 8 x)
  let c0 : Int := 80 - (w[0].toInt.natAbs + w[1].toInt.natAbs + w[3].toInt.natAbs : Nat)
  if req = 0 || req = 3 then (v, 0)
  else if x < lo || hi < x || c0 < 32 then (v, 2)
  else (w.set 2 (BitVec.ofInt 8 c0), 1)

/-! States of a sheaf. -/

/-- Events of a sheaf (11 Table 11.11). -/
def State.linkEvent (s : State) (code : Half) (n : Fin 20) : State :=
  s.raise code none false (BitVec.ofNat 32 n.val) (s.sheafStatus n)

/-- This module's node ID. -/
def State.me (s : State) : BitVec 13 := s.link.node.getD 0

/-- The capability record of a sheaf, once a marker has left it (11 R296, Table 11.8). -/
def State.sendCaps (s : State) (n : Fin 20) : State :=
  let l := s.link
  let h := s.sheaf n
  match h.tx.mark with
  | none => s
  | some (c, m) =>
    let w0 := pack [(b2n h.capAck, 31), (s.me.toNat, 16), ((sheafPort n).val, 8), (sheafIndex n, 4)]
    let w4 := pack [(0x0A08, 16), (stepping, 4)]
    let w8 := pack [(b2n l.estab, 31), (l.rootNode.toNat, 16), (l.dist.toNat, 8)]
    let cm := BitVec.ofNat 64 c
    s.sendRecord n 0x01 [w0.toNat, w4.toNat, w8.toNat, 0, (loW cm).toNat, (hiW cm).toNat, m.toNat, h.eqWord.toNat % 2 ^ 24]

/-- A probe of a sheaf: the count it carries is that of the codeword that sends it (11 R299). -/
def State.sendProbe (s : State) (n : Fin 20) : State := s.sendSymbol n 0xB 0

/-- What a sheaf begins a state with (11 Table 11.7, R294). -/
def Sheaf.enter (h : Sheaf) (st : SheafState) (now : Nat) : Sheaf :=
  let h := { h with state := st, since := now, atMark := none }
  match st with
  | .detect => { h with pulses := 0, lanes := 0, pulseAt := none }
  | .train =>
    let eq := match h.preset, h.conv with
      | some p, _ => presetTaps p
      | none, some v => v
      | none, none => presetTaps 3
    let named : Nat := match h.preset, h.conv with
      | some p, _ => p.val + 1
      | none, some _ => h.applied.toNat
      | none, none => 4
    { h with eq := eq, applied := BitVec.ofNat 4 named, preset := none, tapStat := 0, frames := 0, rxReady := false, tx := { h.tx with block := 0 } }
  | .lock =>
    { h with
      markers := Vector.replicate 16 0, laneAt := Vector.replicate 16 none, missRun := Vector.replicate 16 0, cleanAt := now
      conv := some h.eq, tx := { h.tx with cw := 4096, bits := [], sent := 0, mark := none } }
  | .caps => { h with
      cap := none, capSeen := 0, capAck := false, aligned := false, probes := 0, bestTrip := none, markAt := none,
      selfLoop := false, foreign := false, drift := false }
  | .blind =>
    { h with
      markers := Vector.replicate 16 0, laneAt := Vector.replicate 16 none, missRun := Vector.replicate 16 0, cleanAt := now
      eq := presetTaps 3, applied := 4, rxReady := false, tx := { h.tx with cw := 4096, bits := [], sent := 0, block := 0 } }
  | _ => h

/-- The timing parent has been lost: the ACTIVE sheaf whose far end has the same ROOT and the smallest DIST, lowest sheaf
first, or none (11 R303). -/
def State.newParent (s : State) : State :=
  let l := s.link
  let cand := (List.finRange 20).filterMap (fun n =>
    let h := s.sheaf n
    match h.state, h.cap with
    | .active, some c =>
      if bit c.w8 31 && fld c.w8 28 16 = l.rootNode.toNat && !h.foreign && !h.selfLoop then some (fld c.w8 13 8, n) else none
    | _, _ => none)
  let best := cand.foldl (fun (b : Option (Nat × Fin 20)) e => match b with
    | none => some e
    | some x => if e.1 < x.1 then some e else some x) none
  match best with
  | some (d, n) => { s with link := { l with parent := some n, dist := BitVec.ofNat 6 (d + 1) } }
  | none => { s with link := { l with parent := none } }

/-- The torus link of a port is lost, or returns after it was lost (12 R350). -/
def State.portNews (s : State) (n : Fin 20) (up : Bool) : State :=
  match (s.sheaf n).far with
  | some (node, _, _) =>
    if 6 ≤ (sheafPort n).val || (s.sheaf n).selfLoop || node = s.me || (up && !s.link.isLost s.me node) then s
    else s.linkNews none up s.me node
  | none => s

/-- A formed span that uses a port in its hold tree faults with cause TREE_LATENCY when a test of the edge holds (12
Table 12.3). -/
def State.treeFault (s : State) (k : Fin 8) (bad : Part → Bool) : State :=
  (List.finRange 64).foldl (fun s p =>
    let q := s.part p
    if q.spanState = 2 && q.treePorts.contains k && bad q then s.spanFault p 4 s.cycle else s) s

/-- What follows when a sheaf has left ACTIVE (11 Table 11.10, R303, 12 R344, R345, R350). -/
def State.leftActive (s : State) (n : Fin 20) (dest : SheafState) : State :=
  let k := sheafPort n
  let down := dest = .detect || dest = .failed
  let s := if dest = .train then s.modSheaf n (fun h => { h with retrains := satAdd h.retrains 1, retrain := true }) else s
  let s := if down then s.linkEvent 0x3002 n else s
  let s :=
    if (s.activeOf k).isEmpty then
      let s := { s with clk := { s.clk with kids := s.clk.kids.filter (fun e => e.2.2.2 ≠ k) } }
      let s := if down then s.modPort k (fun x => { x with downAt := some s.now }) else s.treeFault k (fun _ => true)
      s.portNews n false
    else if (s.activeOf k).all s.ringSheaf then s.treeFault k (fun _ => true)
    else s
  if s.link.parent = some n then s.newParent else s

/-- A sheaf changes state. What its transmitter still holds when it leaves ACTIVE is not sent; the scheduled rows among it are
lost (11 R308, R311). -/
def State.sheafTo (s : State) (n : Fin 20) (dest : SheafState) : State :=
  let was := (s.sheaf n).state
  let s := s.modSheaf n (fun h => h.enter dest s.now)
  if was = .active && dest ≠ .active then
    let rows := (s.sheaf n).tx.sched.length
    let s := s.modSheaf n (fun h => { h with
      schedLost := satAdd h.schedLost rows, tx := { h.tx with syms := [], recs := [], sched := [], again := [] } })
    (if rows = 0 then s else s.linkEvent 0x3005 n).leftActive n dest
  else s

/-- A sheaf enters ACTIVE (11 R301, R318, 12 R345, R350). -/
def State.sheafUp (s : State) (n : Fin 20) : State :=
  let k := sheafPort n
  let first := (s.activeOf k).isEmpty
  let s := (s.sheafTo n .active).modSheaf n (fun h => { h with latOk := decide (h.holdCc ≤ 95), retrain := false, ackAt := s.now })
  let s := s.linkEvent 0x3001 n
  let s := if k.val < 6 && !(s.sheaf n).latOk then s.linkEvent 0x3007 n else s
  let s := s.modPort k (fun x => { x with downAt := none })
  let s := if first then s.portNews n true else s
  let h := s.sheaf n
  s.treeFault k (fun q => !h.latOk || h.foreign || h.selfLoop || q.edges.any (fun e => e.1 = k.val && decide (e.2 < h.holdCc)))

/-- A port may use a sheaf: ENABLE and the keep mask name it (11 R293). -/
def State.keeps (s : State) (n : Fin 20) : Bool :=
  let x := s.port (sheafPort n)
  x.enable && x.keep.getLsbD (sheafIndex n)

/-- Sheaves that R293 no longer holds DISABLED go to DETECT. -/
def State.openSheaves (s : State) : State :=
  if s.link.node.isNone || decide (2 ≤ s.pwr.mstate.toNat) then s
  else
    (List.finRange 20).foldl (fun s n =>
      if (s.sheaf n).state = .disabled && s.keeps n then s.sheafTo n .detect else s) s

/-! Requests of a port (11 R310 to R315). -/

/-- A LINK_REQ or LINK_ACK on every ACTIVE sheaf of a port, twice (11 Tables 11.9, 11.12). -/
def State.sendLink (s : State) (k : Fin 8) (fsym : BitVec 4) (node : BitVec 13) (kind mask : BitVec 3) : State :=
  (s.activeOf k).foldl (fun s n => s.sendTwice n fsym (node ++ kind ++ mask ++ (0 : BitVec 7))) s

/-- The opcode of a port's command. -/
def LinkJob.opc (j : LinkJob) : Byte := if j.kind = 1 then 0x50 else 0x51

/-- A port's request ends, and its command, if it has one, completes. -/
def State.endLink (s : State) (k : Fin 8) (status : Byte) (ws : List Word) : State :=
  match (s.port k).job with
  | none => s
  | some j =>
    let s := s.modPort k (fun x => { x with job := none })
    match j.cmd with
    | some (p, _) => s.reply j.opc p status ws
    | none => s

/-- The sheaves of a port that a mask names. -/
def namedSheaves (k : Fin 8) (mask : BitVec 3) : List (Fin 20) := (portSheaves k).filter (fun n => mask.getLsbD (sheafIndex n))

/-- A request whose change has been made completes (17 Table 17.6, Table 17.8). -/
def State.linkDone (s : State) (k : Fin 8) : State :=
  match (s.port k).job with
  | none => s
  | some j =>
    let l := namedSheaves k j.mask
    let ready := if j.kind = 1 then l.all (fun n => (s.sheaf n).state = .active && (s.sheaf n).atMark.isNone)
      else (s.port k).width.isNone && (s.port k).keep = j.mask
    if !j.acked || !ready then s
    else
      let lat (i : Nat) : Word := match l.find? (fun n => sheafIndex n = i) with | some n => (s.sheaf n).latWord | none => 0
      let st := (s.port k).status
      s.endLink k stOk (if j.kind = 1 then [lat 0, lat 1, lat 2, st] else [st])

/-- The winning request: its change waits for the next marker; a preset that its command names, for the TRAIN that it causes
(11 R294, R310). -/
def State.linkApply (s : State) (k : Fin 8) (kind mask : BitVec 3) (preset : Option (Fin 6)) : State :=
  if kind = 1 then
    (namedSheaves k mask).foldl (fun s n =>
      if (s.sheaf n).state = .active then s.modSheaf n (fun h => { h with atMark := some 1, preset := preset }) else s) s
  else if kind = 2 && mask ≠ 0 then s.modPort k (fun x => { x with width := some mask })
  else s

/-- A keep mask takes effect: removed sheaves stop, added ones start DETECT, and the change is reported for its lowest
sheaf (11 R310, R318). -/
def State.setKeep (s : State) (k : Fin 8) (mask : BitVec 3) : State :=
  let old := (s.port k).keep
  let s := s.modPort k (fun x => { x with keep := mask, width := none })
  let s := (portSheaves k).foldl (fun s n =>
    if mask.getLsbD (sheafIndex n) then s
    else if (s.sheaf n).state = .disabled || (s.sheaf n).state = .blind then s
    else s.sheafTo n .disabled) s
  let s := s.openSheaves
  match (portSheaves k).find? (fun n => old.getLsbD (sheafIndex n) ≠ mask.getLsbD (sheafIndex n)) with
  | some n => s.linkEvent 0x3004 n
  | none => s

/-- A sheaf that a retrain took out of ACTIVE has failed: it leaves the keep mask, and a LINK_TRAIN that named it fails
(11 R311; log 38). Another one goes to DETECT. -/
def State.trainFailed (s : State) (n : Fin 20) (code : BitVec 4) : State :=
  let k := sheafPort n
  let s := s.modSheaf n (fun h => { h with fail := code })
  if !(s.sheaf n).retrain then s.sheafTo n .detect
  else
    let s := s.modSheaf n (fun h => { h with retrain := false })
    let s := s.setKeep k ((s.port k).keep &&& ~~~((1 : BitVec 3) <<< sheafIndex n))
    match (s.port k).job with
    | some j => if j.kind = 1 && j.acked && j.mask.getLsbD (sheafIndex n) then s.endLink k stFaulted [] else s
    | none => s

/-- A request of a port is made and sent (11 R310). -/
def State.linkAsk (s : State) (k : Fin 8) (kind mask : BitVec 3) (preset : Option (Fin 6)) (cmd : Option (Packet × BitVec 4)) :
    State :=
  let j : LinkJob := { kind := kind, mask := mask, preset := preset, sends := 1, last := s.now, back := none, acked := false,
                       met := false, cmd := cmd }
  (s.modPort k (fun x => { x with job := some j })).sendLink k 9 s.me kind mask

/-- LINK_TRAIN (11 R293, R294, R310, 17 Table 17.7). Sheaves already training need no request. -/
def execLinkTrain (k : Packet) (s : State) : Answer :=
  let port : Fin 8 := fin 7 (fld (k.w 0) 2 0)
  let mask := BitVec.ofNat 3 (fld (k.w 0) 6 4)
  let preset := fld (k.w 0) 11 8
  .next (s.command 0x50 k operator [0xF77] (fun s =>
    let l := namedSheaves port mask
    match firstStatus [(decide (6 < preset) || mask = 0 || mask &&& ~~~(s.port port).keep ≠ 0, stBadParam),
        ((s.port port).job.isSome, stBusy)] with
    | some st => s.fail 0x50 k st
    | none =>
      let pre : Option (Fin 6) := if preset = 0 then none else some (fin 5 (preset - 1))
      let s := l.foldl (fun s n =>
        if (s.sheaf n).state = .failed then (s.sheafTo n .detect).modSheaf n (fun h => { h with preset := pre }) else s) s
      if l.any (fun n => (s.sheaf n).state = .active) then s.linkAsk port 1 mask pre (some (k, 0))
      else
        let j : LinkJob := { kind := 1, mask := mask, preset := pre, sends := 0, last := s.now, back := none, acked := true,
                             met := false, cmd := some (k, 0) }
        s.modPort port (fun x => { x with job := some j })))

/-- The router output of a sheaf carries a VALID slot table entry (11 R312). -/
def State.slotted (s : State) (n : Fin 20) : Bool :=
  let (r, o) := sheafAt n
  ((s.stl r).rt.slots[o]).any (fun e => bit e.2 7)

/-- LINK_WIDTH (11 R310, R312, 17 Table 17.7). -/
def execLinkWidth (k : Packet) (s : State) : Answer :=
  let port : Fin 8 := fin 7 (fld (k.w 0) 2 0)
  let mask := BitVec.ofNat 3 (fld (k.w 0) 6 4)
  .next (s.command 0x51 k operator [0x77] (fun s =>
    match firstStatus [(decide (6 ≤ port.val) || mask = 0, stBadParam), ((s.port port).job.isSome, stBusy),
        ((namedSheaves port ((s.port port).keep &&& ~~~mask)).any s.slotted, stDenied)] with
    | some st => s.fail 0x51 k st
    | none => s.linkAsk port 2 mask none (some (k, 0))))

/-- The back-off of a port's next try in ps: 10 µs to 50 µs in steps of 10 ns (11 R314; log 6). -/
def backoffPs (k : Fin 8) (tries : Nat) : Nat :=
  let n : Nat := match portSheaves k with | n :: _ => n.val | [] => 0
  10000 * (1000 + Config.backoff n tries % 4001)

/-- LINK_REQ: acknowledged and followed, or resolved by node ID against this side's request (11 R313, R314). Of the copies of
one request, which come on every ACTIVE sheaf of the port within 100 ns, the first acts (log 38). -/
def execLinkReq (n : Fin 20) (arg : BitVec 26) (s : State) : Answer :=
  let k := sheafPort n
  let node := BitVec.ofNat 13 (fld arg 25 13)
  let kind := BitVec.ofNat 3 (fld arg 12 10)
  let mask := BitVec.ofNat 3 (fld arg 9 7)
  let follow (s : State) : State := (s.sendLink k 0xA node kind mask).linkApply k kind mask none
  let hit (s : State) : State := s.modPort k (fun x => { x with coll := satAdd x.coll 1 })
  let seen (e : BitVec 4 × BitVec 26 × Nat) : Bool := decide (s.now < e.2.2 + 100000)
  .next (
    if (s.sheaf n).state ≠ .active || !(kind = 1 || kind = 2) then s
    else if (s.port k).heard.any (fun e => e.1 = 9 && e.2.1 = arg && seen e) then s
    else
      let s := s.modPort k (fun x => { x with heard := (9, arg, s.now) :: x.heard.filter seen })
      match (s.port k).job with
      | none => follow s
      | some j =>
        if j.acked then follow s
        else if s.me < node then (hit s).modPort k (fun x => { x with job := some { j with met := true } })
        else if node < s.me then follow ((hit s).endLink k stBusy [])
        else if j.back.isSome then s
        else
          (hit s).modPort k (fun x => { x with
            tries := x.tries + 1, job := some { j with back := some (s.now + backoffPs k x.tries) } }))

/-- LINK_ACK of this side's request (11 R310). -/
def execLinkAck (n : Fin 20) (arg : BitVec 26) (s : State) : Answer :=
  let k := sheafPort n
  .next (
    match (s.port k).job with
    | none => s
    | some j =>
      let mine := fld arg 25 13 = s.me.toNat && fld arg 12 10 = j.kind.toNat && fld arg 9 7 = j.mask.toNat
      if (s.sheaf n).state ≠ .active || j.acked || !mine then s
      else
        (s.modPort k (fun x => { x with job := some { j with acked := true, back := none } })).linkApply k j.kind j.mask j.preset)

/-- LINK_REQ_RESEND: a request that has met neither a LINK_REQ nor a LINK_ACK within 100 µs is sent again, at most 8 times
(11 R315). Before that it does nothing. -/
def execLinkReqResend (port : Fin 8) (s : State) : Answer :=
  .next (
    match (s.port port).job with
    | none => s
    | some j =>
      if j.acked || j.met || j.back.isSome || decide (s.now < j.last + 100000000) then s
      else if 8 ≤ j.sends then s.endLink port stTimeout []
      else (s.modPort port (fun x => { x with job := some { j with sends := j.sends + 1, last := s.now } })).sendLink port 9 s.me j.kind j.mask)

/-- BACKOFF_END: the request is sent again (11 R314). Before that it does nothing. -/
def execBackoffEnd (port : Fin 8) (s : State) : Answer :=
  .next (
    match (s.port port).job with
    | some { kind := kind, mask := mask, preset := preset, back := some t, cmd := cmd, .. } =>
      if s.now < t then s else s.linkAsk port kind mask preset cmd
    | _ => s)

/-- Automatic retrains that waited for the port's request to end are asked for (11 R311). -/
def State.retrainCc (s : State) (k : Fin 8) : State :=
  let x := s.port k
  if x.retrain = 0 || x.job.isSome then s else (s.modPort k (fun x => { x with retrain := 0 })).linkAsk k 1 x.retrain none none

/-! Training. -/

/-- RECEIVER_DETECT_PULSE: a pulse in DETECT, with the lanes on which it found a far termination; pulses are 100 µs apart
(11 Table 11.7). Before that it does nothing. -/
def execReceiverDetectPulse (n : Fin 20) (lanes : BitVec 16) (s : State) : Answer :=
  let early : Bool := match (s.sheaf n).pulseAt with | some t => decide (s.now < t + 100000000) | none => false
  .next (
    if (s.sheaf n).state ≠ .detect || early then s
    else
      let s := s.emit (.pulse n)
      let s := s.modSheaf n (fun h => { h with
        lanes := lanes, pulses := if lanes = 0xFFFF then h.pulses + 1 else 0, pulseAt := some s.now })
      if 3 ≤ (s.sheaf n).pulses then s.sheafTo n .train else s)

/-- The control block of this side's next training frame; what its receiver asks of the far side is open (11 R295; log 7), and
nothing while the sheaf is up blind (R297). -/
def State.sendTrain (s : State) (n : Fin 20) : State :=
  let h := s.sheaf n
  let (w, s) := s.draw
  let req := if h.state = .blind then 0 else w.toNat % 7 + w.toNat / 8 % 3 * 16 + w.toNat / 32 % 3 * 64 + w.toNat / 128 % 3 * 256
  let v := req + h.tapStat.toNat * 1024 + b2n h.rxReady * 65536 + h.applied.toNat * 131072
  let c := BitVec.ofNat 85 (v + (crc8 (BitVec.ofNat 64 v) 64).toNat * 2 ^ 64)
  (s.modSheaf n (fun h => { h with tx := { h.tx with ctrl := c } })).emit (.train n c)

/-- What a received control block changes: the taps the far side asks for, and its RX_READY (11 R295). -/
def Sheaf.control (h : Sheaf) (c : BitVec 85) (ready : Bool) : Sheaf :=
  if (crc8 c 64).toNat ≠ fld c 71 64 then { h with frames := 0, rxReady := ready }
  else
    let p := fld c 3 0
    let h := if 1 ≤ p ∧ p ≤ 6 then { h with eq := presetTaps (fin 5 (p - 1)), applied := BitVec.ofNat 4 p } else h
    let (v, a) := tapStep h.eq 0 (fld c 5 4)
    let (v, b) := tapStep v 1 (fld c 7 6)
    let (v, d) := tapStep v 3 (fld c 9 8)
    { h with eq := v, tapStat := BitVec.ofNat 6 (a + 4 * b + 16 * d), rxReady := ready, frames := if bit c 16 then h.frames + 1 else 0 }

/-- TRAINING_FRAME: `ready` says that the local receiver meets R295 now. -/
def execTrainingFrame (n : Fin 20) (ctrl : BitVec 85) (ready : Bool) (s : State) : Answer :=
  .next (
    match (s.sheaf n).state with
    | .train =>
      let s := s.modSheaf n (fun h => h.control ctrl ready)
      let h := s.sheaf n
      if h.rxReady && decide (8 ≤ h.frames) then s.sheafTo n .lock else s
    | .blind => s.modSheaf n (fun h => { h with rxReady := ready })
    | _ => s)

/-- A timeout of a state: the sheaf has been in it for so many ps. -/
def State.stayed (s : State) (n : Fin 20) (st : SheafState) (ps : Nat) : Bool :=
  (s.sheaf n).state = st && decide ((s.sheaf n).since + ps ≤ s.now)

/-- TRAIN_TIMEOUT: 50 ms (11 Table 11.7). -/
def execTrainTimeout (n : Fin 20) (s : State) : Answer :=
  .next (if s.stayed n .train 50000000000 then s.trainFailed n 1 else s)

/-- LOCK_TIMEOUT: 1 ms, back to TRAIN (11 Table 11.7). -/
def execLockTimeout (n : Fin 20) (s : State) : Answer :=
  .next (if s.stayed n .lock 1000000000 then (s.modSheaf n (fun h => { h with fail := 2 })).sheafTo n .train else s)

/-- CAPS_TIMEOUT: 10 ms (11 Table 11.7). -/
def execCapsTimeout (n : Fin 20) (s : State) : Answer :=
  .next (if s.stayed n .caps 10000000000 then s.trainFailed n 3 else s)

/-- A Stem port locks blind (11 R297, 20 R609). -/
def State.stemLock (s : State) (p : Fin 4) : State := { s with sys := { s.sys with stemUp := s.sys.stemUp.set p true } }

/-- BLIND_BRING_UP: after 1 ms of training frames idle codewords and markers follow (11 R297). A Stem port then locks. -/
def execBlindBringUp (u : BlindUnit) (s : State) : Answer :=
  .next (
    match u with
    | .sheaf n => if s.stayed n .blind 1000000000 then s.emit (.idle u) else s
    | .stem p => if s.now < s.sys.stemAt + 1000000000 then s else (s.emit (.idle u)).stemLock p)

/-! Timebase (11 R298 to R303). -/

/-- D in units of 0.1 ns from a round trip in cc; how the last digit is rounded is open (log 7). -/
def State.delayOf (s : State) (trip : Nat) : State × Nat :=
  let f := 4 + s.clk.fcode.toNat
  let (w, s) := s.draw
  (s, if 100 * trip % f = 0 then 100 * trip / f else 100 * trip / f + w.toNat % 2)

/-- The latency figures of a delay (11 R300). -/
def Sheaf.latency (h : Sheaf) (d : Nat) : Sheaf :=
  { h with delay := BitVec.ofNat 12 d, schedCc := BitVec.ofNat 12 (ceilDiv (18 * (d + 40)) 100), holdCc := ceilDiv (18 * (d + 30)) 100 }

/-- C_M + ⌈D × f⌉ less the count at which marker M arrived here (11 R299). -/
def State.countOff (s : State) (n : Fin 20) : Option Int :=
  let h := s.sheaf n
  match h.cap, h.markAt with
  | some c, some (m, t) =>
    if m = c.m then some ((c.cm.toNat : Int) + (ceilDiv (h.delay.toNat * (4 + s.clk.fcode.toNat)) 200 : Nat) - (t : Int)) else none
  | _, _ => none

/-- A count as it reads after the global count has been stepped. -/
def stepBy (d : Int) (t : Nat) : Nat := ((t : Int) + d).toNat

/-- The global count is stepped, and with it every count that the block keeps of it: marker times, dynamic rows on their way,
zeroizations and clears in progress, ring rows held and markers due, the second copy of EPOCH. -/
def State.stepCount (s : State) (d : Int) : State :=
  let f := stepBy d
  let pkt (x : DynPkt) : DynPkt := { x with ready := f x.ready }
  let row (e : BitVec 10 × DynPkt) : BitVec 10 × DynPkt := (e.1, pkt e.2)
  let tx (x : LineTx) : LineTx := { x with mark := x.mark.map (fun e => (f e.1, e.2)), again := x.again.map row }
  let r := s.ring
  { s with
    cycle := f s.cycle
    sheaves := s.sheaves.map (fun h => { h with
      markAt := h.markAt.map (fun e => (e.1, f e.2)), dynRx := h.dynRx.map pkt, txq := h.txq.map pkt,
      unacked := h.unacked.map row, tx := tx h.tx })
    stalls := s.stalls.map (fun (x : Stall) =>
      let he := { x.he with queue := x.he.queue.map (fun z => { z with pkts := z.pkts.map pkt }) }
      { x with rt := { x.rt with inq := x.rt.inq.map (fun l => l.map pkt) }, he := he, clearing := x.clearing.map f })
    parts := s.parts.map (fun q => { q with zero := q.zero.map (fun z => (f z.1, z.2)) })
    clk := { s.clk with copyAt := s.clk.copyAt.map (fun e => (f e.1, e.2)) }
    ring := { r with
      held := r.held.map (fun h => { h with due := f h.due }), markers := r.markers.map (fun e => (f e.1, e.2)),
      t0 := r.t0.map f, acceptAt := r.acceptAt.map f, offAt := r.offAt.map f } }

/-- R298 for a sheaf in CAPS whose delay is measured. -/
def State.timebaseStep (s : State) (n : Fin 20) : State :=
  let h := s.sheaf n
  let l := s.link
  match h.cap with
  | none => s
  | some c =>
    if h.state ≠ .caps || !h.capAck || decide (h.probes < 64) || h.aligned || h.foreign || h.selfLoop then s
    else
      let far := BitVec.ofNat 13 (fld c.w0 28 16)
      let estab := bit c.w8 31
      let aligned (s : State) : State := s.modSheaf n (fun h => { h with aligned := true })
      let foreign (s : State) : State := (s.modSheaf n (fun h => { h with foreign := true })).linkEvent 0x3009 n
      match l.estab, estab with
      | false, true =>
        match s.countOff n with
        | none => s
        | some d =>
          let l := { l with
            estab := true, root := false, rootNode := BitVec.ofNat 13 (fld c.w8 28 16),
            dist := BitVec.ofNat 6 (fld c.w8 13 8 + 1), parent := some n }
          aligned ({ s with link := l }.stepCount d)
      | false, false =>
        if s.me < far then
          aligned { s with link := { l with estab := true, root := true, rootNode := s.me, dist := 0, parent := none } }
        else s
      | true, false => aligned s
      | true, true =>
        if fld c.w8 28 16 ≠ l.rootNode.toNat then foreign s
        else
          match s.countOff n with
          | none => s
          | some d => if d = 0 then aligned s else foreign s

/-- The facing port of a torus port (11 Table 11.1). -/
def facing (k : Nat) : Nat := if k % 2 = 0 then k + 1 else k - 1

/-- A far record shows miscabling (11 R296). -/
def State.miscabled (s : State) (n : Fin 20) (c : CapRecord) : Bool :=
  let k := (sheafPort n).val
  let port := fld c.w0 10 8
  (if k < 6 then port ≠ facing k else decide (port < 6)) || fld c.w0 5 4 ≠ sheafIndex n ||
  (portSheaves (sheafPort n)).any (fun m => m ≠ n && (match (s.sheaf m).state, (s.sheaf m).far with
    | .active, some (x, _, _) => x.toNat ≠ fld c.w0 28 16
    | .caps, some (x, _, _) => x.toNat ≠ fld c.w0 28 16
    | _, _ => false))

/-- A sheaf miscabled: it is FAILED; if a retrain took it out of ACTIVE, it leaves the keep mask as well (11 R296, R311). -/
def State.misfit (s : State) (n : Fin 20) : State :=
  let again := (s.sheaf n).retrain
  let s := (s.modSheaf n (fun h => { h with fail := 4 })).linkEvent 0x3006 n
  (if again then s.trainFailed n 4 else s).sheafTo n .failed

/-- CAPABILITY_RECORD (11 R296, R298, R319). -/
def execCapabilityRecord (n : Fin 20) (c : CapRecord) (s : State) : Answer :=
  .next (
    let h := s.sheaf n
    if h.state ≠ .caps then s
    else
      let seen := if h.cap = some c then h.capSeen + 1 else 1
      let node := BitVec.ofNat 13 (fld c.w0 28 16)
      let far := (node, BitVec.ofNat 3 (fld c.w0 10 8), BitVec.ofNat 2 (fld c.w0 5 4))
      let s := s.modSheaf n (fun h => { h with
        cap := some c, capSeen := seen, capAck := h.capAck || decide (3 ≤ seen), far := some far })
      if s.miscabled n c then s.misfit n
      else
        let s := if node = s.me && !h.selfLoop then (s.modSheaf n (fun h => { h with selfLoop := true })).linkEvent 0x3008 n else s
        s.timebaseStep n)

/-- CYC: the count goes back with its turnaround, in cc from its arrival to the codeword that returns it: the symbol waits with
the arrival's low bits in the place of the turnaround (11 R299; DEDUCED, log 65). -/
def execCyc (n : Fin 20) (count : BitVec 26) (s : State) : Answer :=
  .next (
    if (s.sheaf n).state ≠ .caps && (s.sheaf n).state ≠ .active then s
    else s.sendSymbol n 0xC (BitVec.ofNat 26 (count.toNat % 8192 * 8192 + s.cycle % 8192)))

/-- CYC_ECHO: a round trip; 64 of them give D and the latency figures (11 R299, R300). -/
def execCycEcho (n : Fin 20) (arg : BitVec 26) (s : State) : Answer :=
  .next (
    let h := s.sheaf n
    if h.state ≠ .caps then s
    else
      let trip := (s.cycle + 8192 - fld arg 25 13) % 8192 - fld arg 12 0
      let best := match h.bestTrip with | some b => min b trip | none => trip
      let s := s.modSheaf n (fun h => { h with probes := min (h.probes + 1) 64, bestTrip := some best })
      let s :=
        if h.probes = 63 then
          let (s, d) := s.delayOf best
          s.modSheaf n (fun h => h.latency d)
        else s
      let s := if h.probes < 63 then s.sendProbe n else s
      s.timebaseStep n)

/-- DRIFT_PROBE: the far count less this one's (11 R302). -/
def execDriftProbe (n : Fin 20) (diff : Int) (s : State) : Answer :=
  .next (
    let h := s.sheaf n
    if h.state ≠ .active || h.foreign || h.selfLoop || diff = 0 then s
    else (s.modSheaf n (fun h => { h with drift := true, driftBy := diff })).linkEvent 0x300A n)

/-- At an epoch boundary of the timing parent, with no dispatch running or queued, the count is realigned to the parent and
every CYC_DRIFT clears (11 R302). -/
def State.realign (s : State) : State :=
  match s.link.parent with
  | none => s
  | some n =>
    let d := (s.sheaf n).driftBy
    let drifts := s.sheaves.any (fun h => h.drift)
    if !drifts || ((s.cycle : Int) + d) % 65536 ≠ 0 || (List.finRange 64).any (fun p => (s.part p).dispatching) then s
    else
      let s := s.stepCount d
      { s with sheaves := s.sheaves.map (fun h => { h with drift := false, driftBy := 0 }) }

/-! Alignment markers. -/

/-- A comma at the expected spacing from the lane's last one: the marker period, within the skew that R292 tolerates
(DEDUCED, log 65). -/
def spaced (last : Option Nat) (now : Nat) : Bool :=
  match last with
  | some t => decide (t + markerPs ≤ now + skewPs ∧ now ≤ t + markerPs + skewPs)
  | none => false

/-- A comma on a lane: markers at the expected spacing count, another one begins the count anew (11 Table 11.7). -/
def Sheaf.comma (h : Sheaf) (lane : Fin 16) (inv : Bool) (pos : BitVec 4) (now : Nat) : Sheaf :=
  let k := if spaced h.laneAt[lane] now then h.markers[lane] + 1 else 1
  { h with
    lanePos := h.lanePos.set lane pos, inv := h.inv.set lane inv, markers := h.markers.set lane k,
    laneAt := h.laneAt.set lane (some now), missRun := h.missRun.set lane 0 }

/-- Lanes that their last commas deskew: no two further apart than 256 UI (11 R292). -/
def Sheaf.deskewed (h : Sheaf) : Bool :=
  let l := h.laneAt.toList.filterMap id
  l.length = 16 && l.all (fun a => l.all (fun b => decide (a ≤ b + skewPs)))

/-- LOCK's condition: three markers at the expected spacing on all lanes, deskewed, and 256 codewords in a row with no
uncorrectable one (11 Table 11.7). -/
def Sheaf.locked (h : Sheaf) (now : Nat) : Bool :=
  h.markers.all (fun m => decide (3 ≤ m)) && h.deskewed && decide (h.cleanAt + codewordPs 256 ≤ now)

/-- A loopback test whose sheaf has locked: its duration begins (17 R502). -/
def State.diagLocked (s : State) (n : Fin 20) : State :=
  match s.jobDiag with
  | some (k, m, t, 0) =>
    if m = n && (s.sheaf n).locked s.now then { s with jobDiag := some (k, m, t, s.now + fld (k.w 1) 15 0 * 1000000000) } else s
  | _ => s

/-- A sheaf in LOCK that meets its condition goes on to CAPS; one that is up blind has locked (11 Table 11.7, R297). -/
def State.lockCc (s : State) (n : Fin 20) : State :=
  match (s.sheaf n).state with
  | .lock => if (s.sheaf n).locked s.now then (s.sheafTo n .caps).sendProbe n else s
  | .blind => s.diagLocked n
  | _ => s

/-- A sheaf in CAPS has all that ACTIVE asks for (11 Table 11.7). -/
def Sheaf.capable (h : Sheaf) : Bool :=
  let acked : Bool := match h.cap with | some c => bit c.w0 31 | none => false
  acked && decide (3 ≤ h.capSeen) && (h.aligned || h.selfLoop || h.foreign) && decide (64 ≤ h.probes)

/-- ALIGNMENT_MARKER: 96 UI of a lane and the 74 after them, taken for a comma's run and its bits (11 R292, Table 11.7, R310). A sheaf that is up blind
takes them once its 1 ms of training has passed (R297). -/
def execAlignmentMarker (n : Fin 20) (lane : Fin 16) (run bits : List Pam) (s : State) : Answer :=
  let k := sheafPort n
  .next (
    match commaRead (run ++ bits) with
    | none => s
    | some (inv, c) =>
      let s := s.modSheaf n (fun h => { (h.comma lane inv (BitVec.ofNat 4 (fld c 3 0)) s.now) with
        markAt := some (BitVec.ofNat 16 (fld c 24 9), s.cycle) })
      match (s.sheaf n).state with
      | .lock => s.lockCc n
      | .blind =>
        if s.now < (s.sheaf n).since + 1000000000 then s.modSheaf n (fun h => { h with markers := h.markers.set lane 0 })
        else s.lockCc n
      | .caps =>
        let s := s.timebaseStep n
        if (s.sheaf n).capable then (s.sheafUp n).linkDone k else s
      | .active =>
        let s := match (s.port k).width with
          | some m => s.setKeep k m
          | none => s
        let s := if (s.sheaf n).state = .active && (s.sheaf n).atMark = some 1 then s.sheafTo n .train else s
        s.linkDone k
      | _ => s)

/-- Alignment markers that have not come where they were expected: each counts, and starts its lane's count anew (11 Table 11.10,
R311). -/
def Sheaf.missing (h : Sheaf) (now : Nat) : Sheaf :=
  (List.finRange 16).foldl (fun h lane =>
    match h.laneAt[lane] with
    | some t =>
      if t + (h.missRun[lane] + 1) * markerPs + skewPs < now then
        { h with markMiss := satAdd h.markMiss 1, missRun := h.missRun.set lane (h.missRun[lane] + 1), markers := h.markers.set lane 0 }
      else h
    | none => h) h

/-- The sheaf receives codewords (11 Table 11.7, R297). -/
def Sheaf.framed (h : Sheaf) : Bool := h.state = .lock || h.state = .caps || h.state = .active || h.state = .blind

/-- LOSS_OF_SIGNAL: every lane of an ACTIVE sheaf silent for 10 µs (11 Table 11.7). -/
def execLossOfSignal (n : Fin 20) (s : State) : Answer :=
  .next (if (s.sheaf n).state = .active then s.sheafTo n .detect else s)

/-- UNCORRECTABLE_CODEWORD: its scheduled rows are lost, and ring rows damage their frames (11 R308, 13 R375). -/
def execUncorrectableCodeword (n : Fin 20) (rows : Nat) (frames : List Nat) (s : State) : Answer :=
  .next (
    if !(s.sheaf n).framed then s
    else
      let s := s.modSheaf n (fun h => { h with fecUnc := satAdd h.fecUnc 1, cleanAt := s.now })
      if (s.sheaf n).state ≠ .active then s
      else
        let s := s.modSheaf n (fun h => { h with
          schedLost := satAdd h.schedLost rows,
          uncTimes := h.uncTimes.filter (fun t => decide (s.now < t + 1000000000)) ++ [s.now] })
        let s := if rows = 0 then s else s.linkEvent 0x3005 n
        if s.ringSheaf n then frames.foldl State.hurtFrame s else s)

/-- R311's conditions: two alignment markers in a row missing on a lane (`missed`), or more than 64 uncorrectable codewords within
1 ms. -/
def Sheaf.failing (h : Sheaf) (now : Nat) (missed : Bool) : Bool :=
  if missed then h.missRun.any (fun m => decide (2 ≤ m))
  else decide (64 < (h.uncTimes.filter (fun t => decide (now < t + 1000000000))).length)

/-- AUTOMATIC_RETRAIN of an ACTIVE sheaf that fails, for one of the two causes; it waits while the port has another request (11
R311). Otherwise it does nothing. -/
def execAutomaticRetrain (n : Fin 20) (missed : Bool) (s : State) : Answer :=
  let k := sheafPort n
  let me : BitVec 3 := (1 : BitVec 3) <<< sheafIndex n
  .next (
    let h := s.sheaf n
    let asked : Bool := (s.port k).retrain &&& me ≠ 0 ||
      (match (s.port k).job with | some j => j.kind = 1 && j.mask &&& me ≠ 0 | none => false)
    if h.state ≠ .active || !h.failing s.now missed || h.atMark.isSome || asked then s
    else
      let s := (s.modSheaf n (fun h => { h with uncTimes := [] })).linkEvent 0x3003 n
      if (s.port k).job.isSome then s.modPort k (fun x => { x with retrain := x.retrain ||| me })
      else s.linkAsk k 1 me none none)

/-! Rows on a sheaf (11 R307 to R309). -/

/-- The row of a tag as it goes on into the Market. -/
def arrivalOf (tag : BitVec 64) (data : Row) : Arrival :=
  { row := BitVec.ofNat 19 (tagRow tag), data := data, bad := 0, ctr := tagCtr tag, span := BitVec.ofNat 12 (tagSpan tag),
    sheaf := true, src := none, via := .plain }

/-- The partition of a scheduled row, and how far its span's schedule is past the row's release cycle, mod 4,096: none
with no dispatch running. -/
def State.rowLate (s : State) (tag : BitVec 64) : Option (Fin 64 × Nat) :=
  match s.spanPart (BitVec.ofNat 12 (tagSpan tag)) with
  | none => none
  | some p =>
    match (s.part p).disp, (s.part p).image with
    | some d, some i => some (p, (d.sched + 8192 - (tagStamp tag + i.hopLat) % 4096) % 4096)
    | _, _ => none

/-- Rows of scheduled slots may cross a sheaf: it is ACTIVE, on this timebase, no self-loop and no sheaf of the ring (11 R298,
R319, 13 R356). -/
def State.scheduled (s : State) (n : Fin 20) : Bool :=
  let h := s.sheaf n
  h.state = .active && !h.foreign && !h.selfLoop && !s.ringSheaf n

/-- A scheduled row that its sheaf cannot send: lost at the sheaf, with one event a codeword time (11 R298, R308, R311, R319). -/
def State.sheafLost (s : State) (n : Fin 20) : State :=
  let t := codewordsBy s.now
  let s := s.modSheaf n (fun h => { h with schedLost := satAdd h.schedLost 1 })
  if (s.sheaf n).lostAt = some t then s
  else (s.modSheaf n (fun h => { h with lostAt := some t })).linkEvent 0x3005 n

/-- SCHEDULED_ROW: into the receive delay buffer; a late row goes to the router and is dropped there, a stray one, or one
that finds the buffer full, at the sheaf; each counts in SCHED_LOST (11 R307, 10 R267). -/
def execScheduledRow (n : Fin 20) (tag : BitVec 64) (data : Row) (s : State) : Answer :=
  let lost (s : State) : State := s.modSheaf n (fun h => { h with schedLost := satAdd h.schedLost 1 })
  .next (
    let h := s.sheaf n
    if !s.scheduled n then s
    else
      match s.rowLate tag with
      | none => lost s
      | some (p, late) =>
        if late < 2048 then (lost s).marketDrop (sheafAt n).1 p (arrivalOf tag data)
        else if 4096 ≤ h.delayBuf.length then lost s
        else s.modSheaf n (fun h => { h with delayBuf := h.delayBuf ++ [⟨tag, data⟩] }))

/-- SHEAF_DELAY_RELEASE: rows whose release cycle is this one go to the router input (11 R307). A frozen span holds
them. -/
def execSheafDelayRelease (n : Fin 20) (s : State) : Answer :=
  .next (
    let due (r : DelayRow) : Option Flight := match s.rowLate r.tag with
      | some (p, 0) => match (s.part p).disp with
        | some d => if d.frozen then none
          else some { part := p, due := d.sched, node := (sheafAt n).1, inp := some (sheafAt n).2, arr := arrivalOf r.tag r.data }
        | none => none
      | _ => none
    let l := (s.sheaf n).delayBuf
    let s := s.modSheaf n (fun h => { h with delayBuf := l.filter (fun r => (due r).isNone) })
    { s with flights := s.flights ++ l.filterMap due })

/-- A dynamic row of a tag: for this module's Stall, or on its way to another node (10 R282). -/
def State.dynOf (s : State) (tag : BitVec 64) (data : Row) : DynPkt :=
  let mine := s.link.node = some (tagNode tag)
  { kind := if mine then 0 else 1, node := tagNode tag, stall := tagStall tag, src := tagStall tag,
    part := (s.spanPart (BitVec.ofNat 12 (tagSpan tag))).getD 0, win := 0, off := 0, first := false, ready := s.cycle,
    arr := arrivalOf tag data }

/-- DYNAMIC_ROW: accepted if it is number E and the sheaf's queue has room; else discarded, with NAK(E), once in 2 µs. A row
sent before is discarded without one (11 R309). -/
def execDynamicRow (n : Fin 20) (num : BitVec 10) (tag : BitVec 64) (data : Row) (s : State) : Answer :=
  .next (
    let h := s.sheaf n
    if h.state ≠ .active || s.ringSheaf n then s
    else if num = h.rxE && decide (h.dynRx.length < 64) then
      s.modSheaf n (fun h => { h with rxE := h.rxE + 1, dynRx := h.dynRx ++ [s.dynOf tag data] })
    else if 512 ≤ (num - h.rxE).toNat || h.nakTo.any (fun e => e.1 = h.rxE) then s
    else (s.sendSymbol n 8 (h.rxE.setWidth 26)).modSheaf n (fun h => { h with nakTo := some (h.rxE, s.now + 2000000) }))

/-- NAK_SUPPRESS_END (11 R309). Before its time it does nothing. -/
def execNakSuppressEnd (n : Fin 20) (s : State) : Answer :=
  .next (
    match (s.sheaf n).nakTo with
    | some e => if s.now < e.2 then s else s.modSheaf n (fun h => { h with nakTo := none })
    | none => s)

/-- ACK_DUE: 32 codewords have passed; the codeword that sends ACK carries E as it then stands (11 R309). -/
def execAckDue (n : Fin 20) (s : State) : Answer :=
  .next (if (s.sheaf n).state = .active then s.sendSymbol n 7 ((s.sheaf n).rxE.setWidth 26) else s)

/-- The tag of a dynamic row (11 Table 11.4). -/
def DynPkt.tag (d : DynPkt) : BitVec 64 := mkTag 2 d.arr.span d.arr.row d.arr.ctr d.stall.val (d.node.toNat * 4)

/-- Rows before E are released (11 R309). -/
def Sheaf.acked (h : Sheaf) (e : BitVec 10) (now : Nat) : Sheaf :=
  let old (r : BitVec 10 × DynPkt) : Bool := 512 ≤ (r.1 - e).toNat
  { h with
    unacked := h.unacked.filter (fun r => !old r), ackAt := if h.unacked.any old then now else h.ackAt,
    tx := { h.tx with again := h.tx.again.filter (fun r => !old r) } }

/-- Every unacknowledged row is to be sent again (11 R309). -/
def State.resend (s : State) (n : Fin 20) : State :=
  s.modSheaf n (fun h => { h with ackAt := s.now, tx := { h.tx with again := h.unacked } })

/-- ACK (11 R309). -/
def execAck (n : Fin 20) (arg : BitVec 26) (s : State) : Answer :=
  .next (if (s.sheaf n).state = .active then s.modSheaf n (fun h => h.acked (arg.setWidth 10) s.now) else s)

/-- NAK: rows from E on are sent again (11 R309). -/
def execNak (n : Fin 20) (arg : BitVec 26) (s : State) : Answer :=
  .next (if (s.sheaf n).state = .active then (s.modSheaf n (fun h => h.acked (arg.setWidth 10) s.now)).resend n else s)

/-- ACK_TIMEOUT: ACK has not advanced for 4 µs (11 R309). Before that it does nothing. -/
def execAckTimeout (n : Fin 20) (s : State) : Answer :=
  .next (
    let h := s.sheaf n
    if h.state ≠ .active || h.unacked.isEmpty || decide (s.now < h.ackAt + 4000000) then s else s.resend n)

/-! AUX_LOOPBACK (17 R502, 11 R297). -/

/-- DIAG AUX_LOOPBACK. -/
def execAuxLoopback (k : Packet) (s : State) : Answer :=
  let n := fld (k.w 0) 4 0
  let ms := fld (k.w 1) 15 0
  let i : Fin 20 := fin 19 n
  .next (s.command 0x7F k operator [0xFF00001F, 0xFFFF] (fun s =>
    match firstStatus [(fld (k.w 0) 31 24 ≠ 1 || !(n = 18 || n = 19) || ms = 0 || decide (60000 < ms), stBadParam),
        (s.jobDiag.isSome || s.ringSheaf i || (s.sheaf i).state = .active, stBusy)] with
    | some st => s.fail 0x7F k st
    | none => { (s.sheafTo i .blind) with jobDiag := some (k, i, s.now, 0) }))

/-- LOOPBACK_DURATION_END: the counts of the test; its test rows are not described, so the two row counts are open
(17 R502, Table 17.8; log 7). -/
def execLoopbackDurationEnd (s : State) : Answer :=
  .next (
    match s.jobDiag with
    | some (k, n, _, t) =>
      if t = 0 || decide (s.now < t) then s
      else
        let h := s.sheaf n
        let (a, s) := s.draw
        let (b, s) := s.draw
        { (s.sheafTo n .disabled) with jobDiag := none }.reply 0x7F k stOk [h.fecUnc, h.fecSym, a, b]
    | none => s)

/-- LOOPBACK_LOCK_TIMEOUT: the sheaf has not locked within 10 ms (17 R502). -/
def execLoopbackLockTimeout (s : State) : Answer :=
  .next (
    match s.jobDiag with
    | some (k, n, t, e) =>
      if e ≠ 0 || decide (s.now < t + 10000000000) then s
      else { (s.sheafTo n .disabled) with jobDiag := none }.fail 0x7F k stTimeout
    | none => s)

end Sys2Proof.Machine
end

