-- ==== Sys2Proof/Machine/Hop.lean ====
section
/-! DEFINITION. The Hop Engine's operations (10 R274 to R282), rows between the Stem and the hub (16 R447,
R448, R458, R459), and the response to a fetch. -/

namespace Sys2Proof.Machine

/-- The fields of a transfer descriptor (10 Table 10.3). -/
def xDkind (r : Vector Word 8) : Nat := fld r[4] 31 30
def xCtr (r : Vector Word 8) : Option (BitVec 9) := if bit r[4] 29 then some (BitVec.ofNat 9 (fld r[4] 28 20)) else none
def xRate (r : Vector Word 8) : Nat := 2 ^ fld r[4] 19 18
def xRows (r : Vector Word 8) : Nat := fld r[4] 11 0 + 1
def xNode (r : Vector Word 8) : BitVec 13 := BitVec.ofNat 13 (fld r[5] 28 16)
def xStall (r : Vector Word 8) : Fin 64 := fin 63 (fld r[5] 5 0)
def xWin (r : Vector Word 8) : Nat := fld r[7] 31 28
/-- The hub offset of iteration k, signed and without wrap (10 R274). -/
def xHub (r : Vector Word 8) (k : Nat) : Int :=
  ((r[6].toNat + 2 ^ 32 * fld r[7] 7 0 : Nat) : Int) + 128 * (k : Int) * r[5].toInt

/-- Bits reserved in every transfer descriptor are set, or DKIND is 3. -/
def xBad (r : Vector Word 8) : Bool :=
  r[2] ≠ 0 || r[3] ≠ 0 || fld r[4] 17 12 ≠ 0 || fld r[7] 27 8 ≠ 0 || xDkind r = 3

def heAgent : Agent := ⟨5, 5, 0, 0⟩

/-- An operation the Hop Engine discards (10 R278). -/
def State.heDrop (s : State) (st : Fin 64) : State :=
  (s.modHe st (fun h => { h with dropped := satAdd h.dropped 1 })).busyDrop st 5

/-- The span ID that rows of a partition carry (10 R279). -/
def State.spanOf (s : State) (p : Fin 64) : BitVec 12 := ((s.part p).span).getD 0

/-- One cycle of an HE_SEND: group j is read in cycle c + j and is at the router's L input in cycle c + j + 1 (10 R276). With
no dispatch running on its Stall the rows can reach no slot: they are dropped at this router (10 R637; DEDUCED, log 50). -/
def State.sendCc (s : State) (st : Fin 64) (src dst n rate : Nat) (ctr : Option (BitVec 9)) (span : BitVec 12) (o : Op) :
    State × Op :=
  let k := rate * o.t
  let (s, rows) := s.readRows st o.ag .read [] (rowsFrom (src + k) (min rate (n - k)))
  match s.running st with
  | none => (s.modRt st (fun x => { x with drop := satAdd x.drop rows.length }), o.next o.work)
  | some (p, _) =>
    let c := s.schedOf st
    let fl := rows.zipIdx.map (fun e : Row × Nat =>
      let a : Arrival :=
        { row := BitVec.ofNat 19 (dst + k + e.2), data := e.1, bad := 0, ctr := ctr, span := span, sheaf := false,
          src := some st, via := .plain }
      ({ part := p, due := c + 1, node := st, inp := some 4, arr := a } : Flight))
    ({ s with flights := s.flights ++ fl }, o.next o.work)

/-- An operation of the send unit issued, busy for its reading cycles. -/
def State.sendOp (s : State) (st : Fin 64) (opc : Byte) (n : Nat) (cc : State → Op → State × Op) (w : Work) : State :=
  s.startOp st cc { ag := heAgent, dst := heAgent, opc := opc, t := 0, busy := n, len := n, work := w }

/-- HE_SEND: a scheduled-class transfer (10 R276, R278). -/
def execHeSend (st : Fin 64) (w : Word) (s : State) : Answer :=
  .next (
    if !s.issues st then s
    else
      let (s, r) := s.record st w
      let k := (s.stl st).seq.iter (slotLsel w)
      let src := effAddr r[0] k
      let dst := effAddr r[1] k
      let n := xRows r
      match firstFault [(slotBad w || xBad r || xDkind r ≠ 0 || fld r[4] 19 18 = 3, fcReservedBit),
          (outRange src n || outRange dst n, fcAddrRange)] with
      | some f => s.bundleFault st 5 f
      | none =>
        if (s.stl st).busy 5 then s.heDrop st
        else
          match s.owner st with
          | none => s
          | some p =>
            let rate := xRate r
            let span := s.spanOf p
            s.sendOp st 1 (ceilDiv n rate) (fun s o => s.sendCc st src.toNat dst.toNat n rate (xCtr r) span o)
              (.send src.toNat dst.toNat n rate (xCtr r) span))

/-- Rows that the send unit has read, in the packets of their transfer from row `got` on. -/
def fillPkts (got : Nat) (rows : List Row) (pk : List DynPkt) : List DynPkt :=
  pk.zipIdx.map (fun e =>
    if got ≤ e.2 then
      match rows[e.2 - got]? with
      | some r => { e.1 with arr := { e.1.arr with data := r } }
      | none => e.1
    else e.1)

/-- One cycle of an HE_DSEND: four rows are read; once all are, the transfer may leave the dynamic queue from the next cycle
on (10 R277). -/
def State.dsendCc (s : State) (st : Fin 64) (fid src got : Nat) (pk : List DynPkt) (o : Op) : State × Op :=
  let (s, rows) := s.readRows st o.ag .read [] (rowsFrom (src + got) (min 4 (pk.length - got)))
  let pk := fillPkts got rows pk
  let got := got + rows.length
  let s := if pk.length ≤ got then
      s.modHe st (fun h => h.fill fid (pk.map (fun d => { d with ready := s.cycle + 1 })))
    else s
  (s, o.next (.dsend fid src got pk))

/-- HE_DSEND: a dynamic-class transfer, read at four rows a cc, with its place in the dynamic queue from its issue on (10
R277, R278). -/
def execHeDsend (st : Fin 64) (w : Word) (s : State) : Answer :=
  .next (
    if !s.issues st then s
    else
      let (s, r) := s.record st w
      let k := (s.stl st).seq.iter (slotLsel w)
      let kind := xDkind r
      let hub := kind = 2
      let src := effAddr r[0] k
      let dst := effAddr r[1] k
      let n := xRows r
      match firstFault [(slotBad w || xBad r || fld r[4] 11 5 ≠ 0, fcReservedBit),
          (outRange src n || (!hub && outRange dst n), fcAddrRange), (hub && xHub r k % 128 ≠ 0, fcAlign)] with
      | some f => s.bundleFault st 5 f
      | none =>
        let h := (s.stl st).he
        let s := s.modHe st (fun h => { h with issues := h.issues + 1 })
        if 16 ≤ h.issues || 32 ≤ h.queue.length || (s.stl st).busy 5 then s.heDrop st
        else
          match s.owner st with
          | none => s
          | some p =>
            let span := s.spanOf p
            let fid := s.fab.nextId
            let s := { s with fab := { s.fab with nextId := fid + 1 } }
            let pk := (List.range n).map (fun (i : Nat) =>
              let o := xHub r k + 128 * (i : Int)
              let a : Arrival :=
                { row := BitVec.ofNat 19 (dst.toNat + i), data := Row.zero, bad := 0, ctr := if hub then none else xCtr r,
                  span := span, sheaf := false, src := some st, via := .plain }
              ({ kind := BitVec.ofNat 2 kind, node := xNode r, stall := xStall r, src := st, part := p,
                 win := BitVec.ofNat 4 (xWin r), off := o, first := decide (i = 0) || o % 512 = 0,
                 ready := 0, arr := a } : DynPkt))
            let s := s.modHe st (fun h => { h with queue := h.queue ++ [{ fetch := false, pkts := [], left := n, fid := fid }] })
            s.sendOp st 2 (ceilDiv n 4) (fun s o => s.dsendCc st fid src.toNat 0 pk o) (.dsend fid src.toNat 0 pk))

/-- The rows of a transfer by request: no request crosses a 512-byte boundary of the offset, and window bases
are multiples of 4 KiB (16 R447). -/
def splitRows (o : Int) (rows : List (BitVec 19)) : List (Int × List (BitVec 19)) :=
  (rows.zipIdx.foldl (fun (acc : List (Int × List (BitVec 19))) e =>
    let a := o + 128 * (e.2 : Int)
    match acc with
    | (b, l) :: rest => if a % 512 = 0 then (a, [e.1]) :: acc else (b, l ++ [e.1]) :: rest
    | [] => [(a, [e.1])]) []).reverse

/-- A row from the hub on its way to a Stall (16 R448). -/
def downPkt (q : FetchReq) (row : BitVec 19) (data : Row) (bad : Word) : DynPkt :=
  let a : Arrival :=
    { row := row, data := data, bad := bad, ctr := q.ctr, span := q.span, sheaf := false, src := none, via := .fetch q.fid }
  { kind := 0, node := 0, stall := q.stall, src := q.stall, part := q.part, win := 0, off := 0, first := false,
    ready := 0, arr := a }

/-- Rows handed to a Stem port toward the Stalls. -/
def State.down (s : State) (f : Fin 4) (l : List DynPkt) : State :=
  { s with fab := { s.fab with downq := s.fab.downq.set f (s.fab.downq[f] ++ l) } }

/-- One request of a fetch at its Stem port: checked, then in the matrix, or its rows delivered as zeros
(16 R458, R459). -/
def State.fetchReq (s : State) (f : Fin 4) (q : FetchReq) (w : Nat) (o : Int) : State :=
  match s.window q.part w o (128 * q.rows.length) false with
  | .error c => (s.winFail q.part q.stall w c o false).down f (q.rows.map (fun r => downPkt q r Row.zero 0))
  | .ok (kind, a) =>
    let q := { q with kind := BitVec.ofNat 2 kind, addr := a }
    let l := s.fab.fetches[f] ++ [(s.fab.nextId, q)]
    { s with fab := { s.fab with fetches := s.fab.fetches.set f l, nextId := s.fab.nextId + 1 } }

/-- HE_FETCH: a dynamic-class fetch through a hub window (10 R277, R280). -/
def execHeFetch (st : Fin 64) (w : Word) (s : State) : Answer :=
  .next (
    if !s.issues st then s
    else
      let (s, r) := s.record st w
      let k := (s.stl st).seq.iter (slotLsel w)
      let dst := effAddr r[1] k
      let n := xRows r
      match firstFault [(slotBad w || xBad r || xDkind r ≠ 2, fcReservedBit), (outRange dst n, fcAddrRange),
          (xHub r k % 128 ≠ 0, fcAlign)] with
      | some f => s.bundleFault st 5 f
      | none =>
        let h := (s.stl st).he
        let s := s.modHe st (fun h => { h with issues := h.issues + 1 })
        if 16 ≤ h.issues || 32 ≤ h.queue.length then s.heDrop st
        else
          match s.owner st with
          | none => s
          | some p =>
            let fid := s.fab.nextId
            let s := { s with fab := { s.fab with nextId := fid + 1 } }
            let s := s.modHe st (fun h => { h with queue := h.queue ++ [⟨true, [], n, fid⟩] })
            let rows := (List.range n).map (fun i => BitVec.ofNat 19 (dst.toNat + i))
            (splitRows (xHub r k) rows).foldl (fun s e =>
              let q : FetchReq :=
                { stall := st, part := p, span := s.spanOf p, kind := 0, addr := 0, rows := e.2, ctr := xCtr r,
                  fid := fid, since := s.now }
              s.fetchReq (fieldOf st) q (xWin r) e.1) s)

/-- FETCH_RESPONSE: the response to a request that holds a transaction ID; a Granary block that is bad gives
rows with every parity bit inverted (16 R446, R448, 15 Table 15.2). A Granary request waits its turn (15 R433). -/
def execFetchResponse (port : Fin 4) (id : Nat) (glitch : Bool) (s : State) : Answer :=
  .next (
    match (s.fab.fetches[port].take 128).find? (fun e => e.1 = id) with
    | none => s
    | some (_, q) =>
      if q.kind = 2 && s.granWaits 2 q.since then s
      else
      let n := 128 * q.rows.length
      let (s, bs, ok) := s.hubRead q.part q.kind.toNat q.addr n glitch
      let rows := rowsOf q.rows.length (bytesWords bs)
      let l := (q.rows.zip rows).map (fun e => downPkt q e.1 e.2 (if ok then 0 else 0xFFFFFFFF))
      let left := s.fab.fetches[port].filter (fun e => e.1 ≠ id)
      { s with fab := { s.fab with fetches := s.fab.fetches.set port left } }.down port l)

end Sys2Proof.Machine
end

