-- ==== Sys2Proof/Machine/Regmap.lean ====
section
/-! DEFINITION. The register map: the blocks of the operator and tenant views (21 R626, Tables 21.4, 21.5, 21.7),
the paths of Table 16.2, FAB.BADACC (16 R443), and the registers inside lockable ranges that a write can
change while a lock holds it (16 R463). -/

namespace Sys2Proof.Machine

/-- A register's block and its offset there; a register of a partition has its tenant-view offset. -/
inductive Reg where
  | sys (o : Nat)
  | cmdq (f : Fin 65) (o : Nat)
  | part (p : Fin 64) (o : Nat)
  | serve (p : Fin 64) (o : Nat)
  | journal
  | ledger (p : Fin 64) (o : Nat)
  | close (p : Fin 64) (k : Nat)
  | fab (o : Nat)
  | winView (p : Fin 64) (o : Nat)
  | hwin (p : Fin 64) (w : Fin 16) (r : Fin 4)
  | pwr (o : Nat)
  | clk (o : Nat)
  | telem (o : Nat)
  | chain (o : Nat)
  | gran (o : Nat)
  | sec (o : Nat)
  | link (o : Nat)
  | stall (st : Fin 64) (o : Nat)
deriving DecidableEq, Repr

/-- The block of an operator-view offset (21 Tables 21.4, 21.7, 21.8). -/
def regOp (a : Nat) : Option Reg :=
  if a < 0x1000 then some (.sys a)
  else if a < 0x2000 then some (.cmdq 0 (a - 0x1000))
  else if 0x12000 ≤ a ∧ a < 0x13000 then some (.part (fin 63 ((a - 0x12000) / 0x40)) ((a - 0x12000) % 0x40))
  else if 0x14000 ≤ a ∧ a < 0x15000 then some (.part (fin 63 ((a - 0x14000) / 0x40)) (0x100 + (a - 0x14000) % 0x40))
  else if 0x21000 ≤ a ∧ a < 0x21400 then some (.serve (fin 63 ((a - 0x21000) / 0x10)) (0x300 + (a - 0x21000) % 0x10))
  else if 0x24000 ≤ a ∧ a < 0x2C000 then some (.serve (fin 63 ((a - 0x24000) / 0x200)) ((a - 0x24000) % 0x200))
  else if a = 0x30000 then some .journal
  else if 0x31000 ≤ a ∧ a < 0x35000 then some (.ledger (fin 63 ((a - 0x31000) / 0x100)) ((a - 0x31000) % 0x100))
  else if 0x38000 ≤ a ∧ a < 0x3C000 then some (.close (fin 63 ((a - 0x38000) / 0x100)) ((a - 0x38000) % 0x100 / 4))
  else if 0x40000 ≤ a ∧ a < 0x41000 then some (.fab (a - 0x40000))
  else if 0x41000 ≤ a ∧ a < 0x45000 then
    some (.hwin (fin 63 ((a - 0x41000) / 0x100)) (fin 15 ((a - 0x41000) % 0x100 / 16)) (fin 3 (a % 16 / 4)))
  else if 0x50000 ≤ a ∧ a < 0x51000 then some (.pwr (a - 0x50000))
  else if 0x51000 ≤ a ∧ a < 0x52000 then some (.clk (a - 0x51000))
  else if 0x52000 ≤ a ∧ a < 0x53000 then some (.telem (a - 0x52000))
  else if 0x53000 ≤ a ∧ a < 0x54000 then some (.chain (a - 0x53000))
  else if 0x54000 ≤ a ∧ a < 0x55000 then some (.gran (a - 0x54000))
  else if 0x55000 ≤ a ∧ a < 0x56000 then some (.sec (a - 0x55000))
  else if 0x60000 ≤ a ∧ a < 0x70000 then some (.link (a - 0x60000))
  else if 0x400000 ≤ a ∧ a < 0x800000 then some (.stall (fin 63 ((a - 0x400000) / 0x10000)) (a % 0x10000))
  else none

/-- The register of a tenant-view offset (21 Table 21.5). -/
def regTenant (p : Fin 64) (a : Nat) : Option Reg :=
  if a < 8 then some (.sys a)
  else if 0x1000 ≤ a ∧ a < 0x1060 then some (.cmdq (vfOf p) (a - 0x1000))
  else if 0x2000 ≤ a ∧ a < 0x2028 then some (.part p (a - 0x2000))
  else if 0x2100 ≤ a ∧ a < 0x211C then some (.part p (a - 0x2000))
  else if 0x3010 ≤ a ∧ a < 0x3180 then some (.serve p (a - 0x3000))
  else if 0x3300 ≤ a ∧ a < 0x330C then some (.serve p (a - 0x3000))
  else if 0x4000 ≤ a ∧ a < 0x4084 then some (.ledger p (a - 0x4000))
  else if a = 0x5020 ∨ a = 0x5024 then some (.winView p (a - 0x5000))
  else if 0x5100 ≤ a ∧ a < 0x5200 then some (.hwin p (fin 15 ((a - 0x5100) / 16)) (fin 3 (a % 16 / 4)))
  else none

/-- The register a requester names; every agent but a virtual function uses the operator view. -/
def regAt (rq : Requester) (off : BitVec 24) : Option Reg :=
  match rq with
  | .host f => match partOfFn f with
    | some p => regTenant p off.toNat
    | none => regOp off.toNat
  | _ => regOp off.toNat

/-- PROT covers the PART, SEC and LEDGER blocks; STEM is the STALL space (16 Table 16.2). -/
def Reg.prot : Reg → Bool
  | .part _ _ => true
  | .journal => true
  | .ledger _ _ => true
  | .close _ _ => true
  | .sec _ => true
  | _ => false

def Reg.ledgerBlock : Reg → Bool
  | .journal => true
  | .ledger _ _ => true
  | .close _ _ => true
  | _ => false

/-- The paths of 16 Table 16.2: an initiator may read a register. W and L are paths of writes only, so the SP reads neither the
STALL space nor a PROT block over the matrix. -/
def mayRead (rq : Requester) (r : Reg) : Bool :=
  match rq, r with
  | .pp, .pwr _ => true
  | .pp, .clk _ => true
  | .pp, .telem _ => true
  | .pp, r => r.ledgerBlock
  | .serving, .serve _ _ => true
  | .serving, _ => false
  | .sp, .stall _ _ => false
  | .sp, r => !r.prot
  | _, _ => true

/-- The paths of 16 Table 16.2 and 18 R507: an initiator may write a register. The chain writes CHAIN registers,
PWR.LIMIT and SYS.RESET (20 Table 20.4). The SP's paths hold only inside a locked sequence. -/
def mayWrite (rq : Requester) (r : Reg) : Bool :=
  match rq, r with
  | .host f, .part _ o => f.val = 0 && (o = 0x18 || o = 0x1C)
  | .host _, r => !r.prot
  | .mp, r => !r.prot
  | .sp, .stall _ _ => true
  | .sp, r => r.prot
  | .pp, .pwr _ => true
  | .pp, .clk _ => true
  | .pp, .telem _ => true
  | .pp, _ => false
  | .serving, .serve _ _ => true
  | .serving, .stall _ _ => true
  | .serving, _ => false
  | .chain, .chain _ => true
  | .chain, .pwr o => o = 4
  | .chain, .sys o => o = 0x24
  | .chain, _ => false

/-- FAB.BADACC's number of an initiator (16 Tables 16.3, 16.7). The chain has no port of the matrix: its number is
open (log 7). -/
def State.initIx (s : State) (rq : Requester) : State × Nat :=
  match rq with
  | .host _ => (s, 0)
  | .mp => (s, 1)
  | .sp => (s, 2)
  | .pp => (s, 3)
  | .serving => (s, 4)
  | .chain => let (w, s) := s.draw; (s, w.toNat % 16)

/-- An access is recorded in FAB.BADACC, if its VALID is 0 (16 Table 16.7). -/
def State.badAccAt (s : State) (reason ix : Nat) (off : BitVec 24) : State :=
  if bit s.fab.badacc 31 then s
  else
    { s with fab := { s.fab with
      badacc := pack [(1, 31), (reason, 28), (ix, 24), (off.toNat, 0)],
      bitsNew := (s.fab.bitsNew.1, true, s.fab.bitsNew.2.2) } }
def State.badAcc (s : State) (reason : Nat) (rq : Requester) (off : BitVec 24) : State :=
  let (s, ix) := s.initIx rq
  s.badAccAt reason ix off

/-! Registers that a write may change while a lock holds it back. -/

/-- SERVE.REQ_TAIL written (14 R386): dropped at or above the ring's entry count, which is 0 with no context. A faulted
context answers each entry at once (14 R414). -/
def State.putReqTail (s : State) (p : Fin 64) (v : Word) : State :=
  let t := fld v 11 0
  match (s.part p).ctx with
  | none => s
  | some c =>
    if c.state = 0 || decide (c.reqRing.2 ≤ t) then s
    else
      let s := s.modPart p (fun q => { q with reqTail := BitVec.ofNat 12 t })
      if c.state = 2 then s.flushReqs p c.status false 4096 else s

/-- Overflow replies of a ring move to it while it has room (14 R387). -/
def State.drainReplies (s : State) (p : Fin 64) (k : Fin 16) : Nat → State
  | 0 => s
  | n + 1 =>
    match (s.part p).ctx with
    | none => s
    | some c =>
      let q := s.part p
      let size := (c.repRings.getD k.val (0, 16)).2
      match c.overflow.find? (fun e => e.1 = k.val) with
      | none => s
      | some e =>
        if ringNext q.repTail[k] size = q.repHead[k] then s
        else
          let rest := c.overflow.erase e
          let mine := rest.filter (fun x => x.1 = k.val)
          let other := rest.filter (fun x => x.1 ≠ k.val)
          let s := s.modPart p (fun q => { q with ctx := some { c with overflow := other } })
          let s := s.servePut p k.val e.2
          let s := s.modPart p (fun q => { q with ctx := q.ctx.map (fun c => { c with overflow := mine ++ c.overflow }) })
          State.drainReplies s p k n

/-- Some overflow of the context is full (14 R387). -/
def Serving.full (c : Serving) : Bool :=
  (List.range 16).any (fun k => decide (64 ≤ (c.overflow.filter (fun e => e.1 = k)).length))

/-- SERVE.REP_HEAD[k] written (14 R387). -/
def State.putRepHead (s : State) (p : Fin 64) (k : Fin 16) (v : Word) : State :=
  let s := s.modPart p (fun q => { q with repHead := q.repHead.set k (BitVec.ofNat 12 (fld v 11 0)) })
  let n := match (s.part p).ctx with | some c => c.overflow.length | none => 0
  let s := s.drainReplies p k n
  s.modPart p (fun q => { q with ctx := q.ctx.map (fun c => { c with blocked := c.blocked && c.full }) })

/-- One of the four words of a hub window written (16 Table 16.4). -/
def Hwin.put (w : Hwin) (r : Fin 4) (v : Word) : Hwin :=
  match r.val with
  | 0 => { w with ctl := v &&& 0xE3000FFF }
  | 1 => { w with baseLo := v &&& 0xFFFFF000 }
  | 2 => { w with baseHi := v }
  | _ => { w with size := v &&& 0x0FFFFFFF }
def State.putHwin (s : State) (p : Fin 64) (w : Fin 16) (r : Fin 4) (v : Word) : State :=
  s.modPart p (fun q => { q with hwin := q.hwin.set w (q.hwin[w].put r v) })

/-- A W1C bit after a write: a 1 clears it, unless it was set in this cc (00 R12, R15). -/
def cleared (b now one : Bool) : Bool := b && (now || !one)

/-- A write of the STALL space (04 R133, Table 4.7, 02 Table 2.4, 08 Table 8.8, 09 Table 9.9). Writing 1 to VALID of a
capture clears VALID and MORE (08 R634), unless the capture is of this cc; a counter's overflow is found at the end of its cc
(00 R15). -/
def State.putStall (s : State) (st : Fin 64) (o : Nat) (v : Word) : State :=
  let clr (c : Capture) : Capture :=
    if bit v 31 && c.cc ≠ BitVec.ofNat 64 s.cycle then { c with valid := false, more := 0 } else c
  if o < 0x800 then
    if (s.running st).isSome then s
    else s.modSeq st (fun q => { q with tally := q.tally.set (fin 511 (o / 4)) (BitVec.ofNat 24 (fld v 23 0)) })
  else if o = 0xD00 then s.modPad st (fun d =>
    { d with tallyOvf := d.tallyOvf && !bit v 31, scrubLate := cleared d.scrubLate d.bitsNew.2 (bit v 30),
             logOvf := cleared d.logOvf d.bitsNew.1 (bit v 29) })
  else if o = 0xE00 then s.modHz st (fun h => { h with cap := clr h.cap })
  else if o = 0x1220 then s.modXl st (fun x => { x with xf := clr x.xf })
  else if o = 0x1310 then s.modSeq st (fun q => { q with fault := clr q.fault })
  else s

/-- A write of a register that some lock covers. The SP writes the fields of a partition table entry that Table
18.1 gives it; a write of any other field has no effect. -/
def State.putLockable (s : State) (w : HeldWrite) : State :=
  let v := w.v
  match regAt w.rq w.off with
  | some (.part p o) =>
    if o = 0x18 then s.modPart p (fun q => { q with account := v })
    else if o = 0x1C then s.modPart p (fun q => { q with keymask := BitVec.ofNat 8 (fld v 7 1 * 2) })
    else if w.rq ≠ .sp then s
    else if o = 0 then s.modPart p (fun q => { q with state := BitVec.ofNat 2 (fld v 31 30), depot := bit v 28 })
    else if o = 8 then s.modPart p (fun q => { q with stalls := dword v (hiW q.stalls) })
    else if o = 0xC then s.modPart p (fun q => { q with stalls := dword (loW q.stalls) v })
    else if o = 0x10 then s.modPart p (fun q => { q with hubBase := fld v 26 16, hubPages := fld v 11 0 })
    else if o = 0x20 then s.modPart p (fun q => { q with createSeq := dword v (hiW q.createSeq) })
    else if o = 0x24 then s.modPart p (fun q => { q with createSeq := dword (loW q.createSeq) v })
    else s
  | some (.serve p o) =>
    if o = 0x10 then s.putReqTail p v
    else if 0x40 ≤ o ∧ o < 0xC0 ∧ o % 8 = 0 then s.putRepHead p (fin 15 ((o - 0x40) / 8)) v
    else s
  | some (.hwin p i r) => if (s.part p).dispatching then s.badAcc 3 w.rq w.off else s.putHwin p i r v
  | some (.stall st o) => s.putStall st o v
  | _ => s

/-! Locks (16 R461 to R464). -/

/-- A lockable range covers a register (16 Table 16.6). -/
def State.covers (s : State) (l : LockRange) (r : Reg) : Bool :=
  match l, r with
  | .partTable, .part _ o => decide (o < 0x100)
  | .keys, .sec _ => true
  | .partition p, .part q o => q = p && decide (o < 0x100)
  | .partition p, .ledger q _ => q = p
  | .partition p, .hwin q _ _ => q = p
  | .partition p, .serve q _ => q = p
  | .partition p, .stall st _ => (s.part p).stalls.getLsbD st.val
  | _, _ => false

/-- The lock held covers a register. -/
def State.locked (s : State) (r : Reg) : Bool := match s.fab.lock with | some l => s.covers l r | none => false

/-- A lock is taken until a time in ps. -/
def State.takeLock (s : State) (l : LockRange) (limit : Nat) : State :=
  { s with fab := { s.fab with lock := some l, lockTo := s.now + limit, staged := [], heldWr := [] },
           lockWas := some ⟨s.parts, s.stalls, s.keys⟩ }

/-- The lock ends: its staged writes take effect or not, then the held writes in arrival order. -/
def State.dropLock (s : State) (commit : Bool) : State :=
  let l := (if commit then s.fab.staged else []) ++ s.fab.heldWr
  let s := { s with fab := { s.fab with lock := none, staged := [], heldWr := [] }, lockWas := none }
  l.foldl State.putLockable s

/-- FAB.STATUS (16 Table 16.7). -/
def Fab.status (f : Fab) : Word :=
  let (cls, p) : Nat × Nat := match f.lock with
    | some .partTable => (1, 0)
    | some .keys => (2, 0)
    | some (.partition p) => (3, p.val)
    | none => (0, 0)
  pack [(b2n f.draining, 31), (b2n f.lock.isSome, 30), (b2n f.expired, 29), (cls, 24), (p, 16)]

/-- The time limit has passed (16 R464). -/
def State.expireLock (s : State) : State :=
  let s := s.dropLock false
  let s := { s with fab := { s.fab with expired := true, bitsNew := (true, s.fab.bitsNew.2) } }
  s.raise 0x7030 none false s.fab.status 0

/-- A write that a lock covers: staged for the SP, held for others; a 65th staged write ends the sequence
(16 R462, R463; log 24). -/
def State.underLock (s : State) (w : HeldWrite) : State :=
  if w.rq = .sp then
    if 64 ≤ s.fab.staged.length then s.expireLock
    else { s with fab := { s.fab with staged := s.fab.staged ++ [w] } }
  else { s with fab := { s.fab with heldWr := s.fab.heldWr ++ [w] } }

end Sys2Proof.Machine
end

