-- ==== Sys2Proof/Machine/Fabric.lean ====
section
/-! DEFINITION. Commands of the bus matrix: fences (16 R450), timeouts (16 R456), locked sequences (16 R461 to
R464), hub windows (16 R457), and the rings' doorbells of a serving context (14 R386, R387). -/

namespace Sys2Proof.Machine

/-- FENCE: every write of this model takes effect in the cycle of its command, so a fence finds none to wait for
(16 R450). -/
def execFence (_rq : Requester) (s : State) : Answer := .next s

/-- One millisecond in ps. -/
def ps1ms : Nat := 1000000000

/-- A request ended by R456: counted, and the first of a millisecond recorded and reported. -/
def State.timedOut (s : State) (port : Nat) (off : BitVec 24) : State :=
  let ms := s.now / ps1ms
  let s := { s with fab := { s.fab with timeouts := satAdd s.fab.timeouts 1 } }
  if s.fab.toldMs = some ms then s
  else
    let s := { s with fab := { s.fab with toldMs := some ms } }
    (s.badAccAt 4 port off).raise 0x1052 none false (BitVec.ofNat 32 port) (off.setWidth 32)

/-- The processor at an initiator port. -/
def portAgent (port : Fin 9) : Option Requester :=
  match port.val with
  | 1 => some .mp
  | 2 => some .sp
  | 3 => some .pp
  | 4 => some .serving
  | _ => none

/-- FABRIC_TIMEOUT: a request of an initiator port has had no answer for 1 ms (16 R456). A processor's read
returns 0xFFFF_FFFF; a Stem port's oldest fetch request of that age delivers rows of zeros; a posted write is
dropped, at a Stem port the oldest one, of that age. -/
def execFabricTimeout (port : Fin 9) (posted : Bool) (off : BitVec 24) (s : State) : Answer :=
  .next (
    if port.val < 5 then
      let s := s.timedOut port.val off
      match portAgent port, posted with
      | some rq, false => s.emit (.read rq 0xFFFFFFFF)
      | _, _ => s
    else
      let f : Fin 4 := fin 3 (port.val - 5)
      if posted then
        match s.fab.hubq[f] with
        | [] => s
        | d :: l =>
          if s.now < d.ready + ps1ms then s
          else { s with fab := { s.fab with hubq := s.fab.hubq.set f l } }.timedOut port.val off
      else
        match (s.fab.fetches[f].take 128).find? (fun e => decide (e.2.since + ps1ms ≤ s.now)) with
        | none => s
        | some (id, q) =>
          let left := s.fab.fetches[f].filter (fun e => e.1 ≠ id)
          let s := { s with fab := { s.fab with fetches := s.fab.fetches.set f left } }
          (s.down f (q.rows.map (fun r => downPkt q r Row.zero 0))).timedOut port.val off)

/-- LOCK_ACQUIRE: the SP takes one lock, for a time limit in µs from 1 to 100,000 (16 R461). -/
def execLockAcquire (range : LockRange) (limit : Nat) (s : State) : Answer :=
  .next (if s.fab.lock.isSome || limit = 0 || decide (100000 < limit) then s else s.takeLock range (limit * 1000000))

/-- A zeroization holds the lock. -/
def State.zeroLock (s : State) : Bool :=
  match s.fab.lock with
  | some (.partition p) => (s.part p).zero.isSome
  | _ => false

/-- LOCK_RELEASE: the staged writes take effect, then the held ones (16 R462). The lock of a zeroization is
released by its last step. -/
def execLockRelease (s : State) : Answer :=
  .next (if s.fab.lock.isNone || s.zeroLock then s else s.dropLock true)

/-- LOCK_EXPIRED: the time limit passes before release (16 R464). Before that it does nothing. -/
def execLockExpired (s : State) : Answer :=
  .next (if s.fab.lock.isNone || decide (s.now < s.fab.lockTo) then s else s.expireLock)

/-- HWIN_WRITE: a write of a hub window register; dropped while a dispatch is running or queued, and held while a
lock covers it (16 R457, R463). -/
def execHwinWrite (rq : Requester) (off : BitVec 24) (v : Word) (s : State) : Answer :=
  .next (s.viaMatrix rq off (some v) (fun s =>
    match regAt rq off with
    | some (.hwin p w r) =>
      if off.toNat % 4 ≠ 0 then s.badAcc 1 rq off
      else if !mayWrite rq (.hwin p w r) then s.badAcc 2 rq off
      else if s.locked (.hwin p w r) then s.underLock ⟨rq, off, v⟩
      else if (s.part p).dispatching then s.badAcc 3 rq off
      else s.putHwin p w r v
    | _ => s))

/-- REQ_TAIL: a write to SERVE.REQ_TAIL of a partition, on its own view (14 R386). -/
def execReqTail (p : Fin 64) (v : Word) (s : State) : Answer :=
  .next (s.viaMatrix (.host (vfOf p)) 0x3010 (some v) (fun s =>
    if s.locked (.serve p 0x10) then s.underLock ⟨.host (vfOf p), 0x3010, v⟩ else s.putReqTail p v))

/-- REP_HEAD: a write to SERVE.REP_HEAD[k] of a partition, on its own view (14 R387). -/
def execRepHead (p : Fin 64) (k : Fin 16) (v : Word) (s : State) : Answer :=
  let off : BitVec 24 := BitVec.ofNat 24 (0x3040 + 8 * k.val)
  .next (s.viaMatrix (.host (vfOf p)) off (some v) (fun s =>
    if s.locked (.serve p (0x40 + 8 * k.val)) then s.underLock ⟨.host (vfOf p), off, v⟩ else s.putRepHead p k v))

end Sys2Proof.Machine
end

