-- ==== Sys2Proof/Machine/Ledger.lean ====
section
/-! DEFINITION. The Ledger: records (18 R527 to R530), the journal (18 R531, 19 R539), LEDGER_READ and
LEDGER_SEAL (17 R500), the second and checkpoint timers. -/

namespace Sys2Proof.Machine

/-- Record kinds (18 Table 18.9). -/
def kindSeal : Nat := 1
def kindClose : Nat := 2
def kindCheckpoint : Nat := 3
def kindLoss : Nat := 4

/-- A Ledger record's fields beside the counters (18 Table 18.9). -/
structure RecordHead where
  kind     : Nat
  replayed : Bool
  unacc    : Bool
  seq      : DWord
  sealSeq  : Word
  boot     : Word
  cycle    : Nat
  ticks    : Nat
  nonce    : DWord
  lossFrom : DWord
  lossTo   : DWord
  account  : Word
deriving DecidableEq, Repr

/-- The 64 words of a record (18 Table 18.9): 52 words and the HMAC over them with the ledger seal key. -/
def recordWords (p : Fin 64) (h : RecordHead) (cnt : List DWord) : List Word :=
  let two (d : DWord) : List Word := [loW d, hiW d]
  let body : List Word :=
    [0x4C444752, pack [(h.kind, 24), (b2n h.replayed, 17), (b2n h.unacc, 16), (Config.keyId.toNat, 8), (p.val, 0)]] ++
    two Config.uid ++ two h.seq ++ [h.sealSeq, h.boot] ++ two (BitVec.ofNat 64 h.cycle) ++
    two (BitVec.ofNat 64 h.ticks) ++ two h.nonce ++ two h.lossFrom ++ two h.lossTo ++ [h.account, 0] ++
    cnt.flatMap two
  body ++ bytesWords (hmac384 Config.sealKey (wordsBytes body))

/-- A record of a partition's counters as they stand in this cycle (18 R528, R529). -/
def State.ledgerRecord (s : State) (p : Fin 64) (kind : Nat) (nonce : DWord) (num : Word) : List Word :=
  let q := s.part p
  recordWords p
    { kind := kind, replayed := false, unacc := false, seq := q.createSeq, sealSeq := num, boot := s.sys.boot,
      cycle := s.cycle, ticks := s.pwr.ticks, nonce := nonce, lossFrom := 0, lossTo := 0, account := q.account }
    q.cnt.toList

/-! The journal buffer (19 R539). -/

/-- A record or a directory update written to flash. The journal keeps at most 131,072 − 1,024 records of 256 bytes
(18 R531, 19 R571). -/
def State.inJournal (s : State) (j : JournalItem) : State :=
  match j with
  | .record _ ws =>
    let l := s.journal ++ [ws]
    { s with journal := l.drop (l.length - 130048), journalN := s.journalN + 1 }
  | .directory id (some r) => { s with dirFlash := s.dirFlash.set id r }
  | .directory id none => { s with dirFlash := s.dirFlash.del id }

/-- A CHECKPOINT record of a partition enters the buffer. -/
def State.checkpointOf (s : State) (p : Fin 64) : State :=
  s.toJournal (.record (BitVec.ofNat 6 p.val) (s.ledgerRecord p kindCheckpoint 0 0))

/-- The partitions that exist (18 R506). -/
def State.existing (s : State) : List (Fin 64) := (List.finRange 64).filter (fun p => (s.part p).exists')

/-- CHECKPOINT: every 131,072 ticks, one for each existing partition (18 R531). -/
def execCheckpoint (s : State) : Answer :=
  .next (if s.pwr.ticks % 131072 ≠ 0 then s else s.existing.foldl (fun s p => s.checkpointOf p) s)

/-- MiB of the regions that a partition owns. -/
def Granary.ownedMib (g : Granary) (p : Fin 64) : Nat :=
  (g.dir.filter (fun e => e.2.owner.toNat = p.val)).foldl (fun n e => n + e.2.size / 1048576) 0

/-- GRAN_MIB_SECONDS: once every 32,768 ticks (18 Table 18.8). -/
def execGranMibSeconds (s : State) : Answer :=
  .next (if s.pwr.ticks % 32768 ≠ 0 then s
    else s.existing.foldl (fun s p => s.count p 15 (s.gran.ownedMib p)) s)

/-- A command of class G in progress on a function (17 Table 17.4). -/
def Func.fullG (f : Func) : Bool := decide (8 ≤ f.jobsG.length)
def State.addG (s : State) (opc : Byte) (k : Packet) : State :=
  s.modFunc k.fn (fun x => { x with jobsG := x.jobsG ++ [⟨k, opc, s.now⟩] })
def State.endG (s : State) (opc : Byte) (k : Packet) : State :=
  s.modFunc k.fn (fun x => { x with jobsG := x.jobsG.eraseP (fun j => j.pkt = k && j.opc = opc) })


/-- LEDGER_READ: the 16 counters as of this cycle (17 R500, 18 R528). -/
def execLedgerRead (k : Packet) (s : State) : Answer :=
  let p := k.part
  .next (s.command 0x70 k anyMember [0xFFFFFFFF, 0xFFFFFFFF] (fun s =>
    if k.d 0 % 64 ≠ 0 then s.fail 0x70 k stBadParam
    else
      let bs := (s.part p).cnt.toList.flatMap (fun c => natBytes 8 c.toNat)
      (s.hostPut (some p) (k.d 0) bs).reply 0x70 k stOk [BitVec.ofNat 32 s.cycle, BitVec.ofNat 32 (s.cycle / 2 ^ 32), 128]))

/-- The seal: record, host copy, journal, reply (17 R500, 18 R529). A partition that has gone meanwhile has no
counters to seal (18 Corners). -/
def State.doSeal (s : State) (k : Packet) : State :=
  let p := k.part
  if !(s.part p).exists' then s.fail 0x71 k stBadParam
  else
    let s := s.modPart p (fun q => { q with sealSeq := satAdd q.sealSeq 1 })
    let ws := s.ledgerRecord p kindSeal (dword (k.w 2) (k.w 3)) (s.part p).sealSeq
    let s := s.toJournal (.record (BitVec.ofNat 6 p.val) ws)
    (s.hostPut (some p) (k.d 0) (wordsBytes ws)).reply 0x71 k stOk
      [BitVec.ofNat 32 s.cycle, BitVec.ofNat 32 (s.cycle / 2 ^ 32), 256]

/-- LEDGER_SEAL: it waits while the journal buffer is full (17 Table 17.4). -/
def execLedgerSeal (k : Packet) (s : State) : Answer :=
  .next (s.command 0x71 k anyMember [0xFFFFFFFF, 0xFFFFFFFF, 0xFFFFFFFF, 0xFFFFFFFF] (fun s =>
    if k.d 0 % 64 ≠ 0 then s.fail 0x71 k stBadParam
    else if (s.func k.fn).fullG then s.fail 0x71 k stBusy
    else if s.pwr.roomRecord then s.doSeal k
    else s.addG 0x71 k))

/-- The LEDGER_SEAL that waits for room, the lowest function's oldest first. -/
def State.waitingSeal (s : State) : Option Packet :=
  (List.finRange 65).findSome? (fun f => ((s.func f).jobsG.find? (fun j => j.opc = 0x71)).map (·.pkt))

end Sys2Proof.Machine
end

