-- ==== Sys2Proof/Machine/Partition.lean ====
section
/-! DEFINITION. Partitions: PART_CREATE and PART_DESTROY (18 R506 to R512), zeroization (18 Tables 18.2, 18.3), the
entry to M2 (19 R545), IMAGE_LOAD and IMAGE_VERIFY (15 R429, R431, 17 R498, 18 R524 to R526). -/

namespace Sys2Proof.Machine

/-! PART_CREATE. -/

/-- The lowest free run of n hub SRAM pages, 512 to 2,047 (18 R508). -/
def State.freePages (s : State) (n : Nat) : Option Nat :=
  let used := (List.finRange 64).filterMap (fun p =>
    let q := s.part p
    if q.state = 0 || q.hubPages = 0 then none else some (q.hubBase, q.hubPages))
  let cand := sortBy id (512 :: used.map (fun e => e.1 + e.2))
  cand.find? (fun b => decide (b + n ≤ 2048) &&
    used.all (fun e => decide (b + n ≤ e.1) || decide (e.1 + e.2 ≤ b)))

/-- Stall mask, DEPOT and allotment of a PART_CREATE packet (17 Table 17.7). -/
def createArgs (k : Packet) : DWord × Bool × Nat := (BitVec.ofNat 64 (k.d 0), bit (k.w 2) 31, fld (k.w 2) 11 0)

/-- The first failing check of 18 R510; `again` when the command itself is the partition's command of class P. -/
def State.createCheck (s : State) (k : Packet) (again : Bool) : Option Byte :=
  let (mask, depot, pages) := createArgs k
  let p := k.part
  let others := (List.finRange 64).filter (fun q => (s.part q).state ≠ 0)
  firstStatus [(mask = 0, stBadParam), (depot && mask ≠ s.sys.stallOk, stBadParam), (decide (2048 < pages), stBadParam),
    ((s.part p).state ≠ 0 || (!again && (s.part p).busyP), stBusy),
    (mask &&& ~~~s.sys.stallOk ≠ 0 || others.any (fun q => mask &&& (s.part q).stalls ≠ 0), stNoResource),
    ((depot && !others.isEmpty) || others.any (fun q => (s.part q).depot), stNoResource),
    ((s.freePages pages).isNone, stNoResource)]

/-- The lock PARTITION(p) is taken and the Stalls begin to clear (18 Table 18.2 steps 4 and 5, R514, R516); the time
limit of the lock is the longest that 16 R461 allows (log 34). -/
def State.beginZero (s : State) (p : Fin 64) (destroy : Bool) : State :=
  let s := s.takeLock (.partition p) 100000000000
  let s := (s.part p).members.foldl (fun s st => s.modStl st (fun x =>
    let pad := { x.pad with refWait := [], refOut := [], rx := [], deferred := [] }
    { x with pad := pad, he := { x.he with queue := [] }, clearing := some (s.cycle + 12288) })) s
  let own (q : Fin 64) : Bool := q = p
  let fab := { s.fab with
    fetches := s.fab.fetches.map (fun l => l.filter (fun e => !own e.2.part)),
    downq := s.fab.downq.map (fun l => l.filter (fun d => !own d.part)) }
  { s with fab := fab }.modPart p (fun q => { q with zero := some (s.cycle + 12288, destroy) })

/-- A PART_CREATE in progress goes on: the entry is written once the cell is ready (20 R610), the zeroization begins; for both no
other lock is held (18 R507, 16 R461). -/
def State.createStep (s : State) (p : Fin 64) : State :=
  match (s.part p).job with
  | none => s
  | some j =>
    if j.opc ≠ 0x10 then s
    else
      let s :=
        if j.phase = 0 && s.pwr.cellReady && s.fab.lock.isNone then
          match s.createCheck j.pkt true with
          | some st => s.endJob p st []
          | none =>
            let (mask, depot, pages) := createArgs j.pkt
            let base := (s.freePages pages).getD 512
            let seq := s.createSeq + 1
            let s := { s with createSeq := seq }.modPart p (fun q => { q with
              state := 1, depot := depot, stalls := mask, hubBase := base, hubPages := pages,
              createSeq := BitVec.ofNat 64 seq, account := 0, keymask := 0, job := some { j with phase := 1 } })
            (s.part p).members.foldl (fun s st => s.modStl st (fun x => { x with power := .s1, wake := none })) s
        else s
      match (s.part p).job with
      | some j => if j.opc = 0x10 && j.phase = 1 && s.fab.lock.isNone then
          (s.modPart p (fun q => { q with job := some { j with phase := 2 } })).beginZero p false else s
      | none => s

/-- PART_CREATE (18 R510). -/
def execPartCreate (k : Packet) (s : State) : Answer :=
  .next (s.command 0x10 k operator [0xFFFFFFFF, 0xFFFFFFFF, 0x80000FFF] (fun s =>
    match s.createCheck k false with
    | some st => s.fail 0x10 k st
    | none =>
      (s.modPart k.part (fun q => { q with
        job := some { pkt := k, opc := 0x10, phase := 0, since := s.now, img := none, skip := false, ring := none } })).createStep
          k.part))

/-! PART_DESTROY. -/

/-- Every hub-bound row of a partition that has not taken effect is dropped (16 R467). -/
def State.dropHubBound (s : State) (p : Fin 64) : State :=
  let out (l : List DynPkt) : List DynPkt := l.filter (fun d => !hubBound p d)
  let cnt (l : List DynPkt) : Nat := (l.filter (hubBound p)).length
  let sum (l : List Nat) : Nat := l.foldl (· + ·) 0
  let n := sum (s.stalls.toList.map (fun x => sum (x.he.queue.map (fun t => cnt t.pkts)) + sum (x.rt.inq.toList.map cnt))) +
    sum (s.fab.hubq.toList.map cnt)
  { s with
    stalls := s.stalls.map (fun x => { x with
      he := { x.he with queue := x.he.queue.map (fun t => { t with pkts := out t.pkts }) },
      rt := { x.rt with inq := x.rt.inq.map out } }),
    fab := { s.fab with hubq := s.fab.hubq.map out, drainDrop := satAdd s.fab.drainDrop n } }

/-- The commands of a partition that a PART_DESTROY overtakes complete with FAULTED (17 R483). -/
def State.overtake (s : State) (p : Fin 64) : State :=
  let s := match (s.part p).job with
    | none => s
    | some j => if j.opc = 0x13 then s.joinFail p stFaulted else s.endJob p stFaulted []
  let s := match (s.part p).swap with
    | none => s
    | some (k, _, _) =>
      { s.modPart p (fun q => { q with swap := none }) with gran := { s.gran with swap := (0, 0) } }.fail 0x32 k stFaulted
  let s := match (s.part p).halt with
    | none => s
    | some (k, _) => (s.modPart p (fun q => { q with halt := none })).fail 0x23 k stFaulted
  let s := (s.part p).adapters.toList.foldl (fun s a =>
    let s := match a.job with | some (k, _, _) => s.fail 0x33 k stFaulted | none => s
    match a.retireJob with | some k => s.fail 0x34 k stFaulted | none => s) s
  let s := s.modPart p (fun q => { q with adapters := q.adapters.map (fun a => { a with job := none, retireJob := none }) })
  match (s.part p).ctx with
  | none => s
  | some c =>
    match c.closeReq with
    | none => s
    | some k => (s.modPart p (fun q => { q with ctx := some { c with closeReq := none } })).fail 0x41 k stFaulted

/-- A ring whose table this partition accepted and which has not started is OFF again. -/
def State.ringForget (s : State) (p : Fin 64) : State :=
  if s.ring.part = some p && s.ring.state = 0 then
    let pin := s.ring.fillPin
    s.ringOff.pin pin false
  else s

/-- The work of a partition ends (18 Table 18.2 step 1). -/
def State.endWork (s : State) (p : Fin 64) : State :=
  let s := s.failQueue p stFaulted
  let s := if (s.part p).spanState = 2 then s.spanFault p 2 s.cycle
    else if (s.part p).disp.isSome then s.stopHere p s.cycle 7 stFaulted
    else s.serveFault p stFaulted
  s.ringForget p

/-- A PART_DESTROY in progress goes on: STATE, which is written while no lock is held (18 R507), the end of its dispatch, the
drain of its hub-bound rows for at most 10 µs, a depot's ring fault, the lock (18 Table 18.2 steps 1 to 4). -/
def State.destroyStep (s : State) (p : Fin 64) : State :=
  let phase (n : Nat) (s : State) : State :=
    s.modPart p (fun q => { q with job := q.job.map (fun j => { j with phase := n, since := s.now }) })
  let at' (s : State) (n : Nat) : Bool := match (s.part p).job with | some j => j.opc = 0x11 && j.phase = n | none => false
  let since (s : State) : Nat := match (s.part p).job with | some j => j.since | none => 0
  let s := if at' s 4 && s.fab.lock.isNone then phase 0 ((s.modPart p (fun q => { q with state := 3 })).endWork p) else s
  let s := if at' s 0 && (s.part p).disp.isNone then phase 1 s else s
  let s :=
    if at' s 1 && (!s.hubPending p || decide (since s + 10000000 ≤ s.now)) then
      let s := s.dropHubBound p
      let s := if (s.part p).depot && s.ring.part = some p then s.ringFault true else s
      phase 2 s
    else s
  if at' s 2 && s.fab.lock.isNone then (phase 3 s).beginZero p true else s

/-- A PART_DESTROY of the partition is in progress. -/
def Part.ending (q : Part) : Bool := match q.job with | some j => j.opc = 0x11 | none => false

/-- The destruction of a partition begins (18 R511, Table 18.2 step 1); `k`: the command, or none on the way to M2. -/
def State.beginDestroy (s : State) (p : Fin 64) (k : Option Packet) : State :=
  let s := s.overtake p
  let none' : Packet := { fn := 0, low := 0, tag := 0, idx := 0, words := Vector.replicate 14 0 }
  (s.modPart p (fun q => { q with
    job := some { pkt := k.getD none', opc := 0x11, phase := 4, since := s.now, img := none, skip := k.isNone,
                  ring := none } })).destroyStep p

/-- PART_DESTROY (17 R483, 18 R511). A second one of the partition is BUSY. -/
def execPartDestroy (k : Packet) (s : State) : Answer :=
  .next (s.command 0x11 k operatorPart [] (fun s =>
    if (s.part k.part).ending then s.fail 0x11 k stBusy else s.beginDestroy k.part (some k)))

/-! Zeroization (18 Table 18.3). -/

/-- The scratchpad cleared; a POISON mark cleared is logged (04 R122). The scrubber's place and STALL.POISON_LOG
are not in Table 18.3. -/
def Pad.zeroize (d : Pad) : Pad :=
  let d := d.poison.foldl (fun d e => d.logAdd 3 e.2.2 e.1) d
  { d with
    mem := [], badPar := [], poison := [], tallyOvf := false, scrubLate := false, logOvf := false, tallyIdx := 0,
    conflicts := 0, deferred := [], rx := [], refWait := [], refOut := [], first := [], acc := [], served := [] }

/-- A Stall zeroized (18 Table 18.3; log 58). -/
def Stall.zeroize (x : Stall) : Stall :=
  let ca := { x.ca with
    acc := [], accSat := 0, dropped := 0, zskip := 0, overrun := 0, reqSat := 0, scale := Vector.replicate 256 0, zs := none,
    loading := false, valid := false, live := 0, guarded := none }
  let ln (l : Lanes) : Lanes := { l with const := Vector.replicate 16 0, dropped := 0, cntA := 0, cntB := 0 }
  { x with
    pad := x.pad.zeroize, seq := .reset, ca := ca, le := ln x.le, ve := ln x.ve,
    te := { x.te with dropped := 0, xtile := [] }, he := .reset, rt := { x.rt with drop := 0, dynWait := 0 },
    xl := .reset, hz := .reset, tk := .reset, act := none, actPrev := none, clearing := none, ops := [] }

/-- Every port that a partition owns is given up, its slot table invalid (18 Table 18.3, 10 R265). -/
def State.freePorts (s : State) (p : Fin 64) : State :=
  { s with stalls := s.stalls.map (fun x =>
      let mine (o : Fin 5) : Bool := x.rt.owner[o] = some p
      let slots := Vector.ofFn (fun o : Fin 5 => if mine o then [] else x.rt.slots[o])
      let owner := Vector.ofFn (fun o : Fin 5 => if mine o then none else x.rt.owner[o])
      { x with rt := { x.rt with slots := slots, owner := owner } }) }

/-- Stalls and hub side of a partition are cleared (18 Table 18.3). -/
def State.clearPart (s : State) (p : Fin 64) : State :=
  let q := s.part p
  let s := (s.unload p).freePorts p
  let s := q.members.foldl (fun s st => s.modStl st Stall.zeroize) s
  { s with sram := s.sram.zero (4096 * q.hubBase) (4096 * q.hubPages) }

/-- Directory entries of a partition pass to the operator (18 R512). -/
def State.orphanRegions (s : State) (p : Fin 64) : State :=
  (s.gran.dir.filter (fun e => e.2.owner.toNat = p.val)).foldl (fun s e =>
    let r := { e.2 with owner := 0x40 }
    { s with gran := { s.gran with dir := s.gran.dir.set e.1 r } }.toJournal (.directory e.1 (some r))) s

/-- An entry that belongs to nobody: what Table 18.3 does not name stays (18 R513, R533). -/
def Part.freed (q : Part) : Part :=
  { Part.reset with
    close := q.close, winFault := q.winFault, winFaults := q.winFaults, margin := q.margin, goodEp := q.goodEp,
    frac := q.frac, cnt := q.cnt, sealSeq := q.sealSeq }

/-- The zeroization of a PART_CREATE ends (18 Table 18.2 steps 5 to 7, 19 R559). -/
def State.created (s : State) (p : Fin 64) : State :=
  let s := s.clearPart p
  let s := s.modPart p (fun q => { q.freed with
    state := 2, depot := q.depot, stalls := q.stalls, hubBase := q.hubBase, hubPages := q.hubPages,
    createSeq := q.createSeq, account := 0, keymask := 0, cnt := Vector.replicate 16 0, sealSeq := 0,
    fresh := true, job := q.job })
  let s := (s.part p).members.foldl (fun s st =>
    s.modRt st (fun r => { r with owner := r.owner.set 4 (some p) })) s
  (s.checkpointOf p).endJob p stOk []

/-- The zeroization of a PART_DESTROY ends: close snapshot, regions to the operator, entry FREE (18 R511, R512,
R533, 19 R542). -/
def State.destroyed (s : State) (p : Fin 64) : State :=
  let job := (s.part p).job
  let mem := (s.part p).members
  let ws := s.ledgerRecord p kindClose 0 0
  let s := s.clearPart p
  let s := mem.foldl (fun s st => s.modStl st (fun x => { x with power := .s3, wake := none })) s
  let s := s.toJournal (.record (BitVec.ofNat 6 p.val) ws)
  let s := if s.ring.part = some p && s.ring.state = 5 then s.ringOff else s
  let s := (s.orphanRegions p).modPart p (fun q => { q.freed with close := ws })
  match job with
  | some j => if j.skip then s else s.reply 0x11 j.pkt stOk []
  | none => s

/-! The entry to M2 (17 R497, 19 R537, R540, R545). -/

/-- Every rail but those of Table 19.2 is off: every sheaf is silent. The hub keeps its registers (log 28). -/
def State.enterM2 (s : State) : State :=
  let s := (List.finRange 20).foldl (fun s n => s.sheafTo n .disabled) { s with pwr := { s.pwr with mstate := 2, toM2 := false } }
  { s with ports := s.ports.map (fun k => { k with downAt := none }) }

/-- On the way to M2 the partitions are destroyed in turn; after the last one the module enters M2. -/
def State.m2Step (s : State) : State :=
  if !s.pwr.toM2 then s
  else if (List.finRange 64).any (fun p => (s.part p).state = 1 || (s.part p).ending) then s
  else
    match s.existing with
    | p :: _ => s.beginDestroy p none
    | [] => s.enterM2

/-- ZEROIZATION_DONE: the Stalls have cleared, in 12,288 cc, and the record of the change has room in the journal
buffer (18 R514, 19 R539). Before that it does nothing. -/
def execZeroizationDone (p : Fin 64) (s : State) : Answer :=
  .next (
    match (s.part p).zero with
    | none => s
    | some (t, destroy) =>
      if s.cycle < t || !s.pwr.roomRecord then s
      else
        let s := if destroy then s.destroyed p else s.created p
        let s := if s.fab.lock = some (.partition p) then s.dropLock true else s
        s.m2Step)

/-- What waits on time or on a lock goes on: creations, destructions, the entry to M2. -/
def State.carryOn (s : State) : State :=
  ((List.finRange 64).foldl (fun s p =>
    match (s.part p).job with
    | some j => if j.opc = 0x10 then s.createStep p else if j.opc = 0x11 then s.destroyStep p else s
    | none => s) s).m2Step

/-! Images from host memory or from a Granary region. -/

/-- A view may use a region: the operator any, a tenant one that its partition owns (15 R425). -/
def mayUse (k : Packet) (r : Region) : Bool := !k.tenant || r.owner.toNat = k.part.val

/-- The checks of a source that w names: bit 31 SRC_KIND, [11:0] region; `len` bytes from its start. -/
def State.sourceChecks (s : State) (k : Packet) (w : Word) (len : Nat) : List (Bool × Byte) :=
  if !bit w 31 then [(len = 0, stBadParam)]
  else
    match s.gran.dir.get? (fld w 11 0) with
    | none => [(true, if s.gran.avail then stBadParam else stFaulted)]
    | some r => [(len = 0 || decide (r.size < len), stBadParam), (!s.gran.avail, stFaulted), (!mayUse k r, stDenied)]

/-- The bytes of a source, from byte 0. -/
def State.sourceBytes (s : State) (w : Word) (addr len : Nat) : Mem :=
  if bit w 31 then
    match s.gran.dir.get? (fld w 11 0) with
    | some r => s.gran.mem.slice r.base len 0
    | none => []
  else s.host.slice addr len 0

/-- The read of a source is counted to the partition (18 Table 18.8). -/
def State.sourceCount (s : State) (p : Fin 64) (w : Word) (len : Nat) : State :=
  s.count p (if bit w 31 then 7 else 6) len

/-- Every block of the first bytes of a source region is read; false if one is bad (15 R422, Table 15.2). -/
def State.sourceGood (s : State) (w : Word) (len : Nat) : State × Bool :=
  if !bit w 31 then (s, true)
  else
    match s.gran.dir.get? (fld w 11 0) with
    | none => (s, false)
    | some r =>
      let (s, bad) := s.readBlocks false (r.base / 512) (ceilDiv len 512)
      (s, bad.isNone)

/-- The region is VERIFIED by a key slot of a KEYMASK (18 R526). -/
def Region.trusted (r : Region) (keymask : Byte) : Bool := match r.verified with
  | some n => keymask.getLsbD n.toNat
  | none => false

/-- The source is a region whose VERIFIED slot the partition's KEYMASK has (18 R526). -/
def State.verifiedFor (s : State) (p : Fin 64) (w : Word) : Bool :=
  bit w 31 && (match s.gran.dir.get? (fld w 11 0) with
    | some r => r.trusted (s.part p).keymask
    | none => false)

/-- A region's bytes have been written to its length: VERIFIED and LOST clear, LENGTH grows (15 R425). -/
def Region.written (r : Region) (stop : Nat) : Region :=
  { r with verified := none, lost := false, length := max r.length stop }

/-- The backing region that an IMAGE_LOAD writes: it exists, the view may use it, nothing reads it, the image fits
(15 R429, R425). -/
def State.backChecks (s : State) (k : Packet) (len : Nat) : List (Bool × Byte) :=
  let w := k.w 0
  if bit w 31 || !bit w 30 then []
  else
    match s.gran.dir.get? (fld w 27 16) with
    | none => [(true, if s.gran.avail then stBadParam else stFaulted)]
    | some r => [(decide (r.size < len), stBadParam), (!s.gran.avail, stFaulted), (!mayUse k r || decide (0 < r.pins), stDenied)]

/-- The checks of a depot's IMAGE_LOAD, which takes the ring table only (13 R355; log 35). -/
def Image.depotBad (i : Image) : Bool :=
  i.headerBad || decide (i.length < 512 + 16 * i.nsec) || i.sections.any (fun x => x.bad i) || i.sigBad || !i.streamed

/-- An IMAGE_LOAD in progress goes on to its next phase: 1 verification, 2 placement, 3 the wait for the ring. -/
def State.loadPhase (s : State) (p : Fin 64) (n : Nat) : State :=
  s.modPart p (fun q => { q with job := q.job.map (fun j => { j with phase := n }) })

/-- The ring table at a host address: 16 + 16 × MEMBERS bytes, counted as read (17 R498). -/
def State.ringTableAt (s : State) (p : Fin 64) (a : Nat) : State × (Nat × Nat × List RingEntry) :=
  let n := fld ((s.host.slice a 16 0).word 4) 13 0
  let t := ringTable (s.host.slice a (16 + 16 * n) 0)
  (s.count p 6 (16 + 16 * n), t)

/-- An IMAGE_LOAD whose source is usable: the checks of the image and of the partition, then the job (15 R429,
17 R498). -/
def State.loadStart (s : State) (k : Packet) (i : Image) (t : Nat × Nat × List RingEntry) : State :=
  let p := k.part
  let q := s.part p
  let members := if q.depot then i.spanSize else q.sizeM1.toNat + 1
  let bad := if q.depot then i.depotBad else s.imageBad p i
  let ring := if i.streamed then s.ringCheck p members t else none
  let frames := i.streamed && i.framesBad t.1 t.2.1
  let open' : Bool := match q.ctx with | some c => decide (c.state = 1) | none => false
  match firstStatus [(bad || frames || (!i.streamed && k.d 4 ≠ 0) || ring = some stBadParam, stBadParam),
      (q.dispatching || q.busyP || open', stBusy), ((!q.depot && s.imageShort p i) || ring = some stNoResource, stNoResource)] with
  | some st => s.fail 0x20 k st
  | none =>
    let ringT := if i.streamed then some t else none
    let job : Job := { pkt := k, opc := 0x20, phase := 1, since := s.now, img := some i, skip := false, ring := ringT }
    let s := s.modPart p (fun q => { q with job := some job })
    if !s.verifiedFor p (k.w 0) then s
    else if q.depot then (s.loadPhase p 3).ringWaiting else s.loadPhase p 2

/-- IMAGE_LOAD (15 R429, 17 R498, 09 R255 to R257, 13 R357). -/
def execImageLoad (k : Packet) (s : State) : Answer :=
  let w := k.w 0
  let len := (k.w 3).toNat
  .next (s.command 0x20 k anyMember [0xCFFF0FFF, 0xFFFFFFFF, 0xFFFFFFFF, 0xFFFFFFFF, 0xFFFFFFFF, 0xFFFFFFFF] (fun s =>
    match firstStatus (s.sourceChecks k w len ++ s.backChecks k len) with
    | some st => s.fail 0x20 k st
    | none =>
      let i := imageOf (s.sourceBytes w (k.d 1) len) len
      let s := s.sourceCount k.part w len
      if i.streamed then
        let (s, t) := s.ringTableAt k.part (k.d 4)
        s.loadStart k i t
      else s.loadStart k i (0, 0, [])))

/-- IMAGE_VERIFY (18 R525): it runs until the SP has finished. -/
def execImageVerify (k : Packet) (s : State) : Answer :=
  .next (s.command 0x21 k anyMember [0x80000FFF, 0xFFFFFFFF, 0xFFFFFFFF, 0xFFFFFFFF] (fun s =>
    match firstStatus (s.sourceChecks k (k.w 0) (k.w 3).toNat ++ [((s.func k.fn).fullG, stBusy)]) with
    | some st => s.fail 0x21 k st
    | none => s.addG 0x21 k))

/-- The first 24 bytes of a digest as result words (17 Table 17.8). -/
def digestWords (d : List Byte) : List Word := bytesWords (d.take 24)

/-- An IMAGE_VERIFY completes (18 R525, R526): reads of a region are checked block by block. -/
def State.verifyDone (s : State) (k : Packet) : State :=
  let w := k.w 0
  let len := (k.w 3).toNat
  let p := k.part
  let s := s.endG 0x21 k
  match firstStatus (s.sourceChecks k w len) with
  | some st => s.fail 0x21 k st
  | none =>
    let (s, good) := s.sourceGood w len
    if !good then s.fail 0x21 k stFaulted
    else
      let i := imageOf (s.sourceBytes w (k.d 1) len) len
      let s := s.sourceCount p w len
      match i.sig, s.verify (s.part p).keymask i with
      | some x, some slot =>
        let s := match bit w 31, s.gran.dir.get? (fld w 11 0) with
          | true, some r =>
            if r.length = len then s.putRegion (fld w 11 0) { r with verified := some (BitVec.ofNat 3 slot) } else s
          | _, _ => s
        s.reply 0x21 k stOk (digestWords (i.digest x))
      | _, _ => s.fail 0x21 k stSignature

/-- The SP has checked an image that an IMAGE_LOAD gives (17 R498), of a region as it stands now (01 R35). -/
def State.loadVerified (s : State) (p : Fin 64) (i : Image) : State :=
  let i := match (s.part p).job with
    | some j => if bit (j.pkt.w 0) 31 then { i with bytes := s.sourceBytes (j.pkt.w 0) (j.pkt.d 1) i.length } else i
    | none => i
  if (s.verify (s.part p).keymask i).isNone then s.endJob p stSignature []
  else if (s.part p).depot then (s.loadPhase p 3).ringWaiting
  else s.loadPhase p 2

/-- A MODEL_SWAP whose variant is verified begins its check pass (15 R434, R435); one that fails ends. -/
def State.swapVerified (s : State) (p : Fin 64) (k : Packet) (r : BitVec 12) : State :=
  match s.gran.dir.get? r.toNat with
  | none => s
  | some x =>
    let i := imageOf (s.gran.mem.slice x.base x.length 0) x.length
    match s.verify (s.part p).keymask i with
    | none =>
      let s := s.modPart p (fun q => { q with swap := none })
      { s with gran := { s.gran with swap := (0, 0) } }.fail 0x32 k stSignature
    | some slot =>
      let s := s.putRegion r.toNat { x with verified := some (BitVec.ofNat 3 slot) }
      let s := s.modPart p (fun q => { q with swap := some (k, r, 2) })
      { s with gran := { s.gran with swap := (2, r) } }

/-- An adapter image that a load keeps. -/
def Adapter.image (a : Adapter) : Image := imageOf a.img a.imgLen

/-- The lowest adapter slot whose load waits for the SP. -/
def Part.adapterVerifying (q : Part) : Option (Fin 16) :=
  (List.finRange 16).find? (fun i => match q.adapters[i].job with | some (_, 0, _) => true | _ => false)

/-- The SP has checked an adapter image (14 R408): the load waits for its shadow copy, or fails. -/
def State.adapterVerified (s : State) (p : Fin 64) (i : Fin 16) : State :=
  let a := (s.part p).adapters[i]
  match a.job with
  | none => s
  | some (k, _, t) =>
    let ok := (s.verify (s.part p).keymask a.image).isSome
    let b := if ok then { a with job := some (k, 1, t) } else { a with job := none }
    let s := s.modPart p (fun q => { q with adapters := q.adapters.set i b })
    if ok then s else s.fail 0x33 k stSignature

/-- An IMAGE_VERIFY in progress on a partition: that of its own function, else the operator's. -/
def State.verifying (s : State) (p : Fin 64) : Option Packet :=
  ((s.func (vfOf p)).jobsG ++ (s.func 0).jobsG).findSome? (fun j =>
    if j.opc = 0x21 && j.pkt.part = p then some j.pkt else none)

/-- The image of an IMAGE_LOAD that waits for the SP. -/
def Part.loadVerifying (q : Part) : Option Image := match q.job with
  | some { opc := o, phase := n, img := i, .. } => if o = 0x20 && n = 1 then i else none
  | none => none

/-- VERIFICATION_DONE: the SP has finished with the partition's image, which one of its commands waits for: an
IMAGE_LOAD, a MODEL_SWAP, an ADAPTER_LOAD or an IMAGE_VERIFY (18 R525). -/
def execVerificationDone (p : Fin 64) (s : State) : Answer :=
  let q := s.part p
  .next (
    match q.loadVerifying with
    | some i => s.loadVerified p i
    | none =>
      match q.swap with
      | some (k, r, 1) => s.swapVerified p k r
      | _ =>
        match q.adapterVerifying, s.verifying p with
        | some i, _ => s.adapterVerified p i
        | none, some k => s.verifyDone k
        | none, none => s)

/-- The image is written into the backing region that BACK_EN names (15 R429). -/
def State.writeBacking (s : State) (p : Fin 64) (i : Image) (id : Nat) : State :=
  match s.gran.dir.get? id with
  | none => s
  | some r =>
    let bs := i.bytes.bytes 0 i.length
    let s := (s.granWrite r.base (bs.length / 512 + 2) bs).count p 7 i.length
    s.putRegion id (r.written i.length)

/-- The backing region of an IMAGE_LOAD (15 R429). -/
def backRegion (w : Word) : Option (BitVec 12) :=
  if bit w 31 then some (BitVec.ofNat 12 (fld w 11 0))
  else if bit w 30 then some (BitVec.ofNat 12 (fld w 27 16))
  else none

/-- PLACEMENT_DONE: the MP has placed the image of an IMAGE_LOAD, from the Granary region as it stands now (01 R22, R35) or as
read from the host (log 39); a port that another partition has come to own since the checks refuses it (10 R271). A bad block of its region fails the command and
places nothing; a streamed image's load waits for the ring (15 R429, R431, Table 15.2, 17 R498, Table 17.6). Granary requests of
higher classes go first (15 R433). -/
def execPlacementDone (p : Fin 64) (s : State) : Answer :=
  .next (
    match (s.part p).job with
    | some { pkt := k, opc := o, phase := n, since := t, img := some i, ring := ring, .. } =>
      if o ≠ 0x20 || n ≠ 2 || (fld (k.w 0) 31 30 ≠ 0 && s.granWaits 3 t) then s
      else
        let (s, good) := s.sourceGood (k.w 0) i.length
        if !good then s.endJob p stFaulted []
        else if s.imageShort p i then s.endJob p stNoResource []
        else
          let i := if bit (k.w 0) 31 then { i with bytes := s.sourceBytes (k.w 0) (k.d 1) i.length } else i
          let s := if !bit (k.w 0) 31 && bit (k.w 0) 30 then s.writeBacking p i (fld (k.w 0) 27 16) else s
          let s := s.placeImage p { i with backing := backRegion (k.w 0) }
          if ring.isSome then (s.loadPhase p 3).ringWaiting else s.loadDone p
    | _ => s)

end Sys2Proof.Machine
end

