-- ==== Sys2Proof/Machine/Upkeep.lean ====
section
/-! DEFINITION. Refetches of backed rows (04 R126 to R129), the background scrubber (04 R130 to R132),
Glean Engine reads (04 R124, 08 R218) and row reads over the Stem configuration bridge (16 R445, 21 R630,
R631). -/

namespace Sys2Proof.Machine

/-- Ten milliseconds in ps (04 R127). -/
def ps10ms : Nat := 10000000000

/-- A row marked POISON enters Held, logged with the finder that its mark keeps (04 R126, R127). -/
def State.holdRow (s : State) (st : Fin 64) (p : Nat) : State :=
  match (s.stl st).pad.poison.get? p with
  | some (.refetching, f) =>
    s.modPad st (fun d => { d with poison := d.poison.set p (.held, f) }.logAdd 2 f p)
  | _ => s

/-- A refetch fails: the row enters Held, and a step fault that waits for it ends the dispatch with POISONED
(04 R127, R129, 02 R62). -/
def State.failRefetch (s : State) (st : Fin 64) (row : Nat) : State :=
  let s := s.modPad st (fun d => { d with refOut := d.refOut.filter (fun r => r.row.toNat ≠ row) })
  let s := (s.holdRow st row).raise 0x1013 (s.owner st) false (stallRow st row) 0
  match s.owner st with
  | none => s
  | some p =>
    if (s.part p).faultAt st row then s.stopAt p s.cycle 5 stPoisoned else s

/-- REFETCH_ISSUE: the next waiting row, if fewer than 16 refetches are outstanding; its Granary row is that
of the entry that covers it now (04 R126). A row that still waits when the Granary becomes unavailable keeps waiting, and its
refetch, once issued, fails: R126 fails the outstanding ones only (DESIGN CHOICE, log 63). -/
def execRefetchIssue (st : Fin 64) (s : State) : Answer :=
  let d := (s.stl st).pad
  .next (
    match d.refWait with
    | [] => s
    | p :: l =>
      if 16 ≤ d.refOut.length then s
      else
        let s := s.modPad st (fun d => { d with refWait := l })
        match (s.stl st).xl.backedBy p with
        | none =>
          if (d.poison.get? p).isNone then s
          else
            let s := (s.holdRow st p).raise 0x1011 (s.owner st) true (stallRow st p) 0
            match s.owner st with
            | none => s
            | some q => if (s.part q).faultAt st p then s.stopAt q s.cycle 5 stPoisoned else s
        | some b =>
          let g := BitVec.ofNat 33 (b.gran.toNat + (p - b.start.toNat))
          s.modPad st (fun d => { d with refOut := d.refOut ++ [⟨BitVec.ofNat 19 p, g, s.now, none⟩] }))

/-- REFETCH_DONE: the Granary row is read and its block checked; all 32 words are written at rank 4, in this cc or, while the
bank is not free, in a later one (04 R111, R127, Table 4.2). Refetches are served in arrival order (15 R433). -/
def execRefetchDone (st : Fin 64) (row : BitVec 19) (glitch : Bool) (s : State) : Answer :=
  let p := row.toNat
  .next (
    match (s.stl st).pad.refOut.find? (fun r => r.row = row && r.data.isNone) with
    | none => s
    | some r =>
      if !s.gran.avail then s.failRefetch st p
      else if s.granWaits 1 r.since then s
      else
        let (s, ok) := s.readBlock (r.gran.toNat / 4) glitch
        let s := match s.owner st with | some q => s.count q 7 128 | none => s
        if !ok then s.failRefetch st p
        else
          let r := { r with data := some (s.gran.mem.row (128 * r.gran.toNat)) }
          (s.modPad st (fun d => { d with refOut := d.refOut.map (fun x => if x.row = row then r else x) })).tryRefetch st r)

/-- REFETCH_TIMEOUT: a refetch not written within 10 ms fails (04 R127). Before that it does nothing. -/
def execRefetchTimeout (st : Fin 64) (row : BitVec 19) (s : State) : Answer :=
  .next (
    match (s.stl st).pad.refOut.find? (fun r => r.row = row) with
    | none => s
    | some r => if r.since + ps10ms ≤ s.now then s.failRefetch st row.toNat else s)

/-! The scrubber. -/

/-- The scrubber of a Stall runs: power state S0 or S1 (04 R130). -/
def Stall.scrubs (x : Stall) : Bool := x.power = .s0 || x.power = .s1

/-- SCRUB_ISSUE: reads of the next bank row in all 32 banks, once 16 ticks have passed and every bank has
served its last read (04 R130). A pass begins with bank row 0. The first bank row issues 16 ticks of S0 and S1 after cold
reset: R130 times each issue from the one before only (DESIGN CHOICE, log 63). -/
def execScrubIssue (st : Fin 64) (s : State) : Answer :=
  let x := s.stl st
  let d := x.pad
  .next (
    if !x.scrubs || !d.scrubWait.isEmpty || decide (d.scrubTicks < d.scrubIssued + 16) then s
    else s.modPad st (fun d =>
      { d with
        scrubCur := d.scrubRow,
        scrubRow := if d.scrubRow.toNat = 12287 then 0 else d.scrubRow + 1,
        scrubWait := List.finRange 32, scrubHot := [], scrubIssued := d.scrubTicks,
        scrubPass := if d.scrubRow = 0 then d.scrubTicks else d.scrubPass,
        scrubTold := if d.scrubRow = 0 then false else d.scrubTold }))

/-- SCRUB_READ_PROMOTE: a scrub read that has waited 16 ticks rises to rank 5 (04 R130). -/
def execScrubReadPromote (st : Fin 64) (bank : Fin 32) (s : State) : Answer :=
  let d := (s.stl st).pad
  .next (
    if d.scrubWait.contains bank && !d.scrubHot.contains bank && decide (d.scrubIssued + 16 ≤ d.scrubTicks) then
      s.modPad st (fun d => { d with scrubHot := bank :: d.scrubHot })
    else s)

/-- SCRUB_READ: a bank with no request of a higher rank serves its waiting scrub read; rows marked POISON are
skipped (04 R124, R130). The last read of bank row 12,287 completes the pass (04 R136). -/
def execScrubRead (st : Fin 64) (bank : Fin 32) (s : State) : Answer :=
  let x := s.stl st
  let d := x.pad
  let p := 32 * d.scrubCur.toNat + bank.val
  .next (
    if !x.scrubs || !d.scrubWait.contains bank || !s.bankFree st bank.val then s
    else
      let s := if (d.poison.get? p).isSome then s else (s.readPhys st p 0).1
      s.modPad st (fun d =>
        let w := d.scrubWait.filter (· ≠ bank)
        { d with
          scrubWait := w, scrubHot := d.scrubHot.filter (· ≠ bank), served := p :: d.served,
          passes := if w.isEmpty && d.scrubCur.toNat = 12287 then d.passes + 1 else d.passes }))

/-- STALL.SCRUB_STATUS (04 R136). -/
def Pad.scrubStatus (d : Pad) : Word := pack [(d.passes.toNat, 16), (d.scrubRow.toNat, 0)]

/-- SCRUB_LATE: a pass has taken more than 393,216 ticks in S0 and S1 (04 R132). -/
def execScrubLate (st : Fin 64) (s : State) : Answer :=
  let d := (s.stl st).pad
  .next (
    if d.scrubTold || decide (d.scrubTicks ≤ d.scrubPass + 393216) then s
    else
      (s.modPad st (fun d => { d with scrubLate := true, scrubTold := true, bitsNew := (d.bitsNew.1, true) })).raise 0x1015 (s.owner st) false
        (stallArg st) d.scrubStatus)

/-- A Glean Engine's read of a logical row at rank 6, its window with GLEAN (04 R107, R124, 08 R218): no answer while the bank
serves another request or a scrub read at rank 5; then the row, or none of it when a check fails, which is counted, or when
it is POISON or has a parity error, which marks it. -/
def State.gleanServe (s : State) (st : Fin 64) (row : Nat) : State × Option (Option Row) :=
  match (s.stl st).xl.check row .glean false with
  | .error _ => (s.modXl st (fun x => { x with gleanFail := satAdd x.gleanFail 1 }), some none)
  | .ok p =>
    if !s.bankFree st (p % 32) || (s.stl st).pad.scrubHot.any (fun b => b.val = p % 32) then (s, none)
    else
      let (s, r) := s.readPhys st p 2
      let s := s.modPad st (fun d => d.serve p)
      (s, some (if ((s.stl st).pad.poison.get? p).isSome then none else some r))

/-- GLEAN_READ. -/
def execGleanRead (st : Fin 64) (row : BitVec 19) (s : State) : Answer := .next (s.gleanServe st row.toNat).1

/-- A Stall that the bridge reaches: powered, passed by the self-test, in a Field whose Stem port locked
(21 R628). -/
def State.bridgeOk (s : State) (st : Fin 64) : Bool :=
  (s.stl st).scrubs && s.sys.stallOk.getLsbD st.val && s.sys.stemUp[fieldOf st]

/-- The bridge may access a Stall's rows: its partition is not locked (16 R463). -/
def State.stallLocked (s : State) (st : Fin 64) : Bool :=
  match s.fab.lock, s.owner st with
  | some (.partition p), some q => p = q
  | _, _ => false

/-- A write of SYS.ROW_SEL: starts one row read, or is dropped while one is in progress (21 R630). -/
def State.putRowSel (s : State) (v : Word) : State :=
  if s.sys.rowBusy then s
  else { s with sys := { s.sys with
    rowBusy := true, rowDone := false, rowFail := false, rowStall := fin 63 (fld v 24 19),
    rowRow := BitVec.ofNat 19 (fld v 18 0) } }

/-- ROW_SEL (21 R630). -/
def execRowSel (v : Word) (s : State) : Answer :=
  .next (s.viaMatrix (.host 0) 0x80 (some v) (State.putRowSel · v))

/-- BRIDGE_ROW_READ: the row read in progress ends: FAIL, all-zero words of a locked partition, or the stored
words once the bank serves it at rank 7 (16 R445, 21 R631). -/
def execBridgeRowRead (s : State) : Answer :=
  let y := s.sys
  let st := y.rowStall
  let p := y.rowRow.toNat
  let done (s : State) (r : Row) (bad : Bool) : State :=
    { s with sys := { s.sys with rowBusy := false, rowDone := true, rowFail := bad, rowBuf := r } }
  .next (
    if !y.rowBusy then s
    else if decide (393215 < p) || !s.bridgeOk st then done s Row.zero true
    else if s.stallLocked st then done s Row.zero false
    else if !s.bankFree st (p % 32) || (s.stl st).pad.scrubHot.any (fun b => b.val = p % 32) then s
    else
      let (s, r) := s.readPhys st p 3
      done (s.modPad st (fun d => d.serve p)) r false)

end Sys2Proof.Machine
end

