-- ==== Sys2Proof/Machine/Granary.lean ====
section
/-! DEFINITION. The Granary: GRANARY_PUT and GRANARY_GET (15 R424, R425, 17 R499), the patrol (15 R423), retraining
(15 R428), and the checks and passes of a model variant swap (15 R434 to R439). -/

namespace Sys2Proof.Machine

/-! GRANARY_PUT and GRANARY_GET. The failures of a command come in this order: BAD_PARAM, FAULTED while the Granary is
unavailable, DENIED or BUSY, NO_RESOURCE. -/

/-- SUBOP and region of a packet (17 Table 17.7). -/
def granSub (k : Packet) : Nat := fld (k.w 0) 31 28
def granId (k : Packet) : Nat := fld (k.w 0) 11 0

/-- OWNER of a CREATE names the operator or a partition that exists (17 R499). -/
def State.ownerOk (s : State) (o : Nat) : Bool := o = 0x40 || (decide (o < 64) && (s.part (fin 63 o)).exists')

/-- The region of a command, or the status of a command that names none. -/
def State.regionOr (s : State) (id : Nat) : Except Byte Region :=
  match s.gran.dir.get? id with
  | some r => .ok r
  | none => .error (if s.gran.avail then stBadParam else stFaulted)

/-- A region is created at the lowest free range (15 R424). -/
def State.regionCreate (s : State) (k : Packet) : State :=
  let size := 1048576 * fld (k.w 1) 19 0
  let o := fld (k.w 2) 6 0
  match firstStatus [(granSub k ≠ 0 || size = 0 || !s.ownerOk o, stBadParam), (!s.gran.avail, stFaulted),
      ((s.gran.dir.get? (granId k)).isSome, stBusy)], s.gran.place size with
  | some st, _ => s.fail 0x30 k st
  | none, none => s.fail 0x30 k stNoResource
  | none, some b =>
    let r : Region := { base := b, size := size, owner := BitVec.ofNat 7 o, length := 0, verified := none, pins := 0, lost := false }
    (s.putRegion (granId k) r).reply 0x30 k stOk [BitVec.ofNat 32 (b / 1048576)]

/-- A region is freed (15 R425). -/
def State.regionFree (s : State) (k : Packet) : State :=
  match s.regionOr (granId k) with
  | .error st => s.fail 0x30 k (if granSub k ≠ 1 then stBadParam else st)
  | .ok r =>
    match firstStatus [(granSub k ≠ 1, stBadParam), (!s.gran.avail, stFaulted), (decide (0 < r.pins), stBusy)] with
    | some st => s.fail 0x30 k st
    | none =>
      ({ s with gran := { s.gran with dir := s.gran.dir.del (granId k) } }.toJournal (.directory (granId k) none)).reply
        0x30 k stOk []

/-- A command that changes the directory waits while that part of the journal buffer is full (19 R539). -/
def State.orWait (s : State) (k : Packet) (f : State → State) : State :=
  if (s.func k.fn).fullG then s.fail 0x30 k stBusy
  else if s.pwr.roomDirectory then f s
  else s.addG 0x30 k

/-- GRANARY_PUT CREATE (15 R424, R425, 17 R499). -/
def execGranaryPutCreate (k : Packet) (s : State) : Answer :=
  .next (s.command 0x30 k operator [0xF0000FFF, 0xFFFFF, 0x7F] (fun s => s.orWait k (fun s => s.regionCreate k)))

/-- GRANARY_PUT FREE (15 R425). -/
def execGranaryPutFree (k : Packet) (s : State) : Answer :=
  .next (s.command 0x30 k operator [0xF0000FFF] (fun s => s.orWait k (fun s => s.regionFree k)))

/-- The first failing check of a WRITE or READ (15 R425, 17 R499). -/
def State.copyCheck (s : State) (k : Packet) (write : Bool) : Option Byte :=
  let len := (k.w 5).toNat
  let bad := granSub k ≠ (if write then 2 else 0) || len = 0 || k.d 1 % 512 ≠ 0
  match s.regionOr (granId k) with
  | .error st => some (if bad then stBadParam else st)
  | .ok r => firstStatus [(bad || decide (r.size < k.d 1 + len), stBadParam), (!s.gran.avail, stFaulted),
      (!mayUse k r || (write && decide (0 < r.pins)), stDenied)]

def copyMasks : List Word := [0xF0000FFF, 0xFFFFFFFF, 0xFFFFFFFF, 0xFFFFFFFF, 0xFFFFFFFF, 0xFFFFFFFF]

/-- A copy starts; GRANARY_COPY_DONE ends it. -/
def State.copyStart (s : State) (opc : Byte) (k : Packet) (write : Bool) : State :=
  match s.copyCheck k write with
  | some st => s.fail opc k st
  | none => if (s.func k.fn).fullG then s.fail opc k stBusy else s.addG opc k

/-- GRANARY_PUT WRITE (15 R425). -/
def execGranaryPutWrite (k : Packet) (s : State) : Answer :=
  .next (s.command 0x30 k anyRing copyMasks (fun s => s.copyStart 0x30 k true))

/-- GRANARY_GET READ (15 R425). -/
def execGranaryGetRead (k : Packet) (s : State) : Answer :=
  .next (s.command 0x31 k anyRing copyMasks (fun s => s.copyStart 0x31 k false))

/-- GRANARY_GET INFO (15 Table 15.3, 17 Table 17.8). -/
def execGranaryGetInfo (k : Packet) (s : State) : Answer :=
  .next (s.command 0x31 k anyRing [0xF0000FFF] (fun s =>
    match s.regionOr (granId k) with
    | .error st => s.fail 0x31 k (if granSub k ≠ 1 then stBadParam else st)
    | .ok r =>
      match firstStatus [(granSub k ≠ 1, stBadParam), (!s.gran.avail, stFaulted), (!mayUse k r, stDenied),
          ((s.func k.fn).fullG, stBusy)] with
      | some st => s.fail 0x31 k st
      | none => s.reply 0x31 k stOk
          [BitVec.ofNat 32 (r.base / 1048576), BitVec.ofNat 32 (r.size / 1048576), BitVec.ofNat 32 r.length,
           BitVec.ofNat 32 (r.length / 2 ^ 32),
           pack [(b2n r.verified.isSome, 31), (b2n r.lost, 30), (r.owner.toNat, 16), (min r.pins 0xFFFF, 0)]]))

/-- The bytes of a WRITE are copied from host memory (15 R421, R425, 18 Table 18.8). -/
def State.copyIn (s : State) (k : Packet) (r : Region) : State :=
  let len := (k.w 5).toNat
  let tenant := partOfFn k.fn
  let (s, bs) := s.hostGet tenant (k.d 3) len
  let s := s.granWrite (r.base + k.d 1) (len / 512 + 2) bs
  let s := match tenant with | some p => s.count p 7 len | none => s
  (s.putRegion (granId k) (r.written (k.d 1 + len))).reply 0x30 k stOk [BitVec.ofNat 32 len]

/-- The bytes of a READ are copied to host memory, up to the first bad block (15 Table 15.2, 17 Table 17.8). -/
def State.copyOut (s : State) (k : Packet) (r : Region) (glitch : Bool) : State :=
  let len := (k.w 5).toNat
  let tenant := partOfFn k.fn
  let a := r.base + k.d 1
  let (s, bad) := s.readBlocks glitch (a / 512) (ceilDiv len 512)
  let n := match bad with | some b => 512 * b - a | none => len
  let s := s.hostPut tenant (k.d 3) (s.gran.mem.bytes a n)
  let s := match tenant with | some p => s.count p 7 n | none => s
  match bad with
  | none => s.reply 0x31 k stOk [BitVec.ofNat 32 n]
  | some b =>
    let o := 512 * b - r.base
    s.reply 0x31 k stFaulted [BitVec.ofNat 32 n, BitVec.ofNat 32 o, BitVec.ofNat 32 (o / 2 ^ 32)]

/-- The WRITE or READ in progress on a function with a tag. -/
def Func.copying (f : Func) (tag : Word) : Option GJob :=
  f.jobsG.find? (fun j => j.pkt.tag = tag && ((j.opc = 0x30 && granSub j.pkt = 2) || j.opc = 0x31))

/-- GRANARY_COPY_DONE: a copy finishes or meets a bad block, or its region is no longer usable. A WRITE waits for room
in the journal buffer (15 R425, 19 R539), every copy for the requests that go first (15 R433). -/
def execGranaryCopyDone (f : Fin 65) (tag : Word) (glitch : Bool) (s : State) : Answer :=
  .next (
    match (s.func f).copying tag with
    | none => s
    | some j =>
      let write := j.opc = 0x30
      if (write && !s.pwr.roomDirectory) || s.granWaits 4 j.since then s
      else
        let s := s.endG j.opc j.pkt
        match s.copyCheck j.pkt write, s.gran.dir.get? (granId j.pkt) with
        | some st, _ => s.fail j.opc j.pkt st
        | none, none => s.fail j.opc j.pkt stBadParam
        | none, some r => if write then s.copyIn j.pkt r else s.copyOut j.pkt r glitch)

/-! The journal: what waited for room goes on (19 R539). -/

/-- The CREATE or FREE that waits for room, the lowest function's oldest first. -/
def State.waitingDir (s : State) : Option Packet :=
  (List.finRange 65).findSome? (fun f =>
    ((s.func f).jobsG.find? (fun j => j.opc = 0x30 && granSub j.pkt ≠ 2)).map (·.pkt))

/-- JOURNAL_WRITE: the oldest item of the buffer is in the flash; a command that waited for its place goes on
(19 R539). -/
def execJournalWrite (s : State) : Answer :=
  .next (
    match s.pwr.journal with
    | [] => s
    | j :: l =>
      let s := ({ s with pwr := { s.pwr with journal := l } }).inJournal j
      let s := match s.waitingSeal with
        | some k => if s.pwr.roomRecord then (s.endG 0x71 k).doSeal k else s
        | none => s
      match s.waitingDir with
      | some k =>
        if s.pwr.roomDirectory then
          let s := s.endG 0x30 k
          if granSub k = 1 then s.regionFree k else s.regionCreate k
        else s
      | none => s)

/-! The controller. -/

/-- PATROL_READ: a block of a region is read and checked (15 R423), after every other waiting request (R433). -/
def execPatrolRead (block : Nat) (glitch : Bool) (s : State) : Answer :=
  .next (if !s.gran.avail || (s.gran.regionAt (512 * block)).isNone || s.granWaits 5 0 then s else (s.readBlock block glitch).1)

/-- Every region is LOST. -/
def Granary.lose (g : Granary) : Granary := { g with dir := g.dir.map (fun e => (e.1, { e.2 with lost := true })) }

/-- Refetches outstanding when the Granary becomes unavailable fail (01 R34, 04 R127). -/
def State.failRefetches (s : State) : State :=
  (List.finRange 64).foldl (fun s st =>
    (s.stl st).pad.refOut.foldl (fun s r => s.failRefetch st r.row.toNat) s) s

/-- WCK2DQ_RETRAIN: a channel retrains; the third failure in succession makes the Granary unavailable (15 R428). -/
def execWck2dqRetrain (ch : Fin 32) (ok : Bool) (s : State) : Answer :=
  let g := s.gran
  .next (
    if !g.avail then s
    else if ok then { s with gran := { g with fails := g.fails.set ch 0 } }
    else if g.fails[ch] + 1 < 3 then { s with gran := { g with fails := g.fails.set ch (g.fails[ch] + 1) } }
    else
      let chans := g.chans &&& ~~~((1 : Word) <<< ch.val)
      let g := { g.lose with avail := false, chans := chans, fails := g.fails.set ch 3, gone := true }
      ({ s with gran := g }.raise 0x1042 none false chans 0).failRefetches)

/-! MODEL_SWAP. -/

/-- The stage of a partition's swap, shown in GRAN.SWAP (15 Table 15.4). -/
def State.swapStage (s : State) (p : Fin 64) (n : Nat) : State :=
  match (s.part p).swap with
  | none => s
  | some (k, r, _) =>
    let s := s.modPart p (fun q => { q with swap := some (k, r, n) })
    { s with gran := { s.gran with swap := (min n 4, r) } }

/-- A swap ends with a status. -/
def State.swapEnd (s : State) (p : Fin 64) (status : Byte) (ws : List Word) : State :=
  match (s.part p).swap with
  | none => s
  | some (k, _, _) =>
    let s := s.modPart p (fun q => { q with swap := none, ctx := q.ctx.map (fun c => { c with swapDue := false }) })
    { s with gran := { s.gran with swap := (0, 0) } }.reply 0x32 k status ws

/-- Two sections are listed alike (15 R434). -/
def Section.like (a b : Section) : Bool :=
  a.ty = b.ty && a.ord = b.ord && a.rank = b.rank && a.target = b.target && a.len = b.len

/-- Every row of a ROWS section lies in an enabled backed region on every Stall that takes it (15 R434). -/
def Image.wholeBacked (i : Image) (x : Section) : Bool :=
  let ranks := if x.rank = 0xFFFF then List.range i.spanSize else [x.rank]
  let ords := if x.ord = 0xFF then List.range (prod (i.size.drop 4)) else [x.ord]
  i.backing.isSome && x.ord ≠ 0xFE &&
  ranks.all (fun r => ords.all (fun k =>
    let l := (i.backed r k).filterMap id
    (List.range (ceilDiv x.len 128)).all (fun n =>
      l.any (fun e => decide (e.1 ≤ x.target + n) && decide (x.target + n < e.1 + e.2.1)))))

/-- The bytes of a section differ between two images. -/
def Image.differs (i v : Image) (a b : Section) : Bool := i.body a ≠ v.body b

/-- The variant does not meet 15 R434. -/
def Image.variantBad (i v : Image) : Bool :=
  i.bytes.bytes 0 512 ≠ v.bytes.bytes 0 512 || decide (v.length < 512 + 16 * v.nsec) || i.nsec ≠ v.nsec ||
  (i.sections.zip v.sections).any (fun e =>
    !e.1.like e.2 || decide (v.length < e.2.off + e.2.len) ||
    (i.differs v e.1 e.2 && !(e.1.ty = tyScale || e.1.ty = tySig || (e.1.ty = tyRows && i.wholeBacked e.1))))

/-- The variant in a region. -/
def State.variantIn (s : State) (id : Nat) : Option Image :=
  (s.gran.dir.get? id).map (fun r => imageOf (s.gran.mem.slice r.base r.length 0) r.length)

/-- MODEL_SWAP (15 R434, 17 Table 17.4, 18 R526). -/
def execModelSwap (k : Packet) (s : State) : Answer :=
  let p := k.part
  let id := fld (k.w 0) 11 0
  .next (s.command 0x32 k headRing [0xFFF] (fun s =>
    match s.regionOr id with
    | .error st => s.fail 0x32 k st
    | .ok r =>
      let bad : Bool := match (s.part p).image, s.variantIn id with
        | some i, some v => i.variantBad v
        | _, _ => true
      match firstStatus [(!s.gran.avail, stFaulted), (bad, stBadParam), (!mayUse k r, stDenied), ((s.part p).busyP, stBusy)] with
      | some st => s.fail 0x32 k st
      | none => (s.modPart p (fun q => { q with swap := some (k, BitVec.ofNat 12 id, 0) })).swapStage p
          (if r.trusted (s.part p).keymask then 2 else 1)))

/-- The first bad block of the variant's differing sections (15 R435). -/
def State.checkPass (s : State) (i v : Image) (base : Nat) : State × Option Nat :=
  (i.sections.zip v.sections).foldl (fun (acc : State × Option Nat) e =>
    match acc with
    | (s, some b) => (s, some b)
    | (s, none) =>
      if e.2.ty ≠ tySig && e.2.len ≠ 0 && i.differs v e.1 e.2 then
        let a := (base + e.2.off) / 512
        s.readBlocks false a (ceilDiv (base + e.2.off + e.2.len) 512 - a)
      else (s, none)) (s, none)

/-- A swap is given up for a bad block (15 R435, R439). -/
def State.swapFailed (s : State) (p : Fin 64) (b : Nat) : State :=
  match (s.part p).swap with
  | none => s
  | some (_, r, _) => s.raise 0x1043 (some p) true (r.setWidth 32) (BitVec.ofNat 32 b)

/-- SWAP_CHECK_DONE: every member has reported; `bad`: a bad block of another member. The variant is in place, or the
swap ends (15 R435, R436). -/
def execSwapCheckDone (p : Fin 64) (bad : Option Nat) (s : State) : Answer :=
  .next (
    match (s.part p).swap, (s.part p).image with
    | some (_, r, 2), some i =>
      if s.granWaits 3 s.now then s
      else
      match s.variantIn r.toNat, s.regionBase (some r) with
      | some v, some base =>
        let (s, own) := if s.gran.avail then s.checkPass i v base else (s, some (base / 512))
        match own.or bad with
        | some b => (s.swapFailed p b).swapEnd p stFaulted []
        | none =>
          (s.swapStage p 3).modPart p (fun q => { q with ctx := q.ctx.map (fun c => { c with swapDue := c.state = 1 }) })
      | _, _ => s
    | _, _ => s)

/-- The rows of an enabled entry written from the Granary, up to a bad block. -/
def State.backedRows (s : State) (st : Fin 64) (e : Backed) : State × Option Nat :=
  if !e.enable then (s, none)
  else
    let b := e.gran.toNat / 4
    let (s, bad) := s.readBlocks false b (ceilDiv (e.gran.toNat + e.count.toNat) 4 - b)
    match bad with
    | some b => (s, some b)
    | none =>
      ((List.range e.count.toNat).foldl (fun s n =>
        s.writePhys st (e.start.toNat + n) (s.gran.mem.row (128 * (e.gran.toNat + n))) 0xFFFFFFFF 0) s, none)

/-- A member's write pass: every enabled entry points at an image's region and its rows are written from there, with
the SCALE entries in which the two images differ (15 R437, R439). -/
def State.writePass (s : State) (p : Fin 64) (old i : Image) (base : Nat) : State × Option Nat :=
  let rank := (s.part p).rank.toNat
  (s.part p).members.zipIdx.foldl (fun (acc : State × Option Nat) e =>
    let (s, bad) := acc
    let win := i.windows rank e.2
    let es := Vector.ofFn (fun n : Fin 16 => i.backedEntry rank e.2 win (some base) n.val)
    let s := s.modXl e.1 (fun x => { x with backed := es })
    let a := old.table rank e.2 tyScale
    let b := i.table rank e.2 tyScale
    let s := s.modCa e.1 (fun c => { c with
      scale := Vector.ofFn (fun n : Fin 256 => if a.word (4 * n.val) = b.word (4 * n.val) then c.scale[n] else b.word (4 * n.val)) })
    match bad with
    | some _ => (s, bad)
    | none =>
      let (s, bad) := es.toList.foldl (fun (acc : State × Option Nat) x =>
        match acc with
        | (s, some b) => (s, some b)
        | (s, none) => s.backedRows e.1 x) (s, none)
      let rows := (es.toList.filter (fun x => x.enable)).foldl (fun n x => n + 128 * x.count.toNat) 0
      (s.count p 7 rows, bad)) (s, none)

/-- SWAP_WRITE_PASS_START: with the variant in effect and no posted dispatch left, this member's pass (15 R437). Stage
5 keeps that it met a bad block. -/
def execSwapWritePassStart (p : Fin 64) (s : State) : Answer :=
  let q := s.part p
  .next (
    match q.swap, q.image with
    | some (_, r, 3), some i =>
      if s.granWaits 3 s.now || !q.holdsPost || q.disp.isSome || q.queue.any (fun w => w.start.isSome) then s
      else
        match s.variantIn r.toNat, s.regionBase (some r) with
        | some v, some base =>
          let s := s.swapStage p 4
          let (s, bad) := if s.gran.avail then s.writePass p i v base else (s, some (base / 512))
          match bad with
          | some b => (s.swapFailed p b).swapStage p 5
          | none => s
        | _, _ => s
    | _, _ => s)

/-- The write pass has ended: the variant is the loaded image, or the old rows are placed again; if those fail too, the
image is unloaded (15 R437, R439). -/
def State.swapPassDone (s : State) (p : Fin 64) (bad : Option Nat) : State :=
  match (s.part p).swap, (s.part p).image with
  | some (_, r, n), some i =>
    if n ≠ 4 && n ≠ 5 then s
    else
      match s.variantIn r.toNat with
      | none => s
      | some v =>
        match bad, n with
        | none, 4 =>
          let s := (s.pin i.backing false).pin (some r) true
          let s := s.modPart p (fun q => { q with image := some { v with placed := i.placed, backing := some r } })
          s.swapEnd p stOk [(s.part p).variant.setWidth 32]
        | _, _ =>
          let s := match bad with | some b => s.swapFailed p b | none => s
          match s.regionBase i.backing with
          | some base =>
            let (s, again) := if s.gran.avail then s.writePass p v i base else (s, some 0)
            let s := if again.isSome then s.unload p else s
            s.swapEnd p stFaulted []
          | none => s.swapEnd p stFaulted []
  | _, _ => s

end Sys2Proof.Machine
end

