-- ==== Sys2Proof/Machine/Clock.lean ====
section
/-! DEFINITION. The frequency agreement (19 R546 to R556, Table 19.4), debug mode (02 R65, R66), the brake (19 R565,
R566), the skew monitors (19 R547, R548) and the core rails with the droop predictor (19 R557 to R559). -/

namespace Sys2Proof.Machine

/-! The demand (19 Table 19.4). -/

/-- The sources that apply: reason bit and limit. -/
def State.limits (s : State) : List (Nat × Nat) :=
  [(0, s.clk.ceil.toNat)] ++ (if s.pwr.brake then [(1, 0)] else []) ++ (if s.sys.dbgEn then [(2, 4)] else []) ++
  (if s.pwr.capPower < 32 then [(3, s.pwr.capPower)] else []) ++ (if s.pwr.capTherm < 32 then [(4, s.pwr.capTherm)] else [])

/-- The module's demand and its reason bits: every source that applies sets its bit (log 40). -/
def State.demand (s : State) : Nat := s.limits.foldl (fun m e => min m e.2) 32
def State.reasons (s : State) : BitVec 5 := BitVec.ofNat 5 (s.limits.foldl (fun m e => m + 2 ^ e.1) 0)

/-- The lowest demand of the subtree and the OR of its reason bits (19 R551). -/
def State.subtree (s : State) : BitVec 6 × BitVec 5 :=
  s.clk.kids.foldl (fun m k => (if k.2.1 < m.1 then k.2.1 else m.1, m.2 ||| k.2.2.1)) (BitVec.ofNat 6 s.demand, s.reasons)

/-- The words of a FREQ_DEMAND record (19 R551). -/
def demandWords (node : BitVec 13) (f : BitVec 6) (r : BitVec 5) : List Nat := [node.toNat, f.toNat, r.toNat]

/-- A FREQ_DEMAND record goes to the timing parent, if the subtree's demand has changed or `always` (19 R551). -/
def State.tellDemand (s : State) (always : Bool) : State :=
  match s.link.parent with
  | none => s
  | some n =>
    let d := s.subtree
    if !always && s.clk.sent = some d then s
    else
      let clk := { s.clk with sent := some d }
      { s with clk := clk }.sendRecord n 0x07 (demandWords s.me d.1 d.2)

/-- CLK.FREQ (19 Table 19.7). -/
def State.freqWord (s : State) : Word :=
  pack [(s.clk.fcode.toNat, 24), (s.demand, 16), (s.clk.ceil.toNat, 8), (s.reasons.toNat, 0)]

/-- FREQ_DEMAND: a timing child's record; it is forwarded to the timing parent, and this module's own follows if its
subtree's demand has changed (19 R551). -/
def execFreqDemand (n : Fin 20) (node : BitVec 13) (fcode : BitVec 6) (reasons : BitVec 5) (s : State) : Answer :=
  .next (
    if (s.sheaf n).state ≠ .active || s.link.parent = some n then s
    else
      let clk := { s.clk with kids := (node, fcode, reasons, sheafPort n) :: s.clk.kids.filter (fun k => k.1 ≠ node) }
      let s := { s with clk := clk }
      let s := match s.link.parent with
        | some m => s.sendRecord m 0x07 (demandWords node fcode reasons)
        | none => s
      s.tellDemand false)

/-- FREQ_SET: the ceiling is a demand at once; the reply follows the boundary at which it takes effect (17 R496). -/
def execFreqSet (k : Packet) (s : State) : Answer :=
  let f := fld (k.w 0) 5 0
  .next (s.command 0x60 k operator [0x3F] (fun s =>
    match firstStatus [(decide (32 < f), stBadParam), (s.clk.job.isSome, stBusy)] with
    | some st => s.fail 0x60 k st
    | none =>
      let clk := { s.clk with ceil := BitVec.ofNat 6 f, job := some (k, s.now) }
      { s with clk := clk }.tellDemand false))

/-- SYS.DEBUG.ENABLE written (02 R65). -/
def State.putDebug (s : State) (v : Word) : State :=
  let b := bit v 0
  if b = s.sys.dbgEn then s
  else
    let sys := { s.sys with dbgEn := b, dbgAt := (s.now, b) :: s.sys.dbgAt }
    { s with sys := sys }.tellDemand false

/-- DEBUG_ENABLE: a write to SYS.DEBUG.ENABLE (02 R65). -/
def execDebugEnable (v : Word) (s : State) : Answer :=
  .next (s.viaMatrix (.host 0) 0x40 (some v) (State.putDebug · v))

/-- BRAKE_ASSERT: a low of 2 µs on PWR_BRAKE_N (19 R565, R566). -/
def execBrakeAssert (s : State) : Answer :=
  .next (
    if s.pwr.brake then s
    else
      let s := { s with pwr := { s.pwr with brake := true }, chain := { s.chain with brakeN := false } }
      (s.tellDemand false).raise 0x6003 none false s.freqWord 0)

/-- BRAKE_RELEASE: PWR_BRAKE_N has stayed high for 200 µs (19 R565, R566). -/
def execBrakeRelease (s : State) : Answer :=
  .next (
    if !s.pwr.brake then s
    else
      let s := { s with pwr := { s.pwr with brake := false }, chain := { s.chain with brakeN := true } }
      (s.tellDemand false).raise 0x6004 none false s.freqWord 0)

/-! Epochs. -/

/-- FARG of EPOCH (11 Table 11.9). -/
def epochArg (num : Nat) (f : BitVec 6) : BitVec 26 := BitVec.ofNat 20 num ++ f

/-- The sheaves towards timing children: ACTIVE, on this timebase, and not the parent's (19 R552; log 41). -/
def State.timingKids (s : State) : List (Fin 20) :=
  let up := match s.link.parent with | some n => (s.sheaf n).far.map (·.1) | none => none
  (List.finRange 20).filter (fun n =>
    let h := s.sheaf n
    h.state = .active && !h.foreign && !h.selfLoop && (up.isNone || h.far.map (·.1) ≠ up))

def State.sendEpoch (s : State) (arg : BitVec 26) : State :=
  s.timingKids.foldl (fun s n => s.sendSymbol n 5 arg) s

/-- EPOCH_DECISION: in cycle 65,536e + 32,768 the root of its subtree fixes F(e + 1) as the lowest demand it holds and
sends it, and again 1,024 cc later (19 R552, R556). -/
def execEpochDecision (s : State) : Answer :=
  let c := s.cycle % 65536
  .next (
    if s.link.parent.isSome then s
    else if c = 32768 then
      let f := s.subtree.1
      let e := s.cycle / 65536 + 1
      let arg := epochArg e f
      let clk := { s.clk with next := some (BitVec.ofNat 20 e, f), copyAt := some (s.cycle + 1024, arg) }
      { s with clk := clk }.sendEpoch arg
    else
      match s.clk.copyAt with
      | some (t, arg) =>
        if t ≠ s.cycle then s
        else
          let clk := { s.clk with copyAt := none }
          { s with clk := clk }.sendEpoch arg
      | none => s)

/-- EPOCH: the timing parent's symbol fixes the next epoch's FCODE; each copy on the parent sheaf goes on to the timing
children (19 R552). -/
def execEpoch (n : Fin 20) (arg : BitVec 26) (s : State) : Answer :=
  .next (
    match s.link.parent with
    | none => s
    | some m =>
      if (s.sheaf n).state ≠ .active || (s.sheaf n).far.map (·.1) ≠ (s.sheaf m).far.map (·.1) then s
      else
        let clk := { s.clk with next := some (BitVec.ofNat 20 (fld arg 25 6), BitVec.ofNat 6 (fld arg 5 0)) }
        let s := { s with clk := clk }
        if n = m then s.sendEpoch arg else s)

/-- EPOCH_MISSED: no EPOCH symbol for the next epoch by cycle 65,536e + 49,152 (19 R555). -/
def execEpochMissed (s : State) : Answer :=
  let e := s.cycle / 65536
  let num := BitVec.ofNat 20 (e + 1)
  let got : Bool := match s.clk.next with | some (k, _) => k = num | none => false
  .next (
    if s.cycle % 65536 ≠ 49152 || s.link.parent.isNone || got || s.clk.missFor = some e then s
    else
      let clk := { s.clk with missed := satAdd s.clk.missed 1, missFor := some e }
      { s with clk := clk }.raise 0x6007 none false (num.setWidth 32) 0)

/-- A demand of this module made at a time in ps is part of the frequency that begins at a boundary in this cycle: it
reached the root, DIST µs away, before the decision half an epoch ago (19 R553). -/
def State.inForce (s : State) (at' : Nat) : Bool :=
  decide (at' + s.link.dist.toNat * 1000000 + 32768 * 20000 / (4 + s.clk.fcode.toNat) < s.now)

/-- The value of SYS.DEBUG.ENABLE that a decision took into account: the newest one that had reached the root, and what is kept
of the history (02 R65). -/
def State.debugTaken (s : State) : Bool × List (Nat × Bool) :=
  match s.sys.dbgAt.find? (fun e => s.inForce e.1) with
  | some e => (e.2, s.sys.dbgAt.filter (fun x => !s.inForce x.1) ++ [e])
  | none => (false, s.sys.dbgAt)

/-! Core rails (19 R557 to R559), in 0.1 mV above V_NOM and in 0.01 mV. -/

/-- V_NOM in 0.01 mV. -/
def vNom (f : Nat) : Nat := 60000 + 625 * f

/-- The Stalls of a Field, and whether a partition has one there. -/
def inField (f : Fin 4) (st : Fin 64) : Bool := st.val / 16 = f.val
def Part.inField (q : Part) (f : Fin 4) : Bool := q.state ≠ 0 && q.members.any (Machine.inField f)

/-- The class that applies to a partition in a Field in an epoch, from its Stalls' forecasts of the epoch before;
without one, class 15 (19 R558). -/
def State.actClass (s : State) (p : Fin 64) (f : Fin 4) (now : Bool) : Fin 16 :=
  let l := ((s.part p).members.filter (inField f)).filterMap (fun st =>
    let x := s.stl st
    if now then x.actPrev else x.act)
  fin 15 (l.foldl (fun m a => max m (a.toNat + 1)) 0 + 15)

/-- A Field holds a Stall of a newly powered partition (19 R559): the margins of the others are kept, not used (19 Corners). -/
def State.freshField (s : State) (f : Fin 4) : Bool :=
  (List.finRange 64).any (fun p => (s.part p).inField f && (s.part p).fresh)

/-- A Field runs at the guard-band voltage (19 R558, R559). -/
def State.guarded (s : State) (f : Fin 4) : Bool :=
  s.pwr.guardTo[f].isSome || s.freshField f

/-- The margin in force in a Field: the largest of its partitions; with no partition there, V_GB (19 R557, Table 20.9;
log 29). -/
def State.marginOf (s : State) (f : Fin 4) : Nat :=
  let l := (List.finRange 64).filter (fun p => (s.part p).inField f)
  if s.guarded f || l.isEmpty then 500
  else l.foldl (fun m p => max m (s.part p).margin[s.actClass p f true]) 0

/-- The voltage that VCORE_Ff is commanded to, in 0.01 mV: raised for the coming epoch as soon as that is fixed, 0 while
the rails are off (19 R537, R554, R557). -/
def State.rail (s : State) (f : Fin 4) : Nat :=
  if 2 ≤ s.pwr.mstate.toNat then 0
  else
    let up := match s.clk.next with
      | some (e, g) => if e = BitVec.ofNat 20 (s.cycle / 65536 + 1) then max g.toNat s.clk.fcode.toNat else s.clk.fcode.toNat
      | none => s.clk.fcode.toNat
    min (vNom up + 10 * s.marginOf f) (max 85000 (vNom up))

/-- A commanded voltage in mV; how its fraction shows in the register is not stated, so that is open (log 7). -/
def State.milliVolt (s : State) (v : Nat) : State × Word :=
  if v % 100 = 0 then (s, BitVec.ofNat 32 (v / 100))
  else
    let (w, s) := s.draw
    (s, BitVec.ofNat 32 (v / 100 + w.toNat % 2))

/-- A rail has dipped more than 10 mV below V_NOM (19 R558). -/
def State.droop (s : State) (f : Fin 4) : State :=
  let s := (List.finRange 64).foldl (fun s p =>
    if !(s.part p).inField f then s
    else
      let a := s.actClass p f true
      s.modPart p (fun q => { q with margin := q.margin.set a 500, goodEp := q.goodEp.set a 0 })) s
  let pwr := { s.pwr with guardTo := s.pwr.guardTo.set f (some (s.now + 2000000000)), droops := satAdd s.pwr.droops 1 }
  let s := { s with pwr := pwr }
  let (s, mv) := s.milliVolt (s.rail f)
  s.raise 0x6005 none false (BitVec.ofNat 32 f.val) mv

/-- GUARD_BAND_END: the 2 ms at V_GB after a droop alarm are over (19 R558). Before that it does nothing. -/
def execGuardBandEnd (f : Fin 4) (s : State) : Answer :=
  .next (
    match s.pwr.guardTo[f] with
    | some t => if s.now < t then s else { s with pwr := { s.pwr with guardTo := s.pwr.guardTo.set f none } }
    | none => s)

/-- The predictor at the end of an epoch: for each class that applied, 16 epochs in a row above V_NOM − 5 mV lower the
margin by 2.5 mV, down to 10 mV (19 R558); while the partition is newly powered it does not begin (R559). -/
def State.learn (s : State) (p : Fin 64) : State :=
  let q := s.part p
  if q.state = 0 || q.fresh then s
  else
    (List.finRange 16).foldl (fun s a =>
      let fs := (List.finRange 4).filter (fun f => q.inField f && s.actClass p f true = a)
      if fs.isEmpty || fs.any s.freshField then s
      else if fs.any (fun f => decide (50 ≤ s.pwr.dip[f])) then s.modPart p (fun q => { q with goodEp := q.goodEp.set a 0 })
      else if q.goodEp[a] < 15 then s.modPart p (fun q => { q with goodEp := q.goodEp.set a (q.goodEp[a] + 1) })
      else s.modPart p (fun q =>
        { q with goodEp := q.goodEp.set a 0, margin := q.margin.set a (max 100 (q.margin[a] - 25)) })) s

/-- A newly powered partition is trained: 2 ms of dispatches and one whole epoch of them (19 R559). -/
def Part.train (q : Part) : Part :=
  let whole := q.freshEpoch || decide (65536 ≤ q.epochRun)
  let done := whole && decide (2000000000 ≤ q.freshPs)
  if q.fresh then { q with fresh := !done, freshEpoch := whole && !done } else q

/-! Skew (19 R547, R548). -/

/-- SKEW_TRIM: every 256 cc the PP trims the delay lines by at most 1 ps against the skews its monitors show; one beyond
±120 ps raises the alarm. -/
def execSkewTrim (skew : Vector Half 4) (s : State) : Answer :=
  let trim : Vector Half 4 := skew.map (fun k => if k = 0 then (0 : Half) else if 0 < k.toInt then (0xFFFF : Half) else (1 : Half))
  .next (
    if s.cycle % 256 ≠ 0 then s
    else
      let s := { s with clk := { s.clk with skew := skew } }
      let s := (List.finRange 4).foldl (fun s b =>
        let k : Int := skew[b].toInt
        if k ≤ 120 ∧ -120 ≤ k then s
        else
          let s := { s with clk := { s.clk with alarms := satAdd s.clk.alarms 1 } }
          s.raise 0x6006 none false (BitVec.ofNat 32 b.val) (BitVec.ofInt 32 k)) s
      s.emit (.trim trim))

end Sys2Proof.Machine
end

