-- ==== Sys2Proof/Machine/Telemetry.lean ====
section
/-! DEFINITION. The telemetry ADC and its sequence (19 R560 to R562), energy integration and attribution (19 R563,
R564, Table 19.6), and the epoch boundary (19 R546). -/

namespace Sys2Proof.Machine

/-! The sequence. -/

/-- Fields of a TELEM.SEQ entry (19 Table 19.7). -/
def seqOn (w : Word) : Bool := bit w 31 && decide (0 < fld w 7 0)
def seqCh (w : Word) : Nat := fld w 28 24
def seqCount (w : Word) : Nat := fld w 7 0

/-- The first usable entry from an index on. -/
def Telem.entryFrom (t : Telem) (i : Nat) : Option (Nat × Nat) :=
  ((List.range 32).find? (fun n => decide (i ≤ n) && seqOn (t.seq.toList.getD n 0))).map (fun n => (n, 0))

/-- A trigger: it starts the sequence, or is ignored and counted while it runs (19 R561). -/
def State.trigger (s : State) : State :=
  let t := s.telem
  match t.pos with
  | some _ => { s with telem := { t with missed := satAdd t.missed 1 } }
  | none => { s with telem := { t with pos := t.entryFrom 0 } }

/-- TELEM_PERIOD_TRIGGER: the PP's timer, while it runs, PERIOD µs after it last did (19 R561). Before that it does nothing. -/
def execTelemPeriodTrigger (s : State) : Answer :=
  .next (
    if !s.telem.run || decide (s.now < s.telem.trigAt + s.telem.period.toNat * 1000000) then s
    else { s with telem := { s.telem with trigAt := s.now } }.trigger)

/-- TRIGGER: a write of TELEM.TRIGGER. -/
def execTrigger (v : Word) (s : State) : Answer := .next (if bit v 0 then s.trigger else s)

/-- The default sequence (19 R562): 8 samples of channels 0 to 3, 4 of each other channel, gain and filter at their
lowest codes (log 42). -/
def telemDefault : Vector Word 32 :=
  Vector.ofFn (fun i : Fin 32 => if i.val < 24 then pack [(1, 31), (i.val, 24), (if i.val < 4 then 8 else 4, 0)] else 0)

/-- The rail whose current a channel measures, and the channel of that rail's voltage (19 Table 19.5, R563; log 43). -/
def railOf (ch : Nat) : Option (Fin 10 × Option (Fin 24)) :=
  match ch with
  | 0 => some (0, some 4)
  | 1 => some (1, some 5)
  | 2 => some (2, some 6)
  | 3 => some (3, some 7)
  | 8 => some (4, some 9)
  | 10 => some (5, some 11)
  | 12 => some (6, none)
  | 18 => some (7, none)
  | 15 => some (8, some 14)
  | 17 => some (9, some 16)
  | _ => none

/-- A sample of a rail's current channel advances its integrator (19 R563). -/
def State.integrate (s : State) (ch : Nat) (valid : Bool) : State :=
  match railOf ch with
  | none => s
  | some (r, v) =>
    let t := s.telem
    let i := (t.result[fin 23 ch]).good.toNat
    let volt := match v with | some c => (t.result[c]).good.toNat | none => 0
    let e := t.energy[r].toNat + Config.sampleEnergy r.val i volt ((s.now - t.eAt[r]) / 1000)
    let t := { t with energy := t.energy.set r (BitVec.ofNat 64 e), eAt := t.eAt.set r s.now }
    { s with telem := if valid then t else { t with held := satAdd t.held 1 } }

/-- The cell's voltage in mV: it is ready at 15.5 V; waiting creations go on, or the event is raised (19 R569, 20 R610). -/
def State.cellAt (s : State) (mv : Half) : State :=
  let was := s.pwr.cellReady
  let ready : Bool := decide (15500 ≤ mv.toNat)
  let s := { s with pwr := { s.pwr with cellReady := ready, cell := mv } }
  if ready && !was then s.carryOn
  else if was && !ready && s.pwr.valid then s.raise 0x600A none false (mv.setWidth 32) 0
  else s

/-- The converter takes a sample every 5 µs (19 R560); in M2, where the model's time moves in ticks, that is not seen (log 12). -/
def State.sampleDue (s : State) : Bool := match s.telem.sampleAt with
  | some t => decide (2 ≤ s.pwr.mstate.toNat) || decide (t + 5000000 ≤ s.now)
  | none => true

/-- ADC_SAMPLE: one sample of the running sequence; `dip`: how far below V_NOM, in 0.1 mV, a sample of a VCORE voltage
shows its rail to have fallen in this epoch, which the code's scale would give (19 R558, R560 to R563; log 8). -/
def execAdcSample (code : BitVec 12) (dip : Option Nat) (s : State) : Answer :=
  .next (
    match s.telem.pos with
    | none => s
    | some (e, i) =>
      if !s.sampleDue then s
      else
      let t := { s.telem with sampleAt := some s.now }
      let w := t.seq.toList.getD e 0
      let ch := seqCh w
      let mode := w &&& 0x1F310000
      let n := match t.mode with | some (m, k) => if m = mode then k + 1 else 0 | none => 0
      let valid : Bool := decide (3 ≤ n)
      let old := t.result[fin 23 ch]
      let r : TelResult := { valid := valid, good := if valid then code else old.good, last := code }
      let pos := if i + 1 < seqCount w then some (e, i + 1) else t.entryFrom (e + 1)
      let res := if ch < 24 then t.result.set (fin 23 ch) r else t.result
      let s := { s with telem := { t with mode := some (mode, n), result := res, pos := pos } }
      let s := s.integrate ch valid
      if !valid then s
      else if 19 ≤ ch ∧ ch ≤ 23 then
        { s with pwr := { s.pwr with temps := s.pwr.temps.set (fin 4 (ch - 19)) (Config.celsius code.toNat) } }
      else if ch = 16 then s.cellAt (BitVec.ofNat 16 (Config.cellMilliVolt code.toNat))
      else if 4 ≤ ch ∧ ch ≤ 7 then
        let f : Fin 4 := fin 3 (ch - 4)
        let d := dip.getD 0
        let s := { s with pwr := { s.pwr with dip := s.pwr.dip.set f (max s.pwr.dip[f] d) } }
        if 100 < d then s.droop f else s
      else s)

/-! Energy attribution (19 R564, Table 19.6). -/

/-- Energy of a rail in the epoch. -/
def Telem.epochEnergy (t : Telem) (r : Fin 10) : Nat := t.energy[r].toNat - t.eMark[r].toNat

/-- Activity units of the Stalls of a Field that a test picks. -/
def State.unitsIn (s : State) (f : Fin 4) (pick : Fin 64 → Bool) : Nat :=
  ((List.finRange 64).filter (fun st => inField f st && pick st)).foldl (fun n st => n + (s.stl st).units) 0

/-- A share of an amount, 0 of nothing. -/
def shareOf (amount part whole : Nat) : Rat := if whole = 0 then 0 else (amount * part : Nat) / (whole : Rat)

/-- Energy of the hub rails and of the conversion loss. -/
def Telem.hubEnergy (t : Telem) : Nat :=
  let hub := t.epochEnergy 4 + t.epochEnergy 5 + t.epochEnergy 6 + t.epochEnergy 7
  let core := t.epochEnergy 0 + t.epochEnergy 1 + t.epochEnergy 2 + t.epochEnergy 3
  hub + (t.epochEnergy 8 - (hub + core))

/-- A partition's share of the epoch's energy. -/
def State.energyShare (s : State) (p : Fin 64) : Rat :=
  let q := s.part p
  let stalls := s.existing.foldl (fun n x => n + popCount (s.part x).stalls) 0
  let core := (List.finRange 4).foldl (fun (e : Rat) f =>
    e + shareOf (s.telem.epochEnergy (fin 9 f.val)) (s.unitsIn f (fun st => q.stalls.getLsbD st.val)) (s.unitsIn f (fun _ => true))) 0
  core + shareOf s.telem.hubEnergy (popCount q.stalls) stalls

/-- A partition's whole µJ are added to its counters, split by the cc of the epoch in which it had a dispatch running;
the fraction is carried. -/
def State.bill (s : State) (p : Fin 64) : State :=
  let q := s.part p
  let e := q.frac + s.energyShare p
  let n := e.floor.toNat
  let run := n * min q.epochRun 65536 / 65536
  ((s.modPart p (fun q => { q with frac := e - (n : Rat) })).count p 2 run).count p 3 (n - run)

/-- The epoch's energy is divided among the partitions; the rest is PWR.UNATTRIB_UJ. -/
def State.attribute (s : State) : State :=
  let all := (List.finRange 10).foldl (fun n r => if r.val < 4 then n + s.telem.epochEnergy r else n) 0 + s.telem.hubEnergy
  let given := s.existing.foldl (fun (e : Rat) p => e + s.energyShare p) 0
  let rest := s.pwr.unattrFrac + ((all : Rat) - given)
  let n := rest.floor.toNat
  let s := s.existing.foldl (fun s p => s.bill p) s
  let pwr := { s.pwr with unattr := BitVec.ofNat 64 (s.pwr.unattr.toNat + n), unattrFrac := rest - (n : Rat) }
  { s with pwr := pwr, telem := { s.telem with eMark := s.telem.energy } }

/-! The limits that are set once an epoch (19 Table 19.4). -/

/-- The power limit in force: PWR.LIMIT, and 1,000 W while no frame comes over the isolator (19 R536, R567). -/
def Pwr.limitNow (w : Pwr) : Nat := if w.isoLimit then min w.limit.toNat 1000 else w.limit.toNat

/-- PWR.INPUT (19 Table 19.7). -/
def Pwr.input (w : Pwr) : Word := pack [(w.inVolt.toNat, 16), (w.inWatt.toNat, 0)]

/-- The power limit constrains the demand: no other source asks for as little (log 40). -/
def State.constrained (s : State) : Bool :=
  (s.limits.filter (fun e => e.1 ≠ 3)).all (fun e => decide (s.pwr.capPower < e.2))

/-- The input power of the epoch that ended, and what the power limit and the temperatures ask for. -/
def State.caps (s : State) : State :=
  let w := s.pwr
  let watt := if w.wattN = 0 then w.inWatt else BitVec.ofNat 16 (w.wattSum / w.wattN)
  let f := s.clk.fcode.toNat
  let lim := w.limitNow
  let cap := if lim < watt.toNat then f - 1
    else if watt.toNat * 10 < 9 * lim then min (w.capPower + 1) 32 else w.capPower
  let hot := w.temps.toList.foldl max 0
  let therm := if 105 ≤ hot then 0 else if 95 ≤ hot then f - 2 else 32
  let s := { s with pwr := { w with inWatt := watt, wattSum := 0, wattN := 0, capPower := cap, capTherm := therm,
                                    thermal := decide (therm < 32) } }
  let now := s.constrained
  let s' := { s with pwr := { s.pwr with limiting := now, limited := now } }
  if now && !w.limited then s'.raise 0x6009 none false s'.pwr.input (s'.pwr.limit.setWidth 32) else s'

/-- FREQ_SET completes at the boundary at which its ceiling takes effect: FCODE in force and the boundary (17 R496). -/
def State.freqDone (s : State) : State :=
  match s.clk.job with
  | none => s
  | some (k, _) =>
    { s with clk := { s.clk with job := none } }.reply 0x60 k stOk
      [s.clk.fcode.setWidth 32, BitVec.ofNat 32 s.cycle, BitVec.ofNat 32 (s.cycle / 2 ^ 32)]

/-- EPOCH_BOUNDARY: in a cycle that is a multiple of 65,536 the Fields switch to the frequency decided, debug mode and a
ceiling take effect, energy is attributed, the predictor and the limits are brought up to date,
and the demand goes to the timing parent (19 R546, R551, R553, R558, R559, R564, 02 R65, 11 R302). -/
def execEpochBoundary (s : State) : Answer :=
  let e := s.cycle / 65536
  .next (
    if s.cycle % 65536 ≠ 0 || s.clk.epoch = e then s
    else
      let got : Option (BitVec 6) := match s.clk.next with | some (n, f) => if n = BitVec.ofNat 20 e then some f else none | none => none
      let f := got.getD s.clk.fcode
      let ceil : Bool := match s.clk.job with | some (_, t) => got.isSome && s.inForce t | none => false
      let (on, hist) := s.debugTaken
      let sys := if got.isSome then { s.sys with dbgOn := on && decide (f.toNat ≤ 4), dbgAt := hist } else s.sys
      let s := { s with clk := { s.clk with epoch := e, fcode := f }, sys := sys }
      let s := if ceil then s.freqDone else s
      let s := s.attribute.caps
      let s := (List.finRange 64).foldl (fun s p => s.learn p) s
      let s := { s with pwr := { s.pwr with dip := Vector.replicate 4 0 } }
      let parts := s.parts.map (fun q => { Part.train q with epochRun := 0 })
      let stalls := s.stalls.map (fun (x : Stall) => { x with units := 0, actPrev := x.act, act := none })
      let s := { s with parts := parts, stalls := stalls }
      s.tellDemand true)

end Sys2Proof.Machine
end

