-- ==== Sys2Proof/Machine/Power.lean ====
section
/-! DEFINITION. Module and Stall power states (17 R497, 19 R540 to R545), the isolated control link (19 R536), the
thermal trip (19 R568), busbar loss, the backup cell and the flush (19 R569 to R576). -/

namespace Sys2Proof.Machine

/-- The module state M0 to M3 (19 Table 19.2): M0 while any Stall is in S0 or S1. -/
def State.moduleState (s : State) : Nat :=
  if 2 ≤ s.pwr.mstate.toNat then s.pwr.mstate.toNat
  else if s.stalls.toList.any (fun x => x.power = .s0 || x.power = .s1) then 0 else 1

/-! Stall power states (19 Table 19.3). -/

/-- What S2 does not retain reads 0 after the wake; the descriptor, record and take files are rebuilt from their
window rows. -/
def Stall.wakeS2 (x : Stall) : Stall :=
  let seq := { x.seq with keys := Vector.replicate 16 ⟨0, 0⟩, loops := Vector.replicate 8 ⟨0, 0⟩ }
  let ln (l : Lanes) : Lanes := { l with const := Vector.replicate 16 0 }
  let y : Stall :=
    { x with seq := seq, le := ln x.le, ve := ln x.ve, ca := { x.ca with acc := [], valid := false }, te := { x.te with xtile := [] },
             power := .s1, wake := none }
  y.remirror

/-- A scratchpad that has lost everything, with the scrubber where it stood: it resumes there, and its passes count since cold
reset (04 R130, R136). -/
def Pad.lost (d : Pad) : Pad :=
  { Pad.reset with
    passes := d.passes, scrubRow := d.scrubRow, scrubCur := d.scrubCur, scrubWait := d.scrubWait, scrubHot := d.scrubHot,
    scrubTicks := d.scrubTicks, scrubIssued := d.scrubIssued, scrubPass := d.scrubPass, scrubTold := d.scrubTold }

/-- A Stall without power: it keeps nothing but the scrubber's place. Its router is the Market's and works on in every power
state (00 R5, 10 R265, R281). -/
def Stall.off (x : Stall) : Stall := { Stall.reset with pad := x.pad.lost, rt := x.rt }

/-- A Stall of a partition goes to S2 or to S3, which keeps nothing. -/
def Stall.sleep (x : Stall) (deep : Bool) : Stall :=
  if deep then x.off
  else if x.power = .s3 then x
  else { x with power := .s2, wake := none, ops := [] }

/-- A Stall that leaves S3: its scratchpad is cleared, its partition's image unloaded, and the partition counts as
newly powered (19 R544). -/
def State.leaveS3 (s : State) (st : Fin 64) : State :=
  match s.owner st with
  | none => s
  | some p =>
    let s := s.modStl st (fun x => { x.off with pad := { x.pad.lost with log := x.pad.log }, power := .s1 })
    (s.unload p).modPart p (fun q => { q with fresh := true, freshPs := 0, freshEpoch := false })

/-- The state that a POWER_STATE command has reached, once it has: its Stalls run, or one of the module's does. -/
def State.reached (s : State) (k : Packet) : Option Nat :=
  if bit (k.w 0) 31 then
    if s.awake k.part then some (if (s.part k.part).disp.isSome then 0 else 1) else none
  else if s.moduleState = 0 then some 0 else none

/-- A POWER_STATE that waits for a wake completes. -/
def State.powerDone (s : State) : State :=
  match s.jobPower with
  | none => s
  | some k =>
    match s.reached k with
    | some n => { s with jobPower := none }.reply 0x61 k stOk [BitVec.ofNat 32 n]
    | none => s

/-- POWER_STATE on the module (17 R497): M0 wakes the Stalls of every partition, M1 puts them in S2, M2 destroys every
partition first. With no Stall to wake M0 cannot be reached, and the reply gives the state the module is in (log 44). -/
def State.powerModule (s : State) (k : Packet) (n : Nat) : State :=
  let done (s : State) (n : Nat) : State := s.reply 0x61 k stOk [BitVec.ofNat 32 n]
  match n with
  | 0 =>
    if s.existing.isEmpty then done s s.moduleState
    else
      let s := { s with jobPower := some k }
      (s.existing.foldl State.wakeStalls s).powerDone
  | 1 =>
    let s := s.existing.foldl (fun s p => (s.part p).members.foldl (fun s st => s.modStl st (fun x => x.sleep false)) s) s
    done s s.moduleState
  | _ => { (done s 2) with pwr := { s.pwr with toM2 := true } }.m2Step

/-- POWER_STATE on a partition's Stalls. A Stall in S3 stays there when S2 is asked for. -/
def State.powerStalls (s : State) (k : Packet) (n : Nat) : State :=
  let p := k.part
  if n < 2 then ({ s with jobPower := some k }.wakeStalls p).powerDone
  else
    let s := (s.part p).members.foldl (fun s st => s.modStl st (fun x => x.sleep (n = 3))) s
    let deep := (s.part p).members.any (fun st => (s.stl st).power = .s3)
    s.reply 0x61 k stOk [BitVec.ofNat 32 (if deep then 3 else n)]

/-- POWER_STATE (17 R497). -/
def execPowerState (k : Packet) (s : State) : Answer :=
  let w := k.w 0
  let n := fld w 1 0
  let q := s.part k.part
  let busy := (List.finRange 64).any (fun p => (s.part p).dispatching)
  .next (s.command 0x61 k operator [0x80000003] (fun s =>
    let st := if bit w 31 then
        firstStatus [(!q.exists', stBadParam), (s.jobPower.isSome || (n ≠ 0 && q.dispatching) || (n = 3 && q.spanState = 2), stBusy)]
      else firstStatus [(n = 3, stBadParam), (s.jobPower.isSome || (n ≠ 0 && busy), stBusy)]
    match st with
    | some st => s.fail 0x61 k st
    | none => if bit w 31 then s.powerStalls k n else s.powerModule k n))

/-- A Stall's wake is done: its partition's queued dispatch is posted with the last one (19 R543). -/
def State.woken (s : State) (st : Fin 64) : State :=
  match s.owner st with
  | some p => (s.postHead p).powerDone
  | none => s.powerDone

/-- STALL_WAKE_DONE: 5 µs after a wake from S2, 20 µs from S3 (19 Table 19.3, R544). Before that it does nothing. -/
def execStallWakeDone (st : Fin 64) (s : State) : Answer :=
  let x := s.stl st
  .next (
    match x.wake with
    | none => s
    | some t =>
      if s.now < t then s
      else if x.power = .s3 then (s.leaveS3 st).woken st
      else (s.setStl st x.wakeS2).woken st)

/-- MODULE_WAKE_DONE: the module reaches M1, within 30 ms of a wake request (19 Table 19.2, 20 Table 20.5). Its sheaves
train from then on. -/
def execModuleWakeDone (s : State) : Answer :=
  .next (
    match s.pwr.wake with
    | none => s
    | some _ =>
      let chain := s.chain.attend 0x40
      { s with pwr := { s.pwr with mstate := 1, wake := none }, chain := chain })

/-- THERMAL_TRIP: a temperature channel has read 115 °C or more for 1 ms (19 R568, R545). -/
def execThermalTrip (ch : Fin 24) (deg : Nat) (s : State) : Answer :=
  .next (
    if ch.val < 19 || decide (deg < 115) || decide (2 ≤ s.pwr.mstate.toNat) || s.pwr.toM2 then s
    else
      let s := s.raise 0x6008 none false (BitVec.ofNat 32 ch.val) (BitVec.ofNat 32 deg)
      { s with pwr := { s.pwr with thermal := true, toM2 := true } }.m2Step)

/-! Busbar loss (19 R570 to R576). -/

/-- The always-on part of a partition's entry: what the Ledger holds. -/
def Part.ledgerOnly (q : Part) : Part :=
  { Part.reset with close := q.close, cnt := q.cnt, sealSeq := q.sealSeq, frac := q.frac, createSeq := q.createSeq,
                    account := q.account }

/-- Every rail but those of the always-on domain is off: the hub, the dies, the links and the Granary stop, and what
they held is lost (19 R537, R570, 15 R427, 16 R468). -/
def State.dark (s : State) : State :=
  let gran := { s.gran.lose with mem := [], crc := [], avail := false, retained := false, gone := true, swap := (0, 0) }
  { s with
    stalls := Vector.replicate 64 .reset, parts := s.parts.map Part.ledgerOnly, funcs := Vector.replicate 65 .reset,
    sheaves := Vector.replicate 20 .reset, ports := portsReset, ring := .reset, fab := .reset, gran := gran,
    flights := [], sram := [], lockWas := none, jobPower := none, jobDiag := none,
    sys := { s.sys with request := s.sys.request, rowBusy := false },
    clk := { s.clk with job := none, next := none, copyAt := none },
    telem := { s.telem with pos := none },
    pwr := { s.pwr with mstate := 2, toM2 := false, wake := none } }

/-- Members of formed spans leave them: cause MEMBER_LEFT (12 Table 12.3). -/
def State.membersLeave (s : State) : State :=
  s.existing.foldl (fun s p => if (s.part p).spanState = 2 then s.spanFault p 2 s.cycle else s) s

/-- The flush has ended: with the busbar back, the restart follows (19 R574); a reset requested meanwhile too (20
R602). -/
def State.flushEnd (s : State) (outcome : BitVec 2) : State :=
  let s := { s with pwr := { s.pwr with flush := none, flushOut := outcome } }
  if s.pwr.valid then { s with sys := { s.sys with request := some (2, 5) } } else s

/-- The busbar is lost: the loss tick, the cell, the records to flush in their order, the rails (19 R570). What waits behind a
full part of the buffer is not in it (R539). -/
def State.busbarLost (s : State) : State :=
  if !s.pwr.valid then s
  else
    let recs := (s.pwr.journal.filter JournalItem.isRecord).take 64
    let dirs := (s.pwr.journal.filter (fun j => !j.isRecord)).take 32
    let loss := s.existing.map (fun p => JournalItem.record (BitVec.ofNat 6 p.val) (s.ledgerRecord p kindLoss 0 0))
    let pwr := { s.pwr with
      lossTick := BitVec.ofNat 64 s.pwr.ticks, backup := true, valid := false, lost := true, journal := [],
      flush := some (recs ++ loss ++ dirs), flushOut := 0, returned := false, aonLost := false, flushN := 0 }
    let s := s.membersLeave
    let s := { s with pwr := pwr }.dark
    if (recs ++ loss ++ dirs).isEmpty then s.flushEnd 1 else s

/-- BUSBAR_LOSS: the 12 V bus has stayed below 10.5 V for 2 µs (19 R536, R570). -/
def execBusbarLoss (s : State) : Answer := .next s.busbarLost

/-- FLUSH_RECORD: the cell is read before the next record; below 6.0 V the flush is abandoned, else the record is
written; one that the flash has not confirmed is still to write (19 R570 to R572). -/
def execFlushRecord (mv : Nat) (confirmed : Bool) (s : State) : Answer :=
  .next (
    match s.pwr.flush with
    | none => s
    | some [] => s.flushEnd 1
    | some (j :: l) =>
      let s := s.cellAt (BitVec.ofNat 16 mv)
      if mv < 6000 then s.flushEnd 2
      else if !confirmed then s
      else
        let s := { s with pwr := { s.pwr with flush := some l, flushN := s.pwr.flushN + 1 } }.inJournal j
        if l.isEmpty then s.flushEnd 1 else s)

/-- BUSBAR_VALID: between 42 V and 60 V for 1 ms (19 R535). A flush in progress goes on (R573); otherwise the restart
takes place (R574). With the always-on domain off a power-on reset follows (R575). -/
def execBusbarValid (s : State) : Answer :=
  .next (
    if s.pwr.valid then s
    else
      let s := { s with pwr := { s.pwr with valid := true, backup := false } }
      if s.pwr.mstate = 3 then s
      else if s.pwr.flush.isSome then { s with pwr := { s.pwr with returned := true } }
      else { s with sys := { s.sys with request := some (2, 5) } })

/-- CELL_OFF: with the busbar lost the cell falls to 5.0 V: the always-on domain is off, the module in M3 (19 R569). A
flush cut short counts as abandoned (R572, log 45). -/
def execCellOff (s : State) : Answer :=
  .next (
    if s.pwr.valid then s
    else
      let out := if s.pwr.flush.isSome then 2 else s.pwr.flushOut
      let pwr := { s.pwr with mstate := 3, cellReady := false, flush := none, flushOut := out, aonLost := true, cell := 5000 }
      { s with pwr := pwr, sys := { s.sys with request := none } })

/-- CELL_READY_CHANGE: the cell has come to 15.5 V, or fallen below it (19 R569, 20 R610). A change that the voltage does not bear
out is none. -/
def execCellReadyChange (ready : Bool) (mv : Half) (s : State) : Answer :=
  .next (if ready = decide (15500 ≤ mv.toNat) then s.cellAt mv else s)

/-! The isolated control link (19 R536). -/

/-- ISO_STATUS_FRAME: a frame whose CRC-8 does not check is no frame. A loss frame is a loss of the busbar. -/
def execIsoStatusFrame (f : IsoFrame) (s : State) : Answer :=
  .next (
    if !f.crcOk then s
    else if f.loss then s.busbarLost
    else
      let w := s.pwr
      { s with pwr := { w with isoOk := true, isoLimit := false, isoAt := s.now, inVolt := f.volt,
                               wattSum := w.wattSum + f.watts.toNat, wattN := w.wattN + 1 } })

/-- ISO_LINK_LOST: no valid frame for 50 µs. -/
def execIsoLinkLost (s : State) : Answer :=
  .next (
    if s.pwr.isoLimit || decide (s.now < s.pwr.isoAt + 50000000) then s
    else { s with pwr := { s.pwr with isoOk := false, isoLimit := true } }.raise 0x600B none false 0 0)

end Sys2Proof.Machine
end

