-- ==== Sys2Proof/Machine/Reset.lean ====
section
/-! DEFINITION. Resets (20 R600 to R606, Table 20.7), the boot sequence (20 R607 to R611), journal replay (18 R532) and
the PCIe interface's reset and configuration (20 R603, R608). -/

namespace Sys2Proof.Machine

/-! Journal replay (18 R532, R533). -/

/-- Fields of a Ledger record (18 Table 18.9). -/
def recKind (ws : List Word) : Nat := fld (ws.getD 1 0) 31 24
def recPart (ws : List Word) : Nat := fld (ws.getD 1 0) 5 0
def recBoot (ws : List Word) : Word := ws.getD 7 0
def recTicks (ws : List Word) : DWord := dword (ws.getD 10 0) (ws.getD 11 0)

/-- MAGIC and HMAC check (18 R532). -/
def recOk (ws : List Word) : Bool :=
  ws.getD 0 0 = 0x4C444752 && ws.drop 52 = bytesWords (hmac384 Config.sealKey (wordsBytes (ws.take 52)))

/-- The CLOSE record that replay builds from a partition's last valid record; `loss`: the loss tick; `clean`: the reset
took CHECKPOINTs first (18 R531, R532). Its number is 0 and so is its NONCE, as a CLOSE record has them. -/
def replayed (ws : List Word) (loss : Option DWord) (clean : Bool) : List Word × Bool :=
  let t := recTicks ws
  let (unacc, dest) : Bool × DWord := match loss with
    | some l => (decide (t < l), l)
    | none => (!(clean && recKind ws = kindCheckpoint), 0xFFFFFFFFFFFFFFFF)
  let w1 := (ws.getD 1 0 &&& 0x0000FFFF) ||| pack [(kindClose, 24), (1, 17), (b2n unacc, 16)]
  let body := ((ws.take 52).set 1 w1).set 6 0
  let body := (body.set 12 0).set 13 0
  let two (l : List Word) (i : Nat) (d : DWord) : List Word := (l.set i (loW d)).set (i + 1) (hiW d)
  let body := if unacc then two (two body 14 t) 16 dest else two (two body 14 0) 16 0
  (body ++ bytesWords (hmac384 Config.sealKey (wordsBytes body)), unacc)

/-- The journal is replayed: a CLOSE for each partition that existed at the end of the previous boot and has none. -/
def State.replay (s : State) (clean : Bool) : State :=
  let recs := s.journal.filter (fun ws => recOk ws && recBoot ws = s.sys.boot - 1)
  let loss := (recs.filter (fun ws => recKind ws = kindLoss)).getLast?.map recTicks
  let s := { s with jflags := (true, false, false) }
  (List.finRange 64).foldl (fun s p =>
    match (recs.filter (fun ws => recPart ws = p.val)).getLast? with
    | none => s
    | some ws =>
      if recKind ws = kindClose then s
      else
        let (c, unacc) := replayed ws loss clean
        { s.modPart p (fun q => { q with close := c }) with jflags := (true, true, s.jflags.2.2 || unacc) }) s

/-! What each reset keeps. -/

/-- The Granary directory as flash and the journal buffer have it, with no pin (15 R424, R427, 19 R572). -/
def State.directory (s : State) : Tab Region :=
  let d := s.pwr.journal.foldl (fun (d : Tab Region) j => match j with
    | .directory i (some r) => d.set i r
    | .directory i none => d.del i
    | .record _ _ => d) s.dirFlash
  d.map (fun e => (e.1, { e.2 with pins := 0 }))

/-- State that every reset keeps: time and the count, host memory, flash and fuses, what the block has drawn and driven,
and the model's queue. The count runs on unestablished (11 R298; log 46). What a reset of a domain clears: log 26. -/
def State.keep (old new : State) : State :=
  { new with
    pending := old.pending, cycle := old.cycle, now := old.now, host := old.host, flash := old.flash, journal := old.journal,
    journalN := old.journalN, dirFlash := old.dirFlash, createSeq := old.createSeq, freeCtr := old.freeCtr, out := old.out,
    keys := { new.keys with owner := old.keys.owner } }

/-- Pins of the main connector keep their levels. -/
def Chain.pins (c old : Chain) : Chain :=
  { c with modResetN := old.modResetN, brakeN := old.brakeN, perstN := old.perstN, cells := old.cells }

/-- Power-on reset: every domain; the tick counter starts at 0 (20 Table 20.7, Table 20.9). After a loss the PP reports
the flush as the journal shows it (19 R576; log 45), and LEDGER.CLOSE keeps its records (18 R533). -/
def State.powerOn (s : State) : State :=
  let t := s.keep State.reset
  let w := s.pwr
  let pwr := if w.lost then
      { t.pwr with lost := true, lossTick := w.lossTick, flushOut := w.flushOut, returned := w.returned, aonLost := true,
                   flushN := w.flushN }
    else t.pwr
  let sys := { t.sys with boot := s.sys.boot + 1 }
  { t with
    parts := s.parts.map (fun q => { Part.reset with close := q.close }), gran := { t.gran with dir := s.directory },
    pwr := { pwr with brake := w.brake }, sys := sys, chain := t.chain.pins s.chain }

/-- The always-on domain keeps its state through a cold reset; its registers but the tick, loss and flush ones take
their reset values (19 R577, 20 Table 20.7). -/
def Pwr.cold (w : Pwr) : Pwr :=
  { Pwr.reset with
    cellReady := w.cellReady, backup := w.backup, brake := w.brake, isoOk := w.isoOk, isoAt := w.isoAt, isoLimit := w.isoLimit,
    inVolt := w.inVolt, cell := w.cell, ticks := w.ticks, lossTick := w.lossTick, flushOut := w.flushOut,
    returned := w.returned, aonLost := w.aonLost, flushN := w.flushN, lost := w.lost, valid := w.valid, journal := w.journal,
    temps := w.temps }

/-- Cold reset: every domain but the always-on one (20 Table 20.7, R611, 18 R533, 21 R621, 15 R427). -/
def State.cold (s : State) (source : BitVec 4) : State :=
  let t := s.keep State.reset
  let sys := { t.sys with boot := s.sys.boot + 1, cause := (2, source) }
  { t with
    parts := s.parts.map (fun q => { Part.reset with close := q.close }), pwr := s.pwr.cold, sys := sys, chain := s.chain,
    gran := { t.gran with mem := s.gran.mem, crc := s.gran.crc, dir := s.directory, gone := s.gran.gone },
    evBuf := s.evBuf, evOver := s.evOver }

/-- A sheaf keeps its equalizer coefficients through a warm reset (20 Table 20.7). -/
def Sheaf.warm (h : Sheaf) : Sheaf := { Sheaf.reset with eq := h.eq, conv := h.conv }

/-- What a warm reset leaves of a partition's entry: what the always-on domain holds, the Ledger's counters, which only PART_CREATE
sets to 0, and the predictor's margins (18 R527, R533, R534, 19 R538, R559, 20 Table 20.7). -/
def Part.warm (q : Part) : Part :=
  { Part.reset with
    close := q.close, cnt := q.cnt, sealSeq := q.sealSeq, frac := q.frac, margin := q.margin, goodEp := q.goodEp }

/-- The rings of a function through a warm reset: the CMDQ registers reset at cold reset and at a function-level reset only; the MP,
which restarts, has no command left and reads packets again from stage READY on (17 R470, 20 R608, 21 R616; log 26). -/
def Func.warm (x : Func) : Func := { x with running := false, infl := 0, accepted := [], orphans := [], jobsG := [] }

/-- Warm reset (20 Table 20.7, R601, 16 R466). The dynamic routes follow from the
node and the torus, which are kept (12 R349). Every Stall keeps the scrubber's place, whose passes count since cold reset (04
R136). SYS.FWVER keeps its value: the firmware bank is kept and stage FIRMWARE does not run (DESIGN CHOICE, log 26). Where no firmware
has run since cold reset, no bank is selected that it could restart, and the boot goes on from stage HUB as a cold one (log 26). -/
def State.warm (s : State) (source : BitVec 4) : State :=
  let s := s.membersLeave
  let s := s.existing.foldl (fun s p =>
    let ws := s.ledgerRecord p kindClose 0 0
    (s.modPart p (fun q => { q with close := ws })).toJournal (.record (BitVec.ofNat 6 p.val) ws)) s
  let t := s.keep State.reset
  let link := { t.link with node := s.link.node, torus := s.link.torus }
  let link := { link with route := link.routes }
  let sys := { s.sys with
    stage := 3, fail := 0, cause := (3, source), request := none, rowBusy := false, rowDone := false, rowFail := false,
    rowStall := 0, rowRow := 0, rowBuf := Row.zero, stemUp := Vector.replicate 4 false, warmBoot := s.sys.fwver ≠ 0 }
  let dir := s.gran.dir.map (fun e => (e.1, { e.2 with pins := 0 }))
  let t := { t with
    parts := s.parts.map Part.warm,
    stalls := s.stalls.map (fun x => { Stall.reset with pad := x.pad.lost }),
    sheaves := s.sheaves.map Sheaf.warm, link := link,
    fab := { t.fab with drainDrop := s.fab.drainDrop, atLink := s.fab.atLink }, gran := { s.gran with dir := dir, swap := (0, 0) },
    pwr := { s.pwr with toM2 := false }, clk := { s.clk with job := none, kids := [], sent := none }, telem := s.telem,
    sys := sys, chain := s.chain, keys := s.keys, jflags := s.jflags, funcs := s.funcs.map Func.warm, numVfs := s.numVfs,
    evBuf := s.evBuf, evOver := s.evOver }
  let n : Word := s.fab.drainDrop
  if n = 0 then t else t.raise 0x1051 none false n 0

/-! Requests (20 R600, R602, R604 to R606). -/

/-- A reset is requested. Of both kinds a cold one follows. A cold one while the busbar is valid writes a CHECKPOINT of
every partition first (18 R531); a warm one begins the drain (16 R466). -/
def State.requestReset (s : State) (kind : BitVec 2) (source : BitVec 4) : State :=
  if s.pwr.mstate = 3 then s
  else match s.sys.request with
  | some (2, _) => s
  | some _ =>
    if kind = 2 then
      s.existing.foldl (fun s p => s.checkpointOf p) { s with sys := { s.sys with request := some (2, source) } }
    else s
  | none =>
    let s := { s with sys := { s.sys with request := some (kind, source) } }
    if kind = 2 then (if s.pwr.valid then s.existing.foldl (fun s p => s.checkpointOf p) s else s)
    else { s with fab := { s.fab with draining := true, drainTo := some (s.now + 10000000) } }

/-- MOD_RESET_N: the level now, and for how many µs the input was or has been low: 10 µs to under 1 s is a warm reset
when it returns high, 1 s a cold one at once (20 R604, R605). -/
def execModResetN (level : Bool) (lowUs : Nat) (s : State) : Answer :=
  let s' := { s with chain := { s.chain with modResetN := level, extest := s.chain.extest && !level } }
  .next (
    if lowUs < 2 then s
    else if s.pwr.mstate = 3 || lowUs < 10 then s'
    else if 1000000 ≤ lowUs then (if level && !s.chain.modResetN then s' else s'.requestReset 2 1)
    else if level then s'.requestReset 1 1
    else s')

/-- A write of SYS.RESET: dropped without its key (20 Table 20.10). -/
def State.putReset (s : State) (v : Word) : State :=
  if fld v 31 16 ≠ 0x5253 then s
  else if fld v 1 0 = 1 then s.requestReset 1 3
  else if fld v 1 0 = 2 then s.requestReset 2 3
  else s

def execSysResetWarm (v : Word) (s : State) : Answer :=
  .next (if fld v 1 0 = 1 then s.viaMatrix (.host 0) 0x24 (some v) (State.putReset · v) else s)
def execSysResetCold (v : Word) (s : State) : Answer :=
  .next (if fld v 1 0 = 2 then s.viaMatrix (.host 0) 0x24 (some v) (State.putReset · v) else s)

/-- WATCHDOG: the MP's watchdog has not been serviced for 1 s (20 R606). -/
def execWatchdog (s : State) : Answer := .next (s.requestReset 1 4)

/-! Resets take effect. -/

/-- Posted writes on their way: hub-bound rows in the Stem ports. -/
def State.posted (s : State) : Bool := s.fab.hubq.toList.any (fun l => !l.isEmpty)

/-- DRAIN_END: 10 µs have passed, or no posted write remains; the rest is dropped and counted (16 R466). -/
def execDrainEnd (s : State) : Answer :=
  .next (
    match s.fab.drainTo with
    | none => s
    | some t =>
      if s.posted && decide (s.now < t) then s
      else
        let n := s.fab.hubq.toList.foldl (fun n l => n + l.length) 0
        { s with fab := { s.fab with hubq := Vector.replicate 4 [], drainDrop := satAdd s.fab.drainDrop n, drainTo := none } })

/-- WARM_RESET: the reset takes effect at the end of the drain, and not while a flush runs (16 R466, 20 R601, R602). -/
def execWarmReset (s : State) : Answer :=
  .next (
    match s.sys.request with
    | some (1, src) => if s.fab.drainTo.isSome || s.pwr.flush.isSome then s else s.warm src
    | _ => s)

/-- COLD_RESET: the reset takes effect once the reset CHECKPOINTs have been written and no flush runs (20 R602, 19
R574). -/
def execColdReset (s : State) : Answer :=
  .next (
    match s.sys.request with
    | some (2, src) =>
      if s.pwr.flush.isSome || (src ≠ 5 && s.pwr.journal.any JournalItem.isRecord) then s else s.cold src
    | _ => s)

/-- POWER_ON_RESET: the always-on domain starts with the busbar valid (19 R575, 20 Table 20.7). -/
def execPowerOnReset (s : State) : Answer := .next (if s.pwr.mstate = 3 then s.powerOn else s)

/-- PCIE_RESET: PERST_N low, a hot reset or the link down. Every function resets; every open serving context faults; the
link stays down until the host's next configuration access (20 R603, Table 20.5). -/
def execPcieReset (s : State) : Answer :=
  let s := { s with chain := { s.chain with perstN := false }, numVfs := 0 }
  let s := (List.finRange 64).foldl (fun s p => s.serveFault p stFaulted) s
  let s := (List.finRange 65).foldl (fun s f => s.funcReset f) s
  .next (if s.existing.isEmpty then s else { s with chain := s.chain.attend 0x20 })

/-- NumVFs is written: the replies of commands in flight of the functions that it leaves out are discarded (18 Table 18.4,
Corners). -/
def State.setVfs (s : State) (n : BitVec 7) : State :=
  (List.finRange 65).foldl (fun s f => if n.toNat < f.val then s.orphan f else s) { s with numVfs := n }

/-- PCIE_CONFIG_ACCESS: Request Retry Status until stage HUB is done; then it is answered, and a write of NumVFs sets 0
to 64 (20 R608, 18 Table 18.4). -/
def execPcieConfigAccess (numVfs : Option (BitVec 7)) (s : State) : Answer :=
  let up := { s with chain := { s.chain with perstN := true } }
  .next (
    if s.sys.stage.toNat < 4 || s.sys.stage = 15 || decide (2 ≤ s.pwr.mstate.toNat) then up.emit (.config false)
    else match numVfs with
      | some n => if n.toNat ≤ 64 then (up.setVfs n).emit (.config true) else up.emit (.config true)
      | none => up.emit (.config true))

/-! The boot sequence (20 Table 20.8). -/

/-- SYS.FWVER.MAJOR, MINOR and BUILD (01 Table 1.6, 00 R2). -/
def State.firmware (s : State) : Word := (3 : BitVec 8) ++ Config.fwMinorBuild s.sys.bank

/-- The boot stops: SYS.BOOT.STAGE reads FAILED, and CHAIN.ATTN records it (20 Table 20.5). -/
def State.bootFail (s : State) (code : BitVec 4) : State :=
  { s with sys := { s.sys with stage := 15, fail := code }, chain := s.chain.attend 1 }

/-- SEC.KEY_STATUS (18 Table 18.10): slot 0 is always filled. -/
def Keys.status (k : Keys) : Word :=
  let filled := 1 + (if k.owner.isSome then 2 else 0) +
    (List.finRange 6).foldl (fun n i => if k.block[i].isSome then n + 2 ^ (i.val + 2) else n) 0
  pack [(b2n k.owner.isSome, 31), (b2n k.ok, 30), (Config.keyId.toNat, 16), (filled, 0)]

/-- The key block is read (18 R523, 20 R598): with no owner key it cannot be checked and stays unread
(log 27). -/
def State.readKeys (s : State) (r : BootReport) : State :=
  let none' : Vector (Option (List Byte)) 6 := Vector.replicate 6 none
  match s.keys.owner, r.keyBlock with
  | none, _ => { s with keys := { s.keys with block := none', ok := false } }
  | some _, some l =>
    let blk := Vector.ofFn (fun i : Fin 6 => match l[i.val]? with | some k => if k.isEmpty then none else some k | none => none)
    { s with keys := { s.keys with block := blk, ok := true } }
  | some _, none =>
    let s := { s with keys := { s.keys with block := none', ok := false } }
    s.raise 0x7012 none false s.keys.status 0

/-- Firmware selection (20 R598): the valid bank with the higher version, bank A when equal; the other one if it fails
verification. -/
def State.selectBank (s : State) (r : BootReport) : State :=
  let first : Option Bool := match r.verA, r.verB with
    | some a, some b => some (decide (a < b))
    | some _, none => some false
    | none, some _ => some true
    | none, none => none
  let full (b : Bool) : Bool := if b then r.fullB && r.verB.isSome else r.fullA && r.verA.isSome
  match first with
  | none => ({ s with chain := s.chain.attend (attnOf 0x7011 true) }).bootFail 1
  | some b =>
    if full b then { s with sys := { s.sys with bank := b } }
    else if full (!b) then
      { s with sys := { s.sys with bank := !b } }.raise 0x7010 none false (BitVec.ofNat 32 (b2n (!b))) 0
    else ({ s with chain := s.chain.attend (attnOf 0x7011 true) }).bootFail 1

/-- The mask of a Field's Stalls. -/
def fieldMask (f : Fin 4) : DWord := BitVec.ofNat 64 (0xFFFF * 2 ^ (16 * f.val))

/-- The Granary at the first bring-up after its contents were lost (15 R427), and with a channel that did not train (01
R34; log 27). Region PINS are 0 after every reset. -/
def State.granaryUp (s : State) (chans : Word) : State :=
  let ok := decide (chans = 0xFFFFFFFF)
  let kept := !s.gran.gone
  let n := s.gran.dir.length
  let gran := { s.gran with avail := ok, chans := chans, retained := kept && ok }
  let s := { s with gran := gran }
  let s := if s.gran.gone then
      { s with gran := { s.gran.lose with gone := !ok } }.raise 0x1041 none false (BitVec.ofNat 32 n) 0
    else { s with gran := { s.gran with gone := !ok } }
  if ok then s else s.raise 0x1042 none false chans 0

/-- Stage CHECK is done: self-test, Granary training and replay after a cold reset; scratchpads are clear either way. -/
def State.checkDone (s : State) (r : BootReport) : State :=
  if s.sys.warmBoot then s
  else
    let up := (List.finRange 4).foldl (fun m f => if s.sys.stemUp[f] then m ||| fieldMask f else m) (0 : DWord)
    let s := { s with sys := { s.sys with stallOk := r.stallOk &&& up } }
    let clean := s.sys.cause.1 = 2 && s.sys.cause.2 ≠ 5
    let s := s.granaryUp r.channels
    if s.jflags.1 then s else s.replay clean

/-- PWR.FLUSH (19 Table 19.7). -/
def Pwr.flushWord (w : Pwr) : Word :=
  pack [(w.flushOut.toNat, 30), (b2n w.returned, 29), (b2n w.aonLost, 28), (w.flushN.toNat, 0)]

/-- READY: command rings are read (20 R608); after a busbar loss the PP reports it (19 R572, R576). -/
def State.ready (s : State) : State :=
  let funcs := s.funcs.map (fun (x : Func) => { x with running := x.enable && x.setupOk })
  let s := { s with sys := { s.sys with stage := 7, warmBoot := false }, funcs := funcs }
  if !s.pwr.lost then s
  else
    let w := s.pwr.flushWord
    let abandoned := s.pwr.flushOut = 2
    let s := { s with pwr := { s.pwr with lost := false } }
    let s := s.raise 0x6001 none false w (loW s.pwr.lossTick)
    if abandoned then s.raise 0x6002 none false w 0 else s

/-- A stage of the boot sequence begins. -/
def State.toStage (s : State) (n : BitVec 4) : State := { s with sys := { s.sys with stage := n } }

/-- BOOT_STAGE_DONE: the stage in progress is done (20 Table 20.8). -/
def execBootStageDone (r : BootReport) (s : State) : Answer :=
  .next (
    if s.pwr.mstate = 3 || s.pwr.flush.isSome then s
    else match s.sys.stage.toNat with
    | 1 => s.toStage 2
    | 2 => if r.railFault then s.bootFail 2 else { s.toStage 3 with pwr := { s.pwr with mstate := 1 } }
    | 3 =>
      let s := if s.sys.warmBoot then s else s.selectBank r
      if s.sys.stage = 15 then s
      else
        let s := (s.readKeys r).toStage 4
        { s with sys := { s.sys with stemAt := s.now, stemUp := Vector.replicate 4 false } }
    | 4 => s.toStage 5
    | 5 =>
      let s := s.checkDone r
      if s.sys.warmBoot then s.ready else s.toStage 6
    | 6 =>
      let telem := { s.telem with run := true, period := 600, seq := telemDefault }
      { s with sys := { s.sys with fwver := s.firmware }, telem := telem }.ready
    | _ => s)

/-- STEM_PORT_DOWN: a Stem port has not locked 3 ms after stage STEM began: its Field's Stalls read 0 in SYS.STALL_OK
(20 R609). -/
def execStemPortDown (port : Fin 4) (s : State) : Answer :=
  .next (
    if s.sys.stage ≠ 4 || s.sys.stemUp[port] || decide (s.now < s.sys.stemAt + 3000000000) then s
    else
      { s with sys := { s.sys with stallOk := s.sys.stallOk &&& ~~~fieldMask port } }.raise 0x300B none false
        (BitVec.ofNat 32 port.val) 0)

end Sys2Proof.Machine
end

