-- ==== Sys2Proof/Machine/Serve.lean ====
section
/-! DEFINITION. The serving context: SERVE_OPEN and SERVE_CLOSE (14 R379 to R381, R413), the cut (14 R392 to R396), Glean
lookup (14 R400 to R406), adapters (14 R407 to R411), and the output rows that reach a hub window (14 R391). -/

namespace Sys2Proof.Machine

def State.modCtx (s : State) (p : Fin 64) (f : Serving → Serving) : State :=
  s.modPart p (fun q => { q with ctx := q.ctx.map f })

/-! Key-value blocks (14 R397 to R399). -/

/-- The pool block of a handle, if it names one. -/
def poolIx (h : Word) : Option Nat := if bit h 31 then none else some (fld h 19 0)

/-- Pool blocks that an active request or an index entry holds. -/
def Serving.held (c : Serving) : List Nat :=
  c.reqs.flatMap (fun e => e.2.blocks.filterMap poolIx) ++ c.index.filterMap (fun e => poolIx e.2.handle)

/-- Free pool blocks, lowest first. -/
def Serving.free (c : Serving) : List Nat :=
  let h := c.held
  (List.range c.kvBlocks).filter (fun b => !h.contains b)

/-! The chained hash (14 R400). -/

def gleanSeed (variant : Half) (aen : Bool) (aslot gen : Nat) : DWord :=
  0x9E3779B97F4A7C15 ^^^ BitVec.ofNat 64 (variant.toNat * 2 ^ 32) ^^^ BitVec.ofNat 64 (b2n aen * 2 ^ 15) ^^^
  BitVec.ofNat 64 (aslot * 2 ^ 8) ^^^ BitVec.ofNat 64 gen

def gleanBlock (prev : DWord) (tok : List Word) : DWord :=
  tok.foldl (fun h t =>
    let h := (h ^^^ t.setWidth 64) * 0x100000001B3
    h ^^^ (h >>> 29)) prev

/-- h_0, h_1, … of the full blocks of a prompt. -/
def gleanKeys (h : DWord) : Nat → List Word → List DWord
  | 0, _ => [h]
  | n + 1, toks => h :: gleanKeys (gleanBlock h (toks.take 32)) n (toks.drop 32)

/-! The hash index (14 R402 to R404). -/

/-- The positions probed for a key. -/
def Serving.probes (c : Serving) (key : DWord) : List Nat :=
  (List.range 8).map (fun j => (key.toNat + j) % max 1 c.gEntries)

/-- The entry that matches a block. -/
def Serving.lookup (c : Serving) (key parent : DWord) (toks : List Word) : Option (Nat × GleanEntry) :=
  (c.probes key).findSome? (fun i => match c.index.get? i with
    | some e => if e.key = key && e.parent = parent && e.toks = toks then some (i, e) else none
    | none => none)

/-- The entries of a request's prompt matched from block k on. -/
def Serving.hits (c : Serving) (keys : List DWord) (toks : List Word) : Nat → Nat → List (Nat × GleanEntry)
  | _, 0 => []
  | k, n + 1 =>
    match c.lookup (keys.getD k 0) (keys.getD (k - 1) 0) ((toks.drop (32 * (k - 1))).take 32) with
    | some e => e :: Serving.hits c keys toks (k + 1) n
    | none => []

/-- The child count of the entry with a key moved. -/
def childCount (up : Bool) (key : DWord) (t : Tab GleanEntry) : Tab GleanEntry :=
  t.map (fun e => if e.2.key = key then (e.1, { e.2 with kids := if up then e.2.kids + 1 else e.2.kids - 1 }) else e)

/-- A completed prompt block of a request is inserted; true when the insertion is skipped and counted. An entry with
the same key, parent and tokens stays as it is. -/
def Serving.insert (c : Serving) (r : Request) (k round : Nat) : Serving × Bool :=
  let key := r.keys.getD k 0
  let parent := r.keys.getD (k - 1) 0
  let toks := (r.tokens.drop (32 * (k - 1))).take 32
  let probes := c.probes key
  match probes.findSome? (fun i => match c.index.get? i with | some e => if e.key = key then some e else none | none => none) with
  | some e => (c, !(e.parent = parent && e.toks = toks))
  | none =>
    match probes.find? (fun i => (c.index.get? i).isNone) with
    | none => (c, true)
    | some i =>
      let e : GleanEntry :=
        { key := key, parent := parent, toks := toks, handle := r.blocks.getD (k - 1) 0xFFFFFFFF, aslot := r.aslot,
          aen := r.aen, gen := r.gen, kids := 0, last := round }
      ({ c with index := (childCount true parent c.index).set i e }, false)

/-- The entry to evict: no child, its block held by no active request and not among the matched entries; smallest
LAST_USE, then lowest position. -/
def Serving.victim (c : Serving) (keep : List Nat) : Option (Nat × GleanEntry) :=
  let busy := c.reqs.flatMap (fun e => e.2.blocks)
  let l := c.index.filter (fun e => e.2.kids = 0 && !busy.contains e.2.handle && !keep.contains e.1)
  l.foldl (fun b e => match b with
    | none => some e
    | some x => if e.2.last < x.2.last then some e else some x) none

/-- Entries are evicted until enough blocks are free or none can be evicted. -/
def Serving.evict (c : Serving) (need : Nat) (keep : List Nat) : Nat → Serving
  | 0 => c
  | n + 1 =>
    if need ≤ c.free.length then c
    else
      match c.victim keep with
      | none => c
      | some (i, e) => Serving.evict { c with index := childCount false e.parent (c.index.del i) } need keep n

/-! The radix catalogue (14 R405, R406). -/

def rowWord (r : Row) (i : Nat) : Word := r.toList.getD i 0

/-- The child of a node with a key: its row. -/
def childOf (r : Row) (key : DWord) : Option Nat :=
  (List.range (min 9 (fld (rowWord r 2) 3 0))).findSome? (fun n =>
    if dword (rowWord r (3 + 3 * n)) (rowWord r (4 + 3 * n)) = key then some (fld (rowWord r (5 + 3 * n)) 18 0) else none)

/-- What the walk does with a node row: none of it (a failed read), or the row. The walk goes on, or ends with the handles that
matched: none of them for a failed read or a handle that is not PINNED; a node that is not VALID matches nothing. -/
def Walk.step (w : Walk) (keys : List DWord) (n : Nat) : Option Row → Walk ⊕ List Word
  | none => .inr []
  | some r =>
    if !bit (rowWord r 0) 31 then .inr w.got
    else if w.k ≠ 1 && !bit (rowWord r 1) 31 then .inr []
    else
      let got := if w.k = 1 then [] else w.got ++ [rowWord r 1]
      if n < w.k then .inr got
      else
        match childOf r (keys.getD w.k 0) with
        | none => .inr got
        | some row => .inl { w with row := row, k := w.k + 1, got := got }

/-! Adapters (14 R407 to R411). -/

/-- Active requests bound to the current or the superseded generation of a slot (14 R410). -/
def Part.refs (q : Part) (i : Fin 16) (current : Bool) : Nat :=
  match q.ctx with
  | none => 0
  | some c =>
    let a := q.adapters[i]
    (c.reqs.filter (fun e => e.2.aen && e.2.aslot = i &&
      (if current then some e.2.gen = a.current else e.2.gen = a.super && a.super ≠ 0))).length

def State.modAdapter (s : State) (p : Fin 64) (i : Fin 16) (f : Adapter → Adapter) : State :=
  s.modPart p (fun q => { q with adapters := q.adapters.set i (f q.adapters[i]) })

/-- The context is open. -/
def Part.open' (q : Part) : Bool := match q.ctx with | some c => decide (c.state = 1) | none => false

/-- The generation after one (14 R407). -/
def nextGen (g : Byte) : Byte := if g = 255 then 1 else g + 1

/-- Index entries of a slot and generation are discarded (14 R409). -/
def dropGen (i : Fin 16) (g : Byte) (c : Serving) : Serving :=
  let out := c.index.filter (fun e => e.2.aen && e.2.aslot = i && e.2.gen = g)
  let left := c.index.filter (fun e => !(e.2.aen && e.2.aslot = i && e.2.gen = g))
  { c with index := out.foldl (fun t e => childCount false e.2.parent t) left }

/-- A superseded generation that no request holds is freed. -/
def State.freeGen (s : State) (p : Fin 64) (i : Fin 16) : State :=
  let a := (s.part p).adapters[i]
  if a.super ≠ 0 && (s.part p).refs i false = 0 then
    (s.modCtx p (dropGen i a.super)).modAdapter p i (fun a => { a with super := 0 })
  else s

/-- The placed copy of a slot becomes current: ADAPTER_LOAD completes (14 R409). -/
def State.makeCurrent (s : State) (p : Fin 64) (i : Fin 16) : State :=
  let a := (s.part p).adapters[i]
  match a.job, a.placed with
  | some (k, _, _), true =>
    let s := s.freeGen p i
    let a := (s.part p).adapters[i]
    let g := nextGen a.last
    let old := match a.current with | some c => c | none => a.super
    let b : Adapter :=
      { Adapter.reset with current := some g, copy := !a.copy, super := old, ever := true, last := g, retireJob := a.retireJob }
    let s := (s.modAdapter p i (fun _ => b)).raise 0x5003 (some p) true (BitVec.ofNat 32 i.val) (g.setWidth 32)
    s.reply 0x33 k stOk [pack [(b2n b.copy, 8), (g.toNat, 0)]]
  | _, _ => s

/-- ADAPTER_RETIRE takes effect: the slot is retired, its current generation superseded as soon as no older one is
held (14 R411; log 36). -/
def State.retireSlot (s : State) (p : Fin 64) (i : Fin 16) : State :=
  let a := (s.part p).adapters[i]
  let s := match a.retireJob with
    | none => s
    | some k =>
      let g : Byte := a.current.getD 0
      (s.modAdapter p i (fun a => { a with retired := true, retireJob := none })).reply 0x34 k stOk [g.setWidth 32]
  let s := s.freeGen p i
  let a := (s.part p).adapters[i]
  match a.retired, a.current with
  | true, some g => if a.super = 0 then s.modAdapter p i (fun a => { a with current := none, super := g }) else s
  | _, _ => s

/-- Step 5 of Table 14.5 for every slot. -/
def State.adapterCut (s : State) (p : Fin 64) : State :=
  (List.finRange 16).foldl (fun s i => ((s.makeCurrent p i).retireSlot p i).freeGen p i) s

/-- A load waits for its shadow copy no longer (14 R408); with no context open a placed copy or a retirement takes
effect at once (17 R505). -/
def State.adapterStep (s : State) (p : Fin 64) : State :=
  let s := (List.finRange 16).foldl (fun s i =>
    let a := (s.part p).adapters[i]
    match a.job with
    | some (k, 1, t) =>
      if a.current.isNone || a.super = 0 || (s.part p).refs i false = 0 then s.modAdapter p i (fun a => { a with job := some (k, 2, t) })
      else s
    | _ => s) s
  if (s.part p).open' then s else s.adapterCut p

/-- The adapter image does not fit the partition: its header, its section table, or a row in no window of the loaded
image. -/
def State.adapterBad (s : State) (p : Fin 64) (i : Image) : Bool :=
  let q := s.part p
  i.headerBad || decide (i.length < 512 + 16 * i.nsec) || i.sections.any (fun x => x.bad i) || i.sigBad ||
  (match q.image with
   | none => true
   | some l => (List.range q.members.length).any (fun k => i.rowsBad q.rank.toNat k (l.windows q.rank.toNat k)))

/-- ADAPTER_LOAD (14 R408, 18 R526). -/
def execAdapterLoad (k : Packet) (s : State) : Answer :=
  let p := k.part
  let w := k.w 0
  let len := (k.w 3).toNat
  let i : Fin 16 := fin 15 (fld w 19 16)
  .next (s.command 0x33 k headRing [0x800F0FFF, 0xFFFFFFFF, 0xFFFFFFFF, 0xFFFFFFFF] (fun s =>
    match firstStatus (s.sourceChecks k w len) with
    | some st => s.fail 0x33 k st
    | none =>
      let m := s.sourceBytes w (k.d 1) len
      let s := s.sourceCount p w len
      let a := (s.part p).adapters[i]
      match firstStatus [(s.adapterBad p (imageOf m len), stBadParam), (a.job.isSome || a.retireJob.isSome, stBusy)] with
      | some st => s.fail 0x33 k st
      | none =>
        let n := if s.verifiedFor p w then 1 else 0
        (s.modAdapter p i (fun a => { a with job := some (k, n, s.now), placed := false, img := m, imgLen := len })).adapterStep p))

/-- ADAPTER_RETIRE (14 R411, 17 R505). -/
def execAdapterRetire (k : Packet) (s : State) : Answer :=
  let p := k.part
  let i : Fin 16 := fin 15 (fld (k.w 0) 19 16)
  .next (s.command 0x34 k headRing [0x000F0000] (fun s =>
    let a := (s.part p).adapters[i]
    if a.job.isSome || a.retireJob.isSome then s.fail 0x34 k stBusy
    else (s.modAdapter p i (fun a => { a with retireJob := some k })).adapterStep p))

/-- ADAPTER_PLACED: this member's Stalls hold the adapter's rows, as its Granary region holds them now (01 R35) or as read from
the host (log 39), and every member has reported. A bad block of its region fails the load (14 R409, 15 Table 15.2). -/
def execAdapterPlaced (p : Fin 64) (slot : Fin 16) (s : State) : Answer :=
  let a := (s.part p).adapters[slot]
  .next (
    match a.job with
    | some (k, 2, _) =>
      if a.placed then s
      else
        let (s, good) := s.sourceGood (k.w 0) a.imgLen
        if !good then (s.modAdapter p slot (fun a => { a with job := none })).fail 0x33 k stFaulted
        else
          let i := if bit (k.w 0) 31 then imageOf (s.sourceBytes (k.w 0) (k.d 1) a.imgLen) a.imgLen else a.image
          let rank := (s.part p).rank.toNat
          let s := (s.part p).members.zipIdx.foldl (fun s e =>
            s.modStl e.1 (fun x => (i.for rank e.2 tyRows).foldl (fun x t => x.placeRows i t x.xl.win) x)) s
          (s.modAdapter p slot (fun a => { a with placed := true })).adapterStep p
    | _ => s)

/-- ADAPTER_LOAD_TIMEOUT: the shadow copy is not free within 100 ms (14 R408). Before that it does nothing. -/
def execAdapterLoadTimeout (p : Fin 64) (slot : Fin 16) (s : State) : Answer :=
  .next (
    match (s.part p).adapters[slot].job with
    | some (k, 1, t) =>
      if s.now < t + 100000000000 then s
      else (s.modAdapter p slot (fun a => { a with job := none })).fail 0x33 k stNoResource
    | _ => s)

/-! Input rows (14 R389, R398). -/

/-- A row that the Serving Unit writes to a Stall. -/
def State.servePkt (s : State) (p st : Fin 64) (row : Nat) (data : Row) (ctr : Option (BitVec 9)) : DynPkt :=
  let a : Arrival :=
    { row := BitVec.ofNat 19 row, data := data, bad := 0, ctr := ctr, span := s.spanOf p, sheaf := false, src := none, via := .serving }
  { kind := 0, node := 0, stall := st, src := st, part := p, win := 0, off := 0, first := false, ready := 0, arr := a }

/-- The Stalls that receive input. -/
def State.inStalls (s : State) (p : Fin 64) (c : Serving) : List (Fin 64) :=
  ((s.part p).members.zipIdx.filter (fun e => c.inMask.getLsbD e.2)).map (·.1)

/-- Rows written from a logical row on to every Stall of IN_MASK. -/
def State.serveRows (s : State) (p : Fin 64) (c : Serving) (base : Nat) (ctr : Option (BitVec 9)) (rows : List Row) : State :=
  (s.inStalls p c).foldl (fun s st =>
    s.down (fieldOf st) (rows.zipIdx.map (fun e => s.servePkt p st (base + e.2) e.1 ctr))) s

/-- A row written by the Serving Unit has not landed. -/
def State.serveWaiting (s : State) (p : Fin 64) : Bool :=
  let mine (d : DynPkt) : Bool := d.part = p && d.arr.via = .serving
  s.fab.downq.toList.any (fun l => l.any mine) || s.stalls.toList.any (fun x => x.rt.inq.toList.any (fun l => l.any mine)) ||
  (s.part p).members.any (fun st =>
    let d := (s.stl st).pad
    (d.rx ++ d.deferred).any (fun a => a.via = .serving))

/-- Tokens fed in a round, and whether the round yields a token (14 R390). -/
def Request.fed (r : Request) (tps : Nat) : Nat := if r.pos < r.plen then min tps (r.plen - r.pos) else 1
def Request.emits (r : Request) (tps : Nat) : Bool := decide (r.plen ≤ r.pos + r.fed tps)

/-- A row from its words; words not given are 0. -/
def rowFrom (ws : List Word) : Row := Vector.ofFn (fun i : Fin 32 => ws.getD i.val 0)

/-- The slot row of a request (14 Table 14.4). -/
def Request.row (r : Request) (tps : Nat) : Row :=
  let n := r.fed tps
  let f (v : Nat) : Word := if r.first then BitVec.ofNat 32 v else 0
  let toks := if r.pos < r.plen then (r.tokens.drop r.pos).take n else [r.last]
  rowFrom ([pack [(1, 31), (b2n r.first, 30), (b2n (r.emits tps), 29), (n - 1, 20), (r.aslot.val, 16), (b2n r.aen, 15), (b2n r.copy, 14)],
    BitVec.ofNat 32 r.pos, f r.blocks.length, f r.adm, f r.pre, 0, 0, 0] ++ toks)

/-- Choices of this cc: its end adds them to the running dispatch's count, or in an end cycle and with no dispatch to the
pending one (03 R88, R91, R99). -/
def State.choose (s : State) (p : Fin 64) (n : Nat) : State := s.modPart p (fun q => { q with newChoice := q.newChoice + n })

/-- The slot rows of the next round are written when nothing holds them back: a full overflow, a variant swap (14 R387,
R389, R396, 15 R438). -/
def State.serveGo (s : State) (p : Fin 64) : State :=
  let q := s.part p
  match q.ctx with
  | none => s
  | some c =>
    if c.state ≠ 1 || c.stage ≠ 3 || c.blocked || q.holdsPost then s
    else
      let s := s.choose p c.choices
      let rows := (List.range c.slots).map (fun i => match c.reqs.get? i with | some r => r.row c.tps | none => Row.zero)
      (s.serveRows p c c.inBase (some c.inCtr) rows).modCtx p (fun c => { c with stage := 0, choices := 0, outToks := [] })

/-- The tree ports on which a SERVE_CHOICE goes on from the one that it came on. -/
def Part.onward (q : Part) (but : Option (Fin 8)) : List (Fin 8) := q.treePorts.filter (fun k => some k ≠ but)

/-- A SERVE_CHOICE record on every other tree port, so that it reaches every member wherever the head stands in the tree
(03 R92, 14 R396). -/
def State.sendChoice (s : State) (p : Fin 64) (but : Option (Fin 8)) (round count : Nat) : State :=
  ((s.part p).onward but).foldl (fun s k => s.recordPort k 0x06 [((s.part p).span.getD 0).toNat, round, count]) s

/-- After the admission rows: the choice count goes down the tree, or the slot rows follow (14 Table 14.5 step 7). -/
def State.afterRows (s : State) (p : Fin 64) : State :=
  let q := s.part p
  match q.ctx with
  | none => s
  | some c =>
    let kids := (q.onward none).length
    if c.choices ≠ 0 && kids ≠ 0 then
      (s.sendChoice p none (c.round.getD 0) c.choices).modCtx p (fun c => { c with stage := 2, acks := kids })
    else (s.modCtx p (fun c => { c with stage := 3 })).serveGo p

/-- ADMISSION_ROWS_LANDED: the cut's admission rows have landed (14 R392). Before that it does nothing. -/
def execAdmissionRowsLanded (p : Fin 64) (s : State) : Answer :=
  .next (
    match (s.part p).ctx with
    | none => s
    | some c => if c.state ≠ 1 || c.stage ≠ 1 || s.serveWaiting p then s else s.afterRows p)

/-! Closing (14 R413). -/

/-- Every active request ends with DONE and a reason. -/
def State.endAll (s : State) (p : Fin 64) (reason : Nat) : State :=
  match (s.part p).ctx with
  | none => s
  | some c =>
    (c.reqs.foldl (fun s e => s.servePost p e.2.ring (serveDone e.2.tag reason c.cur)) s).modCtx p (fun c => { c with reqs := [] })

/-- SERVE_CLOSE takes effect: the choices are counted on every member at once, those that a SERVE_CHOICE has told the members
of already not again (03 R92; log 37). Replies still in an overflow keep
the rings until the host has read them. -/
def State.closeNow (s : State) (p : Fin 64) (k : Packet) : State :=
  match (s.part p).ctx with
  | none => s
  | some c =>
    let n := c.reqs.length
    let s := (s.endAll p 4).flushReqs p stFaulted true 4096
    let tell := if c.state ≠ 1 then 0 else if c.stage = 2 || c.stage = 3 then n else c.choices + n
    let s := if tell = 0 then s else s.sendChoice p none c.cur tell
    let s := s.choose p (if c.state = 1 then c.choices + n else 0)
    let s := s.modPart p (fun q => { q with ctx := q.ctx.bind (fun c =>
      if c.overflow.isEmpty then none
      else some { c with state := 0, reqs := [], index := [], closeReq := none, choices := 0, swapDue := false, stage := 3, admitting := none }) })
    s.reply 0x41 k stOk [BitVec.ofNat 32 n]

/-- SERVE_CLOSE: at step 3 of the next cut, or at once if no round is in progress (14 R413, R414). -/
def execServeClose (k : Packet) (s : State) : Answer :=
  let p := k.part
  .next (s.command 0x41 k headRing [] (fun s =>
    let q := s.part p
    match q.ctx with
    | none => s.fail 0x41 k stBadParam
    | some c =>
      if c.state = 0 then s.fail 0x41 k stBadParam
      else if q.busyP then s.fail 0x41 k stBusy
      else if c.state = 1 && c.stage = 0 then s.modCtx p (fun c => { c with closeReq := some k })
      else s.closeNow p k))

/-! SERVE_OPEN (14 R379 to R381). -/

/-- An entry of the ring list (17 R501). -/
def State.ringEntryAt (s : State) (a : Nat) : DWord × Nat := (s.host.dword a, fld (s.host.word (a + 8)) 12 0)

/-- Rows that one translation window with permission ARR covers on a Stall (14 R380). -/
def Stall.arrives (x : Stall) (row n : Nat) : Bool :=
  x.xl.win.toList.any (fun w => w.valid && w.arr && decide (32 * w.lline.toNat ≤ row) &&
    decide (row + n ≤ 32 * (w.lline.toNat + w.count.toNat)))

/-- The context that a SERVE_OPEN asks for (17 Table 17.7). -/
def State.serveArgs (s : State) (k : Packet) : Serving :=
  let n := fld (k.w 9) 4 0
  let rings := (List.range (n + 1)).map (fun i => s.ringEntryAt (k.d 10 + 16 * i))
  { state := 1, status := 0, fn := k.fn, slots := fld (k.w 0) 31 20, tps := fld (k.w 0) 19 16 + 1,
    inMask := BitVec.ofNat 64 (k.d 1), inBase := fld (k.w 3) 18 0, inCtr := BitVec.ofNat 9 (fld (k.w 0) 8 0),
    admBase := fld (k.w 4) 18 0, admRows := fld (k.w 4) 27 19, outWin := BitVec.ofNat 4 (fld (k.w 0) 13 10),
    kvBlocks := fld (k.w 5) 20 0, maxCtx := fld (k.w 6) 20 0, glean := BitVec.ofNat 2 (fld (k.w 0) 15 14),
    gEntries := fld (k.w 7) 14 0, gStall := fld (k.w 7) 21 16, gRoot := fld (k.w 8) 18 0, reqRing := rings.headD (0, 0),
    repRings := rings.tail, reqs := [], index := [], overflow := [], blocked := false, kvWait := false, kvTold := [],
    round := none, outRows := 0, outToks := [], stage := 3, admitting := none, choices := 0, acks := 0, removed := [], closeReq := none,
    swapDue := false }

/-- A parameter lies outside Table 14.1, or a region is not covered (14 R380). -/
def State.serveBad (s : State) (p : Fin 64) (c : Serving) : Bool :=
  let q := s.part p
  let ring (r : DWord × Nat) (pow2 : Bool) : Bool :=
    r.1.toNat % 64 = 0 && decide (16 ≤ r.2) && decide (r.2 ≤ 4096) && (!pow2 || pow2In r.2 16 4096)
  (match q.image with | some i => !i.hold | none => true) || decide (c.slots < 16) || decide (2048 < c.slots) || c.slots % 16 ≠ 0 ||
  c.inMask = 0 || decide (2 ^ q.members.length ≤ c.inMask.toNat) || decide (393216 < c.inBase + c.slots) || c.admRows = 0 ||
  decide (256 < c.admRows) || c.kvBlocks = 0 || decide (1048576 < c.kvBlocks) || decide (c.maxCtx < 32) ||
  decide (1048576 < c.maxCtx) || c.glean = 3 || (c.glean = 1 && !pow2In c.gEntries 1024 16384) ||
  c.repRings.isEmpty || decide (16 < c.repRings.length) || !ring c.reqRing true || !c.repRings.all (fun r => ring r false) ||
  (s.inStalls p c).any (fun st => !(s.stl st).arrives c.inBase c.slots || !(s.stl st).arrives c.admBase c.admRows)

def serveMasks : List Word :=
  [0xFFFFFDFF, 0xFFFFFFFF, 0xFFFFFFFF, 0x7FFFF, 0xFFFFFFF, 0x1FFFFF, 0x1FFFFF, 0x3F7FFF, 0x7FFFF, 0x1F, 0xFFFFFFFF, 0xFFFFFFFF]

/-- SERVE_OPEN: the context opens with its ring pointers 0, and the input of round 0 follows (14 R380, R388). -/
def execServeOpen (k : Packet) (s : State) : Answer :=
  let p := k.part
  .next (s.command 0x40 k headRing serveMasks (fun s =>
    let q := s.part p
    let c := s.serveArgs k
    let s := s.count p 6 (16 * (fld (k.w 9) 4 0 + 1))
    let taken : Bool := match q.ctx with | some c => decide (c.state ≠ 0) | none => false
    match firstStatus [(s.serveBad p c, stBadParam), (q.busyP || taken, stBusy)] with
    | some st => s.fail 0x40 k st
    | none =>
      let s := s.modPart p (fun q => { q with
        ctx := some c, reqTail := 0, tailWas := 0, reqHead := 0, repHead := Vector.replicate 16 0, repTail := Vector.replicate 16 0 })
      (s.reply 0x40 k stOk []).serveGo p))

/-! The cut (14 Table 14.5). -/

/-- Ring indices from one up to another. -/
def ringSpan (size stop : Nat) : Nat → Nat → List Nat
  | _, 0 => []
  | i, n + 1 => if i = stop then [] else i :: ringSpan size stop (if size ≤ i + 1 then 0 else i + 1) n

/-- The entries of the request ring that no cut has handled, up to REQ_TAIL at the start of this cc (14 R392). -/
def State.reqEntries (s : State) (p : Fin 64) (c : Serving) : List (Nat × List Word) :=
  let q := s.part p
  ((ringSpan c.reqRing.2 q.tailWas.toNat q.reqHead.toNat 4096).filter (fun i => !c.removed.contains i)).map (fun i => (i, s.reqEntry c i))

/-- The prompt blocks that the round completed, in slot order. -/
def Serving.completed (c : Serving) : List (Request × Nat) :=
  c.reqs.flatMap (fun e =>
    let r := e.2
    let dest := r.pos + r.fed c.tps
    ((List.range (r.plen / 32)).filter (fun k =>
      decide (r.pos < 32 * (k + 1)) && decide (32 * (k + 1) ≤ dest) && decide (r.pre ≤ 32 * k))).map (fun k => (r, k + 1)))

/-- Step 1 for one slot: its output is posted and the request moves on or ends. A token that the round should have
yielded and did not is open (log 7). -/
def State.cutSlot (s : State) (p : Fin 64) (c : Serving) (slot : Nat) (r : Request) : State :=
  let pos := r.pos + r.fed c.tps
  let keep (s : State) (r : Request) : State := s.modCtx p (fun c => { c with reqs := c.reqs.set slot { r with pos := pos, first := false } })
  if !r.emits c.tps then keep s r
  else
    match c.outToks.get? slot with
    | some (tok, true) =>
      let ws : List Word := [pack [(1, 24)], r.tag, tok, BitVec.ofNat 32 pos, BitVec.ofNat 32 c.cur, BitVec.ofNat 32 (c.cur / 2 ^ 32)]
      let s := (s.servePost p r.ring ws).count p 14 1
      let stop := r.stop ≠ 0xFFFFFFFF && tok = r.stop
      if stop || r.maxNew ≤ r.emitted + 1 then
        (s.servePost p r.ring (serveDone r.tag (if stop then 1 else 2) c.cur)).modCtx p (fun c => { c with reqs := c.reqs.del slot })
      else keep s { r with last := tok, emitted := r.emitted + 1 }
    | _ =>
      let (w, s) := s.draw
      keep s { r with last := w }

/-- Step 2: insertions (14 R404). -/
def State.cutInsert (s : State) (p : Fin 64) (l : List (Request × Nat)) (round : Nat) : State :=
  l.foldl (fun s e =>
    match (s.part p).ctx with
    | none => s
    | some c =>
      let (c, skip) := c.insert e.1 e.2 round
      s.modPart p (fun q => { q with ctx := some c, gSkip := if skip then satAdd q.gSkip 1 else q.gSkip })) s

def entryKind (ws : List Word) : Nat := fld (ws.headD 0) 31 24
def entryTag (ws : List Word) : Word := ws.getD 1 0

/-- Step 3: one CANCEL entry (14 R395): an active request, or a SUBMIT waiting ahead of it (log 74). -/
def State.cancelOne (s : State) (p : Fin 64) (all : List (Nat × List Word)) (e : Nat × List Word) : State :=
  match (s.part p).ctx with
  | none => s
  | some c =>
    let tag := entryTag e.2
    let done (s : State) (l : List Nat) : State := s.modCtx p (fun c => { c with removed := c.removed ++ l })
    match c.reqs.find? (fun x => x.2.tag = tag) with
    | some (slot, r) =>
      let s := s.servePost p r.ring (serveDone tag 3 c.cur)
      done (s.modCtx p (fun c => { c with reqs := c.reqs.del slot, choices := c.choices + 1 })) [e.1]
    | none =>
      let ahead := all.takeWhile (fun x => x.1 ≠ e.1)
      match ahead.find? (fun x => entryKind x.2 = 1 && entryTag x.2 = tag && !c.removed.contains x.1) with
      | some x => done (s.servePost p (entryRing c x.2) (serveDone tag 3 c.cur)) [x.1, e.1]
      | none => done (s.servePost p 0 (serveErr tag stBadParam c.cur)) [e.1]

/-- Step 4: a pending variant swap (14 R412). -/
def State.cutSwap (s : State) (p : Fin 64) : State :=
  match (s.part p).ctx with
  | none => s
  | some c =>
    if !c.swapDue then s
    else
      let s := s.endAll p 5
      s.modPart p (fun q => { q with
        variant := q.variant + 1,
        ctx := q.ctx.map (fun c => { c with index := [], choices := c.choices + 1, swapDue := false }) })

/-- Why a SUBMIT is refused (14 R384, R394), or its binding: generation and copy. -/
def State.submitCheck (s : State) (p : Fin 64) (c : Serving) (ws : List Word) : Except Byte (Byte × Bool) :=
  let w := ws.headD 0
  let plen := (ws.getD 5 0).toNat
  let maxNew := fld (ws.getD 4 0) 31 16
  let a := (s.part p).adapters[fin 15 (fld w 19 16)]
  let aen := bit w 15
  let stale := match a.current with
    | some g => a.retired || (bit w 14 && g.toNat ≠ fld w 7 0)
    | none => true
  match firstStatus [(plen = 0 || maxNew = 0 || decide (c.maxCtx < plen + maxNew), stBadParam),
      (c.reqs.any (fun e => e.2.tag = entryTag ws), stBadParam), (aen && !a.ever, stBadParam), (aen && stale, stStaleGen),
      (!s.pcieUp, stFaulted)] with
  | some st => .error st
  | none => .ok (if aen then (a.current.getD 0, a.copy) else (0, false))

/-- The block-list rows of a request (14 R398). -/
def blockRows (hs : List Word) : List Row :=
  (List.range (ceilDiv hs.length 32)).map (fun i =>
    Vector.ofFn (fun j : Fin 32 => hs.getD (32 * i + j.val) 0xFFFFFFFF))

/-- The first entry left has been dealt with: handled, or waiting for a later cut. -/
def State.admitNext (s : State) (p : Fin 64) (e : Nat × List Word) (handled : Bool) : State :=
  s.modCtx p (fun c => { c with
    removed := if handled then c.removed ++ [e.1] else c.removed
    admitting := c.admitting.map (fun a => { a with left := a.left.drop 1, now := none }) })

/-- Admission stops for this cut (14 R393). -/
def State.admitStop (s : State) (p : Fin 64) (e : Nat × List Word) : State :=
  (s.admitNext p e false).modCtx p (fun c => { c with admitting := c.admitting.map (fun a => { a with stop := true }) })

/-- A lookup of n blocks ends with so many matched (14 Table 14.7). -/
def State.gleanCount (s : State) (p : Fin 64) (n hits : Nat) : State :=
  s.modPart p (fun q => { q with gHit := satAdd q.gHit hits, gMiss := if hits < n then satAdd q.gMiss 1 else q.gMiss })

/-- A SUBMIT whose lookup has ended, with the handles it matched and the index positions they stand at: admitted, or it waits and
stops admission (14 R393, R398, R401, R403). -/
def State.admitBound (s : State) (p : Fin 64) (e : Nat × List Word) (b : Binding) (hs : List Word) (ix : List Nat) : State :=
  let ws := e.2
  let w := ws.headD 0
  let plen := (ws.getD 5 0).toNat
  let maxNew := fld (ws.getD 4 0) 31 16
  let blocks := ceilDiv (plen + maxNew) 32
  let need := blocks - hs.length
  let s := s.modCtx p (fun c => c.evict need ix c.index.length)
  match (s.part p).ctx with
  | none => s
  | some c =>
    let free := c.free
    let rows := match c.admitting with | some a => a.rows | none => []
    if free.length < need then
      let told := c.kvTold.contains (entryTag ws)
      let s := s.modCtx p (fun c => { c with kvWait := true, kvTold := if told then c.kvTold else c.kvTold ++ [entryTag ws] })
      (if told then s else s.raise 0x5004 (some p) true (entryTag ws) (BitVec.ofNat 32 blocks)).admitStop p e
    else if c.admRows < rows.length + ceilDiv blocks 32 then s.admitStop p e
    else
      let all := hs ++ (free.take need).map (fun b => BitVec.ofNat 32 b)
      let pre := 32 * hs.length
      let r : Request :=
        { tag := entryTag ws, ring := entryRing c ws, plen := plen, maxNew := maxNew, stop := ws.getD 6 0, aen := bit w 15,
          aslot := fin 15 (fld w 19 16), gen := b.gen, copy := b.copy, pre := pre, blocks := all, keys := b.keys, adm := rows.length,
          pos := pre, first := true, emitted := 0, last := 0, tokens := b.toks }
      (s.modCtx p (fun c => { c with
        reqs := c.reqs.set b.slot r, choices := c.choices + 1, kvTold := c.kvTold.filter (· ≠ r.tag),
        admitting := c.admitting.map (fun a => { a with rows := a.rows ++ blockRows all }) })).admitNext p e true

/-- One SUBMIT: refused, waiting, or bound to a slot and a generation, and its lookup begins: at once in the hash index, row by
row in the radix catalogue (14 R393, R394, R401 to R405). -/
def State.admitSubmit (s : State) (p : Fin 64) (c : Serving) (e : Nat × List Word) : State :=
  let ws := e.2
  let w := ws.headD 0
  match s.submitCheck p c ws with
  | .error st => (s.servePost p (entryRing c ws) (serveErr (entryTag ws) st c.cur)).admitNext p e true
  | .ok (gen, copy) =>
    match (List.range c.slots).find? (fun i => (c.reqs.get? i).isNone) with
    | none => s.admitStop p e
    | some slot =>
      let plen := (ws.getD 5 0).toNat
      let (s, bs) := s.hostGet (some p) (dword (ws.getD 2 0) (ws.getD 3 0)).toNat (4 * plen)
      let toks := bytesWords bs
      let seed := gleanSeed (s.part p).variant (bit w 15) (fld w 19 16) gen.toNat
      let b : Binding := { slot := slot, gen := gen, copy := copy, toks := toks, keys := gleanKeys seed (plen / 32) toks }
      let n := (plen - 1) / 32
      if c.glean = 0 || plen < 32 then s.admitBound p e b [] []
      else if c.glean = 1 then
        let l := c.hits b.keys toks 1 n
        let s := s.modCtx p (fun c => { c with
          index := l.foldl (fun t x => Tab.set t x.1 { x.2 with last := c.cur }) c.index })
        (s.gleanCount p n l.length).admitBound p e b (l.map (fun x => x.2.handle)) (l.map (·.1))
      else
        match (s.part p).members[c.gStall]? with
        | none => (s.gleanCount p n 0).admitBound p e b [] []
        | some st =>
          let walk : Walk := { st := st, row := c.gRoot, k := 1, got := [] }
          s.modCtx p (fun c => { c with admitting := c.admitting.map (fun a => { a with now := some (b, walk) }) })

/-- Step 6 for one entry of the ring (14 R385, R393). -/
def State.admitEntry (s : State) (p : Fin 64) (c : Serving) (a : Admission) (e : Nat × List Word) : State :=
  let bad := (s.servePost p 0 (serveErr (entryTag e.2) stBadParam c.cur)).admitNext p e true
  if c.removed.contains e.1 then s.admitNext p e false
  else if entryKind e.2 ≠ 1 then bad
  else if a.stop then s.admitNext p e false
  else if c.repRings.length ≤ fld (e.2.headD 0) 23 20 then bad
  else s.admitSubmit p c e

/-- One read of a walk: none while the bank serves another request (04 R107). -/
def State.walkRead (s : State) (p : Fin 64) (e : Nat × List Word) (b : Binding) (w : Walk) : Option State :=
  match s.gleanServe w.st w.row with
  | (_, none) => none
  | (s, some r) =>
    let n := ((e.2.getD 5 0).toNat - 1) / 32
    match w.step b.keys n r with
    | .inl w => some (s.modCtx p (fun c => { c with admitting := c.admitting.map (fun a => { a with now := some (b, w) }) }))
    | .inr hs => some ((s.gleanCount p n hs.length).admitBound p e b hs [])

/-- SERVE.REQ_HEAD moves past every entry handled, up to the first one that waits (14 R393). -/
def State.advanceHead (s : State) (p : Fin 64) : Nat → State
  | 0 => s
  | n + 1 =>
    match (s.part p).ctx with
    | none => s
    | some c =>
      let q := s.part p
      if q.reqHead = q.reqTail || !c.removed.contains q.reqHead.toNat then s else State.advanceHead (s.reqNext p c) p n

/-- Admission has ended: the ring's head moves on and the admission rows are written (14 R393, Table 14.5 step 7). -/
def State.admitEnd (s : State) (p : Fin 64) (a : Admission) : State :=
  let s := (s.advanceHead p 4096).modCtx p (fun c => { c with round := some a.round, admitting := none })
  match (s.part p).ctx with
  | none => s
  | some c =>
    let s := (s.serveRows p c c.admBase none a.rows).modCtx p (fun c => { c with stage := 1 })
    (if a.rows.isEmpty then s.afterRows p else s).adapterStep p

/-- Admission goes on, with at most one read of a catalogue row in a cc (DESIGN CHOICE, log 69); `read`: it has been made. -/
def State.admitGo (p : Fin 64) : Nat → Bool → State → State
  | 0, _, s => s
  | f + 1, read, s =>
    match (s.part p).ctx with
    | none => s
    | some c =>
      match c.admitting with
      | none => s
      | some a =>
        match a.left, a.now with
        | [], _ => s.admitEnd p a
        | e :: _, none => State.admitGo p f read (s.admitEntry p c a e)
        | e :: _, some (b, w) =>
          if read then s
          else
            match s.walkRead p e b w with
            | none => s
            | some s => State.admitGo p f true s

/-- Enough rounds for the entries left. -/
def State.admitCc (s : State) (p : Fin 64) (read : Bool) : State :=
  match (s.part p).ctx with
  | some { admitting := some a, .. } => State.admitGo p (2 * a.left.length + 4) read s
  | _ => s

/-- Steps 4 to 7 of a cut whose context stays open. The catalogue's reads follow in later cc. -/
def State.cutRest (s : State) (p : Fin 64) (l : List (Nat × List Word)) (r : Nat) : State :=
  ((((s.cutSwap p).adapterCut p).modCtx p (fun c => { c with
    kvWait := false, stage := 4, admitting := some { round := r, left := l, rows := [], stop := false, now := none } }))).admitCc p true

/-- The cut of a round (14 R392). -/
def State.cut (s : State) (p : Fin 64) (c : Serving) : State :=
  let r := c.cur
  let fresh := if c.glean = 1 then c.completed else []
  let l := s.reqEntries p c
  let s := s.modCtx p (fun c => { c with outRows := c.outRows - c.slots / 16 })
  let s := c.reqs.foldl (fun s e => s.cutSlot p c e.1 e.2) s
  let s := s.cutInsert p fresh r
  let s := (l.filter (fun e => entryKind e.2 = 2)).foldl (fun s e => s.cancelOne p l e) s
  match c.closeReq with
  | some k => (s.closeNow p k).adapterStep p
  | none => s.cutRest p l r

/-- CUT: the output of the round in progress is complete (14 R391, R392). Before that it does nothing. -/
def execCut (p : Fin 64) (s : State) : Answer :=
  .next (
    match (s.part p).ctx with
    | none => s
    | some c => if c.state ≠ 1 || c.stage ≠ 0 || decide (c.outRows < c.slots / 16) then s else s.cut p c)

/-! Choice counts on the members (14 R396). -/

/-- An acknowledgement goes back towards the head; the kind of its record is not stated (log 7). -/
def State.sendAck (s : State) (p : Fin 64) (round : Nat) : State :=
  let (w, s) := s.draw
  match (s.part p).ackTo with
  | some k => s.recordPort k (w.setWidth 8) [((s.part p).span.getD 0).toNat, round]
  | none => s

/-- SERVE_CHOICE: the count is added, forwarded on every other tree port and acknowledged once each of those has (14 R396). -/
def execServeChoice (n : Fin 20) (span : BitVec 12) (round : DWord) (count : Word) (s : State) : Answer :=
  let k := sheafPort n
  .next (
    match decide ((s.sheaf n).state = .active), s.spanPart span with
    | true, some p =>
      let q := s.part p
      if q.head || !q.treePorts.contains k then s
      else
        let kids := (q.onward (some k)).length
        let s := ((s.choose p count.toNat).sendChoice p (some k) round.toNat count.toNat).modPart p
          (fun q => { q with ackWait := kids, ackTo := some k })
        if kids = 0 then s.sendAck p round.toNat else s
    | _, _ => s)

/-- SERVE_CHOICE_ACK: with the last one the head writes the slot rows, and another member acknowledges (14 R396). -/
def execServeChoiceAck (n : Fin 20) (span : BitVec 12) (round : DWord) (s : State) : Answer :=
  .next (
    match decide ((s.sheaf n).state = .active), s.spanPart span with
    | true, some p =>
      let q := s.part p
      if !q.treePorts.contains (sheafPort n) then s
      else
        match q.ctx with
        | some c =>
          if c.stage ≠ 2 then s
          else if c.acks ≤ 1 then (s.modCtx p (fun c => { c with stage := 3, acks := 0 })).serveGo p
          else s.modCtx p (fun c => { c with acks := c.acks - 1 })
        | none =>
          if q.ackWait = 0 || q.ackTo = some (sheafPort n) then s
          else
            let s := s.modPart p (fun q => { q with ackWait := q.ackWait - 1 })
            if q.ackWait = 1 then s.sendAck p round.toNat else s
    | _, _ => s)

/-! Output rows (14 R391, 16 R447, R458, R459). -/

/-- The Serving Unit sees a row that lands in OUT_WINDOW. -/
def Serving.output (c : Serving) (off : Int) (r : Row) : Serving :=
  let toks := (List.range 16).foldl (fun (t : Tab (Word × Bool)) j =>
    let slot := off.toNat / 8 + j
    if off < 0 ∨ c.slots ≤ slot then t
    else Tab.set t slot (r.toList.getD (2 * j) 0, bit (r.toList.getD (2 * j + 1) 0) 31)) c.outToks
  { c with outRows := c.outRows + 1, outToks := toks }

/-- HUB_WRITE_REQUEST: the oldest hub-bound row at a Stem port reaches its window's target, or is dropped; a failed
request is counted with its first row (16 R458, R459). A row for the Granary waits its turn (15 R433). -/
def execHubWriteRequest (port : Fin 4) (s : State) : Answer :=
  .next (
    match s.fab.hubq[port] with
    | [] => s
    | d :: l =>
      if (s.hubWaits port).isSome && s.granWaits 2 d.ready then s
      else
      let s := { s with fab := { s.fab with hubq := s.fab.hubq.set port l } }
      match s.window d.part d.win.toNat d.off 128 true with
      | .error c => if d.first then s.winFail d.part d.src d.win.toNat c d.off true else s
      | .ok (kind, a) =>
        let s := s.hubWrite d.part kind a (wordsBytes d.arr.data.toList)
        s.modCtx d.part (fun c => if c.state = 1 && c.outWin = d.win then c.output d.off d.arr.data else c))

/-- SWAP_WRITE_PASS_DONE: every member has finished; held dispatches are posted and held slot rows written (15 R437 to
R439). -/
def execSwapWritePassDone (p : Fin 64) (bad : Option Nat) (s : State) : Answer :=
  let ready : Bool := match (s.part p).swap with | some (_, _, n) => decide (4 ≤ n) | none => false
  .next (
    if !ready then s
    else
      ((s.swapPassDone p bad).serveGo p).postHead p)

/-- What a context's next step waits for goes on: a pending close, slot rows held back, adapters. -/
def State.serveStep (s : State) (p : Fin 64) : State :=
  let s := s.adapterStep p
  match (s.part p).ctx with
  | none => s
  | some c =>
    match c.closeReq with
    | some k => if c.state = 1 && c.stage = 0 then s else s.closeNow p k
    | none => s.serveGo p

end Sys2Proof.Machine
end

