-- ==== Sys2Proof/Machine/Regs.lean ====
section
/-! DEFINITION. Reads and writes of every register (00 R10 to R18, 16 R443, R463, 21 R626 to R631), and the event
rings (21 R616 to R622). -/

namespace Sys2Proof.Machine

/-! Register values. -/

/-- What a register shows: a word, the low word of a 64-bit quantity, or its high word (00 R11). -/
inductive Val where
  | word (w : Word)
  | low (d : DWord)
  | high
deriving DecidableEq, Repr

/-- A 64-bit quantity at two offsets. -/
def wide (o base : Nat) (d : DWord) : Option Val := if o = base then some (.low d) else if o = base + 4 then some .high else none

/-- A word shown. -/
def shows (w : Word) : Option Val := some (.word w)

/-- SYS.BOOT, SYS.RESET_CAUSE and SYS.ROW_SEL (20 Table 20.10, 21 Table 21.6). -/
def Sys.bootWord (y : Sys) : Word :=
  pack [(y.stage.toNat, 28), (y.fail.toNat, 24), (b2n y.bank, 20), (y.boot.toNat % 65536, 0)]
def Sys.causeWord (y : Sys) : Word := pack [(y.cause.1.toNat, 28), (y.cause.2.toNat, 0)]
def Sys.rowWord (y : Sys) : Word :=
  pack [(b2n y.rowBusy, 31), (b2n y.rowDone, 30), (b2n y.rowFail, 29), (y.rowStall.val, 19), (y.rowRow.toNat, 0)]

def State.sysVal (s : State) (o : Nat) : Option Val :=
  let y := s.sys
  match o with
  | 0x000 => shows sysId
  | 0x004 => shows y.fwver
  | 0x010 => some (.low y.stallOk)
  | 0x014 => some .high
  | 0x020 => shows y.bootWord
  | 0x024 => shows 0
  | 0x028 => shows y.causeWord
  | 0x030 => some (.low (BitVec.ofNat 64 s.cycle))
  | 0x034 => some .high
  | 0x040 => shows (pack [(b2n y.dbgOn, 1), (b2n y.dbgEn, 0)])
  | 0x080 => shows y.rowWord
  | _ => if decide (0x100 ≤ o) && decide (o < 0x180) then shows (y.rowBuf.toList.getD ((o - 0x100) / 4) 0) else none

/-- CMDQ registers (17 Table 17.1, 21 Table 21.1); DQ_RUNNING and DQ_USED read 0 in the operator view. -/
def State.cmdqVal (s : State) (f : Fin 65) (o : Nat) : Option Val :=
  let x := s.func f
  let (run, used) : Nat × Nat := match partOfFn f with
    | some p => (b2n (s.part p).disp.isSome, (s.part p).dqUsed)
    | none => (0, 0)
  match o with
  | 0x000 => shows (loW x.cbase)
  | 0x004 => shows (hiW x.cbase)
  | 0x008 => shows (x.csize.setWidth 32)
  | 0x00C => shows (loW x.rbase)
  | 0x010 => shows (hiW x.rbase)
  | 0x014 => shows (x.rsize.setWidth 32)
  | 0x018 => shows (pack [(b2n x.enable, 31), (b2n x.irq, 30), (x.vec.toNat, 0)])
  | 0x01C => shows (pack [(b2n x.running, 31), (b2n x.error, 30), (x.errCode.toNat, 24)])
  | 0x020 => shows (x.tail.setWidth 32)
  | 0x024 => shows (x.head.setWidth 32)
  | 0x028 => shows (x.rhead.setWidth 32)
  | 0x02C => shows (x.rtail.setWidth 32)
  | 0x030 => shows (pack [(run, 19), (used, 16), (x.infl, 0)])
  | 0x040 => shows (loW x.ebase)
  | 0x044 => shows (hiW x.ebase)
  | 0x048 => shows (x.esize.setWidth 32)
  | 0x04C => shows (pack [(b2n x.eenable, 31), (b2n x.eirq, 30), (x.evec.toNat, 0)])
  | 0x050 => shows (x.etail.setWidth 32)
  | 0x054 => shows (x.ehead.setWidth 32)
  | 0x058 => shows x.elost
  | 0x05C => shows (x.emask.setWidth 32)
  | _ => none

/-- PART registers (18 Table 18.10, 12 Table 12.4, 13 R373). -/
def State.partVal (s : State) (p : Fin 64) (o : Nat) : Option Val :=
  let q := s.part p
  match o with
  | 0x000 => shows (q.stateWord p.val)
  | 0x008 => some (.low q.stalls)
  | 0x00C => some .high
  | 0x010 => shows q.hubWord
  | 0x018 => shows q.account
  | 0x01C => shows (q.keymask.setWidth 32)
  | 0x020 => some (.low q.createSeq)
  | 0x024 => some .high
  | 0x100 => shows q.spanIdWord
  | 0x104 => shows q.rankWord
  | 0x108 => shows q.holdWord
  | 0x10C => shows q.spanStatus
  | 0x110 => shows q.lostWord
  | 0x118 => shows q.hkMiss
  | _ => none

/-- SERVE.CTX_STATUS and SERVE.ADAPTER[n] (14 Table 14.7). -/
def Serving.statusWord (c : Serving) : Word :=
  pack [(c.state.toNat, 30), (b2n c.blocked, 29), (b2n c.kvWait, 28), (c.reqs.length, 0)]
def Adapter.statusWord (a : Adapter) : Word :=
  pack [(b2n a.current.isSome, 31), (b2n a.retired, 30), (b2n a.job.isSome, 29), (b2n a.copy, 28), (a.super.toNat, 16),
    ((a.current.getD 0).toNat, 8)]

def State.serveVal (s : State) (p : Fin 64) (o : Nat) : Option Val :=
  let q := s.part p
  let k : Fin 16 := fin 15 ((o - 0x40) / 8)
  let i : Fin 16 := fin 15 (o / 4)
  match o with
  | 0x010 => shows (q.reqTail.setWidth 32)
  | 0x014 => shows (q.reqHead.setWidth 32)
  | 0x0C0 => shows (match q.ctx with | some c => c.statusWord | none => 0)
  | 0x0C8 => some (.low (BitVec.ofNat 64 (match q.ctx with | some c => c.round.getD 0 | none => 0)))
  | 0x0CC => some .high
  | 0x0D0 => shows (BitVec.ofNat 32 (match q.ctx with | some c => c.free.length | none => 0))
  | 0x0D4 => shows q.gHit
  | 0x0D8 => shows q.gMiss
  | 0x0DC => shows q.gSkip
  | 0x0E0 => shows (q.variant.setWidth 32)
  | 0x300 => shows (if q.disp.isSome then q.choice else q.pendChoice)
  | 0x304 => shows q.choiceLast
  | 0x308 => shows q.repro
  | _ =>
    if decide (0x40 ≤ o) && decide (o < 0xC0) then
      shows (if o % 8 = 0 then q.repHead[k].setWidth 32 else q.repTail[k].setWidth 32)
    else if decide (0x100 ≤ o) && decide (o < 0x140) then shows q.adapters[i].statusWord
    else if decide (0x140 ≤ o) && decide (o < 0x180) then shows (pack [(q.refs i false, 16), (q.refs i true, 0)])
    else none

/-- Transaction IDs in use at an initiator port (16 Table 16.3): a processor's access ends in its own command. -/
def State.idsInUse (s : State) (i : Nat) : Nat := if i < 5 then 0 else min 128 s.fab.fetches[fin 3 (i - 5)].length

def State.fabVal (s : State) (o : Nat) : Option Val :=
  match o with
  | 0x000 => shows s.fab.status
  | 0x010 => shows s.fab.badacc
  | 0x014 => shows s.fab.drainDrop
  | 0x018 => shows s.fab.timeouts
  | 0x020 => shows s.fab.winFault
  | 0x024 => shows s.fab.winFaults
  | _ => if decide (0x40 ≤ o) && decide (o < 0x64) then shows (BitVec.ofNat 32 (s.idsInUse ((o - 0x40) / 4))) else none

/-- PWR.STATE (19 Table 19.7). -/
def State.pwrWord (s : State) : Word :=
  let w := s.pwr
  pack [(s.moduleState, 30), (b2n w.cellReady, 29), (b2n w.backup, 28), (b2n w.brake, 27), (b2n w.isoOk, 26),
    (b2n w.thermal, 25), (b2n w.limiting, 24)]

/-- PWR registers but PWR.VCORE, whose mV a rail between two of them leaves open. -/
def State.pwrVal (s : State) (o : Nat) : Option Val :=
  let w := s.pwr
  match o with
  | 0x000 => shows s.pwrWord
  | 0x004 => shows (w.limit.setWidth 32)
  | 0x008 => shows (w.inVolt ++ w.inWatt)
  | 0x00C => shows (w.cell.setWidth 32)
  | 0x010 => some (.low (BitVec.ofNat 64 w.ticks))
  | 0x014 => some .high
  | 0x018 => some (.low w.lossTick)
  | 0x01C => some .high
  | 0x020 => shows w.flushWord
  | 0x040 => shows w.droops
  | 0x048 => some (.low w.unattr)
  | 0x04C => some .high
  | _ => none

/-- CLK.EPOCH_NEXT (19 Table 19.7). -/
def Clk.nextWord (c : Clk) : Word := match c.next with | some (n, f) => pack [(1, 31), (n.toNat, 6), (f.toNat, 0)] | none => 0

def State.clkVal (s : State) (o : Nat) : Option Val :=
  let c := s.clk
  match o with
  | 0x000 => shows s.freqWord
  | 0x008 => shows c.nextWord
  | 0x010 => shows (c.skew[0].setWidth 32)
  | 0x014 => shows (c.skew[1].setWidth 32)
  | 0x018 => shows (c.skew[2].setWidth 32)
  | 0x01C => shows (c.skew[3].setWidth 32)
  | 0x020 => shows c.alarms
  | 0x024 => shows c.missed
  | _ => none

/-- TELEM.RESULT[c] (19 Table 19.7). -/
def TelResult.word (r : TelResult) : Word := pack [(b2n r.valid, 31), (r.good.toNat, 16), (r.last.toNat, 0)]

def State.telemVal (s : State) (o : Nat) : Option Val :=
  let t := s.telem
  match o with
  | 0x000 => shows (pack [(b2n t.run, 31), (t.period.toNat, 0)])
  | 0x004 => shows 0
  | 0x008 => shows t.missed
  | 0x00C => shows t.held
  | _ =>
    if decide (0x100 ≤ o) && decide (o < 0x180) then shows t.seq[fin 31 (o / 4)]
    else if decide (0x200 ≤ o) && decide (o < 0x260) then shows t.result[fin 23 ((o - 0x200) / 4)].word
    else if decide (0x300 ≤ o) && decide (o < 0x350) then
      (if o % 8 = 0 then some (.low t.energy[fin 9 ((o - 0x300) / 8)]) else some .high)
    else none

/-- CHN_ATTN_N is driven low by this module: for 1 ms from the start of a pulse, and not while the line is stuck (20
R592, R593). -/
def State.driving (s : State) : Bool :=
  match s.chain.pulse with
  | some t => decide (s.now < t + 1000000000) && !s.chain.stuck
  | none => false

/-- CHAIN.STATUS (20 Table 20.10). -/
def State.chainStatus (s : State) : Word :=
  let c := s.chain
  pack [(b2n c.addr.isSome, 31), (b2n s.driving, 30), (b2n c.stuck, 29), (b2n c.stuckExt, 28), (b2n c.overflow, 27),
    ((c.addr.getD 0).toNat, 0)]

def State.chainVal (s : State) (o : Nat) : Option Val :=
  let c := s.chain
  match o with
  | 0x000 => shows s.chainStatus
  | 0x004 => shows (c.attn.setWidth 32)
  | 0x008 => shows (c.mask.setWidth 32)
  | 0x00C => shows c.crcErr
  | 0x010 => shows c.frames
  | _ => none

/-- GRAN registers (15 Table 15.4). -/
def State.granVal (s : State) (o : Nat) : Option Val :=
  let g := s.gran
  match o with
  | 0x000 => shows (pack [(b2n g.avail, 31), (b2n g.retained, 30), (fld g.chans 15 0, 0)])
  | 0x004 => shows g.chans
  | 0x008 => shows g.retry
  | 0x00C => shows g.err
  | 0x010 => shows (match g.badLog with | b :: _ => pack [(1, 31), (b, 0)] | [] => 0)
  | 0x014 => shows (BitVec.ofNat 32 g.freeMib)
  | 0x018 => shows (BitVec.ofNat 32 g.dir.length)
  | 0x020 => shows (pack [(g.swap.1, 29), (g.swap.2.toNat, 0)])
  | _ => none

/-- A ROUTE register: the entries of eight node IDs (12 R352). -/
def Link.routeWord (l : Link) (n : Nat) : Word :=
  pack ((List.range 8).map (fun k => ((Tab.getD l.route (8 * n + k) 0xF).toNat, 4 * k)))

/-- LINK.HK_STATUS (13 Table 13.5). -/
def Ring.statusWord (r : Ring) : Word := pack [(r.state.toNat, 29), (b2n r.closed, 28), (r.id.toNat, 12), (r.rev.toNat, 0)]

/-- LINK registers (11 Table 11.10, R317, 12 R352, 13 Table 13.5). -/
def State.linkVal (s : State) (o : Nat) : Option Val :=
  let n : Fin 20 := fin 19 (o / 0x40)
  let h := s.sheaf n
  let k : Fin 8 := fin 7 (o / 4)
  if o < 0x500 then
    match o % 0x40 with
    | 0x00 => shows (s.sheafStatus n)
    | 0x04 => shows h.latWord
    | 0x08 => shows h.farWord
    | 0x0C => shows h.eqWord
    | 0x10 => shows h.fecCorr
    | 0x14 => shows h.fecSym
    | 0x18 => shows h.fecUnc
    | 0x1C => shows h.schedLost
    | 0x20 => shows h.dynRetry
    | 0x24 => shows h.markMiss
    | 0x28 => shows h.retrains
    | _ => none
  else if decide (0x600 ≤ o) && decide (o < 0x620) then shows (s.port k).status
  else if decide (0x640 ≤ o) && decide (o < 0x660) then shows (s.port k).coll
  else if decide (0x1000 ≤ o) && decide (o < 0x2000) then shows (s.link.routeWord ((o - 0x1000) / 4))
  else match o with
    | 0x700 => shows s.nodeWord
    | 0x704 => shows s.timebase
    | 0x708 => shows s.link.torus
    | 0x70C => shows s.link.drop
    | 0x720 => shows s.ring.statusWord
    | 0x724 => shows (s.ring.revLen.setWidth 32)
    | 0x728 => shows (s.ring.raw.setWidth 32)
    | 0x72C => shows s.ring.damaged
    | 0x730 => shows s.ring.tapDrop
    | _ => none

/-! The STALL space (21 Table 21.8). -/

/-- BACKED[m], its four registers (04 Table 4.6). -/
def Backed.word (b : Backed) (r : Nat) : Word :=
  match r with
  | 0 => b.start.setWidth 32
  | 1 => pack [(b2n b.enable, 31), (b.count.toNat, 0)]
  | 2 => b.gran.setWidth 32
  | _ => BitVec.ofNat 32 (b.gran.toNat / 2 ^ 32)

/-- XLATE[w], words A and B (08 Table 8.6). -/
def Window.wordA (w : Window) : Word :=
  pack [(b2n w.valid, 31), (b2n w.r, 30), (b2n w.w, 29), (b2n w.arr, 28), (b2n w.page, 27), (b2n w.glean, 26),
    (w.lline.toNat, 0)]
def Window.wordB (w : Window) : Word := pack [(w.count.toNat, 14), (w.pline.toNat, 0)]

/-- MEM_STATUS and the oldest entry of POISON_LOG (04 Tables 4.7, 4.8). -/
def Pad.statusWord (d : Pad) : Word :=
  pack [(b2n d.tallyOvf, 31), (b2n d.scrubLate, 30), (b2n d.logOvf, 29), (d.tallyIdx.toNat, 20), (d.poison.length, 0)]
def Pad.logWord (d : Pad) : Word :=
  match d.log with
  | e :: _ => pack [(1, 31), (e.state.toNat, 29), (e.foundBy.toNat, 27), (e.row.toNat, 0)]
  | [] => 0

/-- CA_STATUS (06 Table 6.6). -/
def State.caWord (s : State) (st : Fin 64) : Word :=
  let c := (s.stl st).ca
  let busy := (s.stl st).busy 1
  pack [(b2n busy, 31), (b2n (busy && c.loading), 30), (b2n c.valid, 29), (b2n c.tset, 28), (b2n c.wenc, 27),
    (c.wbits.toNat, 24), (b2n c.wsign, 23), (c.tileRow.toNat, 0)]

/-- LE_STATUS, VE_STATUS and LT_STATUS (07 Table 7.5, 08 Table 8.7). -/
def State.lanesWord (s : State) (st : Fin 64) (vec : Bool) : Word :=
  pack [(b2n ((s.stl st).busy (if vec then 3 else 2)), 31), ((if vec then (s.stl st).ve else (s.stl st).le).opc.toNat, 0)]
def State.ltWord (s : State) (st : Fin 64) : Word :=
  let t := (s.stl st).te
  pack [(b2n ((s.stl st).busy 4), 31), (b2n t.tilePath, 30), (t.opc.toNat, 0)]

/-- SQ_STATUS (09 Table 9.9). A Stall that has issued END, or whose issue a STORE fault has stopped, while its dispatch still
runs or is frozen shows 0, idle: it issues no more bundles of it (DESIGN CHOICE, log 64). -/
def State.sqWord (s : State) (st : Fin 64) : Word :=
  let q := (s.stl st).seq
  let frozen := match s.running st with | some (_, d) => d.frozen | none => false
  let n : Nat := match q.state with
    | .idle => 0
    | .issuing => if frozen then 2 else 1
    | .ended => 0
    | .faulted => 3
  pack [(n, 30), (q.outstanding, 25), (b2n ((s.stl st).busy 0), 24), (q.pc.toNat, 0)]

/-- An owner byte, MK_OWNER0 and MK_OWNER1 (10 Table 10.4). -/
def ownerByte (o : Option (Fin 64)) : Nat := match o with | some p => 0x80 + p.val | none => 0
def Router.ownerWord (r : Router) : Word :=
  pack [(ownerByte r.owner[3], 24), (ownerByte r.owner[2], 16), (ownerByte r.owner[1], 8), (ownerByte r.owner[0], 0)]

/-- A slot register: entries 4m to 4m + 3 of an output (10 Table 10.4). -/
def Router.slotWord (r : Router) (p : Fin 5) (m : Nat) : Word :=
  pack ((List.range 4).map (fun i => ((Tab.getD r.slots[p] (4 * m + i) 0).toNat, 8 * i)))

/-- HE_STATUS (10 Table 10.4). -/
def State.heWord (s : State) (st : Fin 64) : Word :=
  let x := s.stl st
  pack [(b2n ((s.stl st).busy 5), 31), (x.pad.rx.length, 24), (x.he.queue.length, 16), (min x.he.issues 16, 0)]

/-- STALL.HK_STATUS: the window entries started and the cursor (13 Table 13.5). -/
def Takes.statusWord (t : Takes) : Word :=
  let on := t.window.zipIdx.foldl (fun n e =>
    if t.active.any (fun a => a.entry = e.1) || t.done.contains e.1 then n + 2 ^ e.2 else n) 0
  pack [(on, 28), (t.cursor.toNat, 0)]

/-- A window base register: ENABLE and line. -/
def baseWord (b : Option (BitVec 14)) : Word := match b with | some l => pack [(1, 31), (l.toNat, 0)] | none => 0

/-- Registers of the STALL space by block. -/
def State.stallVal (s : State) (st : Fin 64) (o : Nat) : Option Val :=
  let x := s.stl st
  if o < 0x800 then shows (x.seq.tally[fin 511 (o / 4)].setWidth 32)
  else if o < 0xC00 then shows x.ca.scale[fin 255 ((o - 0x800) / 4)]
  else if o < 0xD00 then shows (x.xl.backed[fin 15 ((o - 0xC00) / 16)].word (o % 16 / 4))
  else if decide (0x1080 ≤ o) && decide (o < 0x10C0) then shows x.ve.const[fin 15 ((o - 0x1080) / 4)]
  else if decide (0x10C0 ≤ o) && decide (o < 0x1100) then shows x.le.const[fin 15 ((o - 0x10C0) / 4)]
  else if decide (0x1100 ≤ o) && decide (o < 0x1200) then
    let w := x.xl.win[fin 31 ((o - 0x1100) / 8)]
    shows (if o % 8 = 0 then w.wordA else w.wordB)
  else if decide (0x1200 ≤ o) && decide (o < 0x1218) then
    let m := x.xl.mesh[fin 5 ((o - 0x1200) / 4)]
    shows (m.1 ++ m.2)
  else if decide (0x1320 ≤ o) && decide (o < 0x1340) then shows (x.seq.loops[fin 7 ((o - 0x1320) / 4)].cur.setWidth 32)
  else if decide (0x1350 ≤ o) && decide (o < 0x1360) then shows (BitVec.ofNat 32 (fld x.seq.valid (8 * (o - 0x1350) + 31) (8 * (o - 0x1350))))
  else if decide (0x8000 ≤ o) && decide (o < 0xD000) then
    shows (x.rt.slotWord (fin 4 ((o - 0x8000) / 0x1000)) (o % 0x1000 / 4))
  else match o with
    | 0x0D00 => shows x.pad.statusWord
    | 0x0D04 => shows x.pad.logWord
    | 0x0D08 => shows x.pad.scrubStatus
    | 0x0D0C => shows x.pad.conflicts
    | 0x0D10 => shows x.ca.reqSat
    | 0x0E00 => shows (hzStatusWord x.hz.cap)
    | 0x0E04 => shows x.hz.cap.addr
    | 0x0E08 => some (.low x.hz.cap.cc)
    | 0x0E0C => some .high
    | 0x0F00 => shows (s.caWord st)
    | 0x0F04 => shows x.ca.accSat
    | 0x0F08 => shows x.ca.dropped
    | 0x0F0C => shows x.ca.zskip
    | 0x0F10 => shows x.ca.overrun
    | 0x1000 => shows (s.lanesWord st false)
    | 0x1004 => shows x.le.dropped
    | 0x1008 => shows x.le.cntA
    | 0x100C => shows x.le.cntB
    | 0x1040 => shows (s.lanesWord st true)
    | 0x1044 => shows x.ve.dropped
    | 0x1048 => shows x.ve.cntA
    | 0x104C => shows x.ve.cntB
    | 0x1218 => shows (match x.xl.spanId with | some i => pack [(1, 31), (i.toNat, 0)] | none => 0)
    | 0x121C => shows (baseWord x.xl.descBase)
    | 0x1220 => shows (xfStatusWord x.xl.xf)
    | 0x1224 => shows x.xl.xf.addr
    | 0x1228 => shows x.xl.xf.tag
    | 0x1230 => some (.low x.xl.xf.cc)
    | 0x1234 => some .high
    | 0x1240 => shows (s.ltWord st)
    | 0x1244 => shows x.te.dropped
    | 0x1248 => shows x.xl.foreign
    | 0x124C => shows x.xl.gleanFail
    | 0x1300 => shows (s.sqWord st)
    | 0x1308 => some (.low (BitVec.ofNat 64 x.seq.sched))
    | 0x130C => some .high
    | 0x1310 => shows (sqFaultWord x.seq.fault)
    | 0x1318 => some (.low x.seq.fault.cc)
    | 0x131C => some .high
    | 0x1340 => shows x.seq.step
    | 0x1344 => shows x.seq.steps
    | 0x1348 => shows (baseWord x.seq.recBase)
    | 0x1400 => shows x.rt.ownerWord
    | 0x1404 => shows (BitVec.ofNat 32 (ownerByte x.rt.owner[4]))
    | 0x1408 => shows x.rt.drop
    | 0x140C => shows x.rt.dynWait
    | 0x1420 => shows (s.heWord st)
    | 0x1424 => shows x.he.dropped
    | 0x1428 => shows x.he.rxFull
    | 0x1500 => shows x.tk.statusWord
    | 0x1504 => shows x.tk.miss
    | 0x1508 => shows x.tk.retake
    | _ => none

/-- What a register shows; `none` where a block places none (21 R627). -/
def State.regVal (s : State) (r : Reg) : Option Val :=
  match r with
  | .sys o => s.sysVal o
  | .cmdq f o => s.cmdqVal f o
  | .part p o => s.partVal p o
  | .serve p o => s.serveVal p o
  | .journal => shows (pack [(b2n s.jflags.1, 31), (b2n s.jflags.2.1, 30), (b2n s.jflags.2.2, 29), (s.sys.boot.toNat % 65536, 0)])
  | .ledger p o =>
    if o < 0x80 then (if o % 8 = 0 then some (.low (s.part p).cnt[fin 15 (o / 8)]) else some .high)
    else if o = 0x80 then shows (s.part p).sealSeq
    else none
  | .close p k => shows ((s.part p).close.getD k 0)
  | .fab o => s.fabVal o
  | .winView p o => if o = 0x20 then shows (s.part p).winFault else if o = 0x24 then shows (s.part p).winFaults else none
  | .hwin p w i =>
    let h := (s.part p).hwin[w]
    shows (match i.val with | 0 => h.ctl | 1 => h.baseLo | 2 => h.baseHi | _ => h.size)
  | .pwr o =>
    if decide (0x30 ≤ o) && decide (o < 0x40) then
      let f : Fin 4 := fin 3 (o / 4)
      shows (pack [(b2n (s.guarded f), 16)] ||| (s.milliVolt (s.rail f)).2)
    else s.pwrVal o
  | .clk o => s.clkVal o
  | .telem o => s.telemVal o
  | .chain o => s.chainVal o
  | .gran o => s.granVal o
  | .sec o => if o = 8 then shows s.keys.status else wide o 0 Config.uid
  | .link o => s.linkVal o
  | .stall st o => s.stallVal st o

/-! Effects of a read (00 R12, RS). -/

/-- The registers of a Stall that a read clears, or takes the oldest entry from. -/
def Stall.readAt (x : Stall) (o : Nat) : Stall :=
  match o with
  | 0x0D04 => { x with pad := { x.pad with log := x.pad.log.tail } }
  | 0x0D0C => { x with pad := { x.pad with conflicts := 0 } }
  | 0x0D10 => { x with ca := { x.ca with reqSat := 0 } }
  | 0x0F04 => { x with ca := { x.ca with accSat := 0 } }
  | 0x0F08 => { x with ca := { x.ca with dropped := 0 } }
  | 0x0F0C => { x with ca := { x.ca with zskip := 0 } }
  | 0x0F10 => { x with ca := { x.ca with overrun := 0 } }
  | 0x1004 => { x with le := { x.le with dropped := 0 } }
  | 0x1008 => { x with le := { x.le with cntA := 0 } }
  | 0x100C => { x with le := { x.le with cntB := 0 } }
  | 0x1044 => { x with ve := { x.ve with dropped := 0 } }
  | 0x1048 => { x with ve := { x.ve with cntA := 0 } }
  | 0x104C => { x with ve := { x.ve with cntB := 0 } }
  | 0x1244 => { x with te := { x.te with dropped := 0 } }
  | 0x1248 => { x with xl := { x.xl with foreign := 0 } }
  | 0x124C => { x with xl := { x.xl with gleanFail := 0 } }
  | 0x1344 => { x with seq := { x.seq with steps := 0 } }
  | 0x1408 => { x with rt := { x.rt with drop := 0 } }
  | 0x140C => { x with rt := { x.rt with dynWait := 0 } }
  | 0x1424 => { x with he := { x.he with dropped := 0 } }
  | 0x1428 => { x with he := { x.he with rxFull := 0 } }
  | 0x1504 => { x with tk := { x.tk with miss := 0 } }
  | 0x1508 => { x with tk := { x.tk with retake := 0 } }
  | _ => x

/-- The sheaf counters. -/
def Sheaf.readAt (h : Sheaf) (o : Nat) : Sheaf :=
  match o with
  | 0x10 => { h with fecCorr := 0 }
  | 0x14 => { h with fecSym := 0 }
  | 0x18 => { h with fecUnc := 0 }
  | 0x1C => { h with schedLost := 0 }
  | 0x20 => { h with dynRetry := 0 }
  | 0x24 => { h with markMiss := 0 }
  | 0x28 => { h with retrains := 0 }
  | _ => h

/-- The state after a read of a register: an RS register reads 0 from then on, and a log has lost its oldest entry.
PWR.VCORE of a rail between two mV has drawn its value. -/
def State.readAt (s : State) (r : Reg) : State :=
  match r with
  | .cmdq f 0x58 => s.modFunc f (fun x => { x with elost := 0 })
  | .serve p o =>
    if o = 0xD4 then s.modPart p (fun q => { q with gHit := 0 })
    else if o = 0xD8 then s.modPart p (fun q => { q with gMiss := 0 })
    else if o = 0xDC then s.modPart p (fun q => { q with gSkip := 0 })
    else s
  | .fab o =>
    if o = 0x14 then { s with fab := { s.fab with drainDrop := 0 } }
    else if o = 0x18 then { s with fab := { s.fab with timeouts := 0 } }
    else if o = 0x24 then { s with fab := { s.fab with winFaults := 0 } }
    else s
  | .winView p 0x24 => s.modPart p (fun q => { q with winFaults := 0 })
  | .pwr o =>
    if decide (0x30 ≤ o) && decide (o < 0x40) then (s.milliVolt (s.rail (fin 3 (o / 4)))).1
    else if o = 0x40 then { s with pwr := { s.pwr with droops := 0 } }
    else s
  | .clk o =>
    if o = 0x20 then { s with clk := { s.clk with alarms := 0 } }
    else if o = 0x24 then { s with clk := { s.clk with missed := 0 } }
    else s
  | .telem o =>
    if o = 0x08 then { s with telem := { s.telem with missed := 0 } }
    else if o = 0x0C then { s with telem := { s.telem with held := 0 } }
    else s
  | .chain o =>
    if o = 0x0C then { s with chain := { s.chain with crcErr := 0 } }
    else if o = 0x10 then { s with chain := { s.chain with frames := 0 } }
    else s
  | .gran o =>
    if o = 0x08 then { s with gran := { s.gran with retry := 0 } }
    else if o = 0x0C then { s with gran := { s.gran with err := 0 } }
    else if o = 0x10 then { s with gran := { s.gran with badLog := s.gran.badLog.tail } }
    else s
  | .link o =>
    if o < 0x500 then s.modSheaf (fin 19 (o / 0x40)) (fun h => h.readAt (o % 0x40))
    else if decide (0x640 ≤ o) && decide (o < 0x660) then s.modPort (fin 7 (o / 4)) (fun x => { x with coll := 0 })
    else if o = 0x70C then { s with link := { s.link with drop := 0 } }
    else if o = 0x72C then { s with ring := { s.ring with damaged := 0 } }
    else if o = 0x730 then { s with ring := { s.ring with tapDrop := 0 } }
    else s
  | .stall st o => s.modStl st (fun x => x.readAt o)
  | _ => s

/-! Reads. -/

/-- The holding register of each requester (00 R11). -/
def latchKey (rq : Requester) : Nat :=
  match rq with
  | .host f => f.val
  | .mp => 65
  | .sp => 66
  | .pp => 67
  | .serving => 68
  | .chain => 69

/-- A requester reaches a register now: it has a path, and a Stall can be reached over the bridge (16 R443, 21 R628). -/
def State.reaches (s : State) (rq : Requester) (r : Reg) (write : Bool) : Bool :=
  (if write then mayWrite rq r else mayRead rq r) && (match r with | .stall st _ => s.bridgeOk st | _ => true)

/-- A read that is performed: the value, and the state after it. -/
def State.readReg (s : State) (rq : Requester) (r : Reg) (v : Val) : State × Word :=
  let t := s.readAt r
  match v with
  | .word w => (t, w)
  | .low d => ({ t with latch := t.latch.set (latchKey rq) (hiW d) }, loW d)
  | .high => (t, s.latch.getD (latchKey rq) 0)

/-- The state with what a lock covers as it was when the lock was taken. -/
def State.before (s : State) (w : LockSnap) : State := { s with parts := w.parts, stalls := w.stalls, keys := w.keys }

/-- An aligned 32-bit register read: 0xFFFF_FFFF and a record without a path or a register (16 R443, 21 R627, R628);
the value from before a lock that covers the register, for every initiator but the SP (16 R463). -/
def State.regRead (s : State) (rq : Requester) (off : BitVec 24) : State × Word :=
  if off.toNat % 4 ≠ 0 then (s.badAcc 1 rq off, 0xFFFFFFFF)
  else
    match regAt rq off with
    | none => (s.badAcc 2 rq off, 0xFFFFFFFF)
    | some r =>
      match s.regVal r with
      | none => (s.badAcc 2 rq off, 0xFFFFFFFF)
      | some v =>
        if !s.reaches rq r false then (s.badAcc 2 rq off, 0xFFFFFFFF)
        else
          match s.lockWas with
          | none => s.readReg rq r v
          | some w =>
            if rq = .sp || !s.locked r then s.readReg rq r v
            else
              let old := s.before w
              let (t, x) := old.readReg rq r ((old.regVal r).getD v)
              let (u, _) := s.readReg rq r v
              ({ u with latch := t.latch, lockWas := some ⟨t.parts, t.stalls, t.keys⟩ }, x)

/-- A read answered to its requester. -/
def State.regReadOut (s : State) (rq : Requester) (off : BitVec 24) : State :=
  let (s, v) := s.regRead rq off
  s.emit (.read rq v)

/-- RS_REGISTER_READ: a register read, which clears an RS field or takes the oldest entry of a log (00 R12). -/
def execRsRegisterRead (rq : Requester) (off : BitVec 24) (s : State) : Answer :=
  .next (s.viaMatrix rq off none (State.regReadOut · rq off))

/-- LOW_WORD_READ: a register read, which latches the high word of a 64-bit quantity for its requester (00 R11). -/
def execLowWordRead (rq : Requester) (off : BitVec 24) (s : State) : Answer :=
  .next (s.viaMatrix rq off none (State.regReadOut · rq off))

/-- MISALIGNED_REGISTER_ACCESS: no aligned 32-bit access: a read returns 0xFFFF_FFFF, a write is dropped (00 R17). -/
def execMisalignedRegisterAccess (rq : Requester) (off : BitVec 24) (width : Nat) (write : Bool) (s : State) : Answer :=
  .next (
    if off.toNat % 4 = 0 && width = 32 then s
    else
      let s := s.badAcc 1 rq off
      if write then s else s.emit (.read rq 0xFFFFFFFF))

/-! Event rings (21 R616 to R621). -/

/-- The setup meets 21 Table 21.1. -/
def Func.eventOk (x : Func) : Bool := x.ebase.toNat % 4096 = 0 && pow2In x.esize.toNat 16 4096

/-- An event entry (21 Table 21.2). -/
def Event.words (e : Event) (loss : Bool) (seq : Word) : List Word :=
  [pack [(e.code.toNat, 16), (b2n loss, 15), (b2n e.modul, 14), (e.part.toNat, 0)], seq, loW e.cycle, hiW e.cycle, loW e.ticks,
    hiW e.ticks, e.arg0, e.arg1]

/-- The event ring is full (21 R619). -/
def Func.eventFull (x : Func) : Bool := ringNext x.etail x.esize.toNat = x.ehead

/-- An admitted event: its entry is written, or it is lost; SEQ counts it either way (21 R617, R619). -/
def State.putEntry (s : State) (f : Fin 65) (e : Event) (fail : Bool) : State :=
  let x := s.func f
  let lost := { x with eseq := x.eseq + 1, elost := satAdd x.elost 1, eloss := true }
  if !x.eenable || x.eventFull then s.setFunc f lost
  else if fail || !s.pcieUp then s.setFunc f { lost with errCode := 6, error := true, errNew := true, eenable := false }
  else
    let s := s.hostPut (partOfFn f) (x.ebase.toNat + 32 * x.etail.toNat) (wordsBytes (e.words x.eloss x.eseq))
    let s := s.setFunc f { x with eseq := x.eseq + 1, eloss := false, etail := ringNext x.etail x.esize.toNat }
    if x.eirq then s.emit (.msix f x.evec) else s

/-- EVENT_ENTRY_WRITE: the next event a function's ring has received (21 R619, R622). -/
def execEventEntryWrite (f : Fin 65) (fail : Bool) (s : State) : Answer :=
  .next (
    match (s.func f).events with
    | [] => s
    | e :: l => (s.modFunc f (fun x => { x with events := l })).putEntry f e fail)

/-- The operator's pending events are written first, in order; those that found the buffer full count in SEQ, and the
next entry carries LOSS (21 R621). -/
def State.flushEvents (s : State) : State :=
  let l := s.evBuf
  let n := s.evOver
  let s := l.foldl (fun s e => s.putEntry 0 e false) { s with evBuf := [], evOver := 0 }
  s.modFunc 0 (fun x => { x with eseq := x.eseq + BitVec.ofNat 32 n, eloss := x.eloss || decide (0 < n) })

/-- ERING_CTL fields other than ENABLE. -/
def Func.ectl (x : Func) (v : Word) : Func := { x with eirq := bit v 30, evec := BitVec.ofNat 5 (fld v 4 0) }

/-- ERING_CTL.ENABLE written from 0 to 1 (21 R617). -/
def State.enableEvents (s : State) (f : Fin 65) (v : Word) : State :=
  let x := (s.func f).ectl v
  if !x.eventOk then s.setFunc f { x with error := true, errNew := true, errCode := 5 }
  else
    let s := s.setFunc f { x with eenable := true, etail := 0, ehead := 0 }
    if f.val = 0 then s.flushEvents else s

/-- A write of ERING_CTL. -/
def State.putEctl (s : State) (f : Fin 65) (v : Word) : State :=
  let x := s.func f
  if bit v 31 && !x.eenable then s.enableEvents f v else s.setFunc f { x.ectl v with eenable := bit v 31 }

/-- ERING_ENABLE: a write of ERING_CTL with ENABLE 1 while it is 0; a write of another kind is not this command. -/
def execEringEnable (f : Fin 65) (v : Word) (s : State) : Answer :=
  .next (if bit v 31 && !(s.func f).eenable then s.viaMatrix (.host f) 0x104C (some v) (State.enableEvents · f v) else s)

/-! Writes. -/

/-- A base register's low word keeps bits [31:12] (17 Table 17.1). -/
def baseLo (d : DWord) (v : Word) : DWord := dword (v &&& 0xFFFFF000) (hiW d)
def baseHi (d : DWord) (v : Word) : DWord := dword (loW d) v

/-- A write of a CMDQ register (17 Table 17.1, R472, 21 Table 21.1, R617). -/
def State.putCmdq (s : State) (f : Fin 65) (o : Nat) (v : Word) : State :=
  let x := s.func f
  let c (y : Func) : State := if x.enable then s else s.setFunc f y
  let e (y : Func) : State := if x.eenable then s else s.setFunc f y
  let n : BitVec 13 := BitVec.ofNat 13 (fld v 12 0)
  match o with
  | 0x000 => c { x with cbase := baseLo x.cbase v }
  | 0x004 => c { x with cbase := baseHi x.cbase v }
  | 0x008 => c { x with csize := n }
  | 0x00C => c { x with rbase := baseLo x.rbase v }
  | 0x010 => c { x with rbase := baseHi x.rbase v }
  | 0x014 => c { x with rsize := n }
  | 0x018 => s.putCtl f v
  | 0x01C => s.setFunc f { x with error := cleared x.error x.errNew (bit v 30) }
  | 0x020 => s.putDoorbell f v
  | 0x028 => s.setFunc f { x with rhead := BitVec.ofNat 12 (fld v 11 0) }
  | 0x040 => e { x with ebase := baseLo x.ebase v }
  | 0x044 => e { x with ebase := baseHi x.ebase v }
  | 0x048 => e { x with esize := n }
  | 0x04C => s.putEctl f v
  | 0x054 => s.setFunc f { x with ehead := BitVec.ofNat 12 (fld v 11 0) }
  | 0x05C => s.setFunc f { x with emask := BitVec.ofNat 9 (fld v 8 1 * 2) }
  | _ => s

/-- A write of a CHAIN register (20 Table 20.10). -/
def Chain.put (c : Chain) (o : Nat) (v : Word) : Chain :=
  match o with
  | 0x000 =>
    let (a, b, d) := c.statNew
    { c with stuck := cleared c.stuck a (bit v 29), stuckExt := cleared c.stuckExt b (bit v 28),
             overflow := cleared c.overflow d (bit v 27) }
  | 0x004 => c.ack (v.setWidth 8)
  | 0x008 => { c with mask := v.setWidth 8 }
  | _ => c

/-- Bit 31 of a word cleared by a 1 written to it, unless it was set in this cc (00 R15). -/
def w1c (w v : Word) (now : Bool) : Word := if bit v 31 && !now then w &&& 0x7FFFFFFF else w

/-- A write takes effect by its register's access codes (00 R12, R14); RO and RS fields take nothing from it. -/
def State.putReg (s : State) (rq : Requester) (off : BitVec 24) (r : Reg) (v : Word) : State :=
  match r with
  | .sys o => if o = 0x24 then s.putReset v else if o = 0x40 then s.putDebug v else if o = 0x80 then s.putRowSel v else s
  | .cmdq f o => s.putCmdq f o v
  | .fab o =>
    if o = 0 then { s with fab := { s.fab with expired := cleared s.fab.expired s.fab.bitsNew.1 (bit v 29) } }
    else if o = 0x10 then { s with fab := { s.fab with badacc := w1c s.fab.badacc v s.fab.bitsNew.2.1 } }
    else if o = 0x20 then { s with fab := { s.fab with winFault := w1c s.fab.winFault v s.fab.bitsNew.2.2 } }
    else s
  | .winView p o => if o = 0x20 then s.modPart p (fun q => { q with winFault := w1c q.winFault v q.winNew }) else s
  | .pwr o =>
    let w := fld v 11 0
    if o = 4 && decide (500 ≤ w) && decide (w ≤ 2200) then { s with pwr := { s.pwr with limit := BitVec.ofNat 12 w } } else s
  | .telem o => if o = 4 && bit v 0 then s.trigger else s
  | .chain o => { s with chain := s.chain.put o v }
  | _ => s.putLockable ⟨rq, off, v⟩

/-- An aligned 32-bit register write: dropped and recorded without a path or a register; held or staged under a lock
(16 R443, R461 to R463, 21 R627, R628). The SP writes only what its lock covers, and over the Stem at once. -/
def State.regWrite (s : State) (rq : Requester) (off : BitVec 24) (v : Word) : State :=
  if off.toNat % 4 ≠ 0 then s.badAcc 1 rq off
  else
    match regAt rq off with
    | none => s.badAcc 2 rq off
    | some r =>
      if (s.regVal r).isNone || !s.reaches rq r true || (rq = .sp && !s.locked r) then s.badAcc 2 rq off
      else
        match rq, r with
        | .sp, .stall st o => s.putStall st o v
        | _, _ => if s.locked r then s.underLock ⟨rq, off, v⟩ else s.putReg rq off r v

/-- REGISTER_WRITE (00 R12). -/
def execRegisterWrite (rq : Requester) (off : BitVec 24) (v : Word) (s : State) : Answer :=
  .next (s.viaMatrix rq off (some v) (State.regWrite · rq off v))

/-- The host accesses that waited at the link while the matrix drained are performed, in order (16 R466). -/
def State.linkCc (s : State) : State :=
  if s.fab.drainTo.isSome then s
  else s.fab.atLink.foldl (fun s a => match a.2.2 with
    | some v => s.regWrite (.host a.1) a.2.1 v
    | none => s.regReadOut (.host a.1) a.2.1) { s with fab := { s.fab with atLink := [] } }

/-- BRIDGE_ACCESS: the operator's read or write of a register in the STALL window (21 R628). -/
def execBridgeAccess (off : BitVec 22) (wr : Option Word) (s : State) : Answer :=
  let a : BitVec 24 := BitVec.ofNat 24 (0x400000 + off.toNat)
  .next (
    s.viaMatrix (.host 0) a wr (fun s => match wr with
      | some v => s.regWrite (.host 0) a v
      | none => s.regReadOut (.host 0) a))

end Sys2Proof.Machine
end

