-- ==== Sys2Proof/Machine/Chain.lean ====
section
/-! DEFINITION. The management chain (20 R586 to R599), attention (20 R592, R593), MOD_LED_N (20 R585) and the test port
(20 R584). Points that the spec leaves to be inferred: log 25. -/

namespace Sys2Proof.Machine

/-! Frames (20 Table 20.3). -/

/-- One byte of the CRC-16: polynomial 0x1021, no reflection. -/
def crc16Bit : Nat → Half → Half
  | 0, c => c
  | n + 1, c => crc16Bit n (if bit c 15 then (c <<< 1) ^^^ 0x1021 else c <<< 1)
def crc16Byte (c : Half) (b : Byte) : Half := crc16Bit 8 (c ^^^ (b.setWidth 16 <<< 8))
def crc16 (bs : List Byte) : Half := bs.foldl crc16Byte 0xFFFF

/-- The CRC that a frame should carry: over DST, SRC, CMD, LEN and the payload. -/
def frameCrc (f : ChainFrame) : Half := crc16 ([f.dst, f.src, f.cmd, BitVec.ofNat 8 f.payload.length] ++ f.payload)
def frameOk (f : ChainFrame) : Bool := f.crc = frameCrc f

/-- A frame with a fresh CRC; with the CRC exclusive-or 0xFFFF when the one that came in failed (20 R588). -/
def freshCrc (f : ChainFrame) (ok : Bool) : ChainFrame := { f with crc := if ok then frameCrc f else frameCrc f ^^^ 0xFFFF }

/-- The chain address. -/
def Chain.at' (c : Chain) (d : Byte) : Bool := c.addr = some d

/-- A CRC failure: counted, and the first after a read of CHAIN.CRC_ERR reported (20 R588, Table 20.11). -/
def State.chainCrc (s : State) : State :=
  let first : Bool := s.chain.crcErr = 0
  let s := { s with chain := { s.chain with crcErr := satAdd s.chain.crcErr 1 } }
  if first then s.raise 0x8003 none false 0 0 else s

/-- The reply to a frame: to the chain head, with the status first (20 Table 20.3). -/
def State.chainReply (s : State) (f : ChainFrame) (status : Byte) (data : List Byte) : State :=
  let r : ChainFrame := { dst := 0, src := s.chain.addr.getD 0, cmd := f.cmd ||| 0x80, payload := status :: data, crc := 0 }
  s.emit (.chain (freshCrc r true))

/-- The module states that a command lists (20 Table 20.4). -/
inductive ChainStates where
  | all
  | m0m1
  | m1
deriving DecidableEq, Repr

def ChainStates.has (c : ChainStates) (m : Nat) : Bool :=
  match c with
  | .all => decide (m < 3)
  | .m0m1 => decide (m < 2)
  | .m1 => m = 1

/-- The commands that have a reply (20 Table 20.4). -/
def chainCodes : List Byte := [0x02, 0x03, 0x04, 0x05, 0x06, 0x08, 0x10, 0x11, 0x12, 0x13]

/-- A frame as it passes: the bypass switch in M3 and an address that is another's forward it unchanged (20 R588). A
broadcast goes on with `change`; an addressed frame is answered by `act`, or by nothing if its CRC fails. -/
def State.frame (s : State) (f : ChainFrame) (change : State → State × ChainFrame) (act : State → State) : State :=
  if s.pwr.mstate = 3 then s.emit (.chain f)
  else if f.dst = 0xFF then
    if frameOk f then
      let (s, g) := change s
      s.emit (.chain (freshCrc g true))
    else s.chainCrc.emit (.chain (freshCrc f false))
  else if s.chain.at' f.dst then
    if frameOk f then act { s with chain := { s.chain with frames := satAdd s.chain.frames 1 } }
    else s.chainCrc
  else s.emit (.chain f)

/-- A broadcast command. Addressed to one module it is no command that Table 20.4 gives a reply. -/
def State.broadcast (s : State) (code : Byte) (f : ChainFrame) (change : State → State × ChainFrame) : State :=
  s.frame f (fun s => if f.cmd = code then change s else (s, f)) (fun s => s.chainReply f stBadParam [])

/-- A command to one module: the states in which it may come, then its effect. A frame with another command takes no
effect here; a broadcast one goes on unchanged. -/
def State.addressed (s : State) (code : Byte) (f : ChainFrame) (c : ChainStates) (act : State → State) : State :=
  s.frame f (fun s => (s, f)) (fun s =>
    if f.cmd ≠ code then s.chainReply f stBadOpcode []
    else if !c.has s.moduleState then s.chainReply f stDenied []
    else act s)

/-- Payload bytes as a number, little-endian. -/
def payNat (f : ChainFrame) (a n : Nat) : Nat := bytesNat ((f.payload.drop a).take n)

/-- CHAIN_FRAME_FORWARD: a frame for another module, or for the chain head; a frame that reaches this module with a
reserved command is answered with BAD_OPCODE (20 R588, R590). -/
def execChainFrameForward (f : ChainFrame) (s : State) : Answer :=
  .next (s.frame f (fun s => (s, f)) (fun s =>
    if chainCodes.contains f.cmd then s.chainReply f stBadParam [] else s.chainReply f stBadOpcode []))

/-! Commands (20 Table 20.4). -/

/-- ADDR_ASSIGN: the address A is taken and A + 1 goes on; 0xFF is no address (20 R591). -/
def execAddrAssign (f : ChainFrame) (s : State) : Answer :=
  .next (s.broadcast 0x01 f (fun s =>
    match f.payload with
    | [a] =>
      if a = 0xFF then
        let s := { s with chain := { s.chain with overflow := true, statNew := (s.chain.statNew.1, s.chain.statNew.2.1, true) } }
        (s.raise 0x8004 none false 0 0, f)
      else if a = 0 then (s, f)
      else
        let s := { s with chain := { s.chain with addr := some a } }
        (s.raise 0x8001 none false (a.setWidth 32) 0, { f with payload := [a + 1] })
    | _ => (s, f)))

/-- A register that the chain reaches in M2. -/
def Reg.inM2 : Reg → Bool
  | .pwr _ => true
  | .clk _ => true
  | .telem _ => true
  | .chain _ => true
  | r => r.ledgerBlock

/-- The words of a READ, in offset order. -/
def State.chainWords (s : State) (off : Nat) : Nat → State × List Word
  | 0 => (s, [])
  | n + 1 =>
    let (s, w) := s.regRead .chain (BitVec.ofNat 24 off)
    let (s, l) := State.chainWords s (off + 4) n
    (s, w :: l)

/-- READ: 1 to 32 words from an operator-view offset. -/
def execChainRead (f : ChainFrame) (s : State) : Answer :=
  let off := payNat f 0 3
  let n := payNat f 3 1
  .next (s.addressed 0x02 f .all (fun s =>
    if f.payload.length ≠ 4 || n = 0 || decide (32 < n) then s.chainReply f stBadParam []
    else if s.moduleState = 2 && (List.range n).any (fun i =>
        match regAt .chain (BitVec.ofNat 24 (off + 4 * i)) with | some r => !r.inM2 | none => true) then
      s.chainReply f stNoResource []
    else
      let (s, l) := s.chainWords off n
      s.chainReply f stOk (wordsBytes l)))

/-- A register that the chain may write. -/
def State.chainMay (s : State) (off : Nat) : Bool :=
  match regAt .chain (BitVec.ofNat 24 off) with
  | some r => off % 4 = 0 && (s.regVal r).isSome && mayWrite .chain r
  | none => false

/-- Words written to consecutive offsets. -/
def State.chainPut (s : State) (off : Nat) : List Word → State
  | [] => s
  | w :: l => State.chainPut (s.regWrite .chain (BitVec.ofNat 24 off) w) (off + 4) l

/-- WRITE: CHAIN registers, PWR.LIMIT and SYS.RESET only; the reply leaves before a reset. -/
def execChainWrite (f : ChainFrame) (s : State) : Answer :=
  let off := payNat f 0 3
  let ws := bytesWords (f.payload.drop 3)
  .next (s.addressed 0x03 f .all (fun s =>
    if decide (f.payload.length < 7) || (f.payload.length - 3) % 4 ≠ 0 || decide (32 < ws.length) then s.chainReply f stBadParam []
    else if (List.range ws.length).any (fun i => !s.chainMay (off + 4 * i)) then s.chainReply f stDenied []
    else (s.chainReply f stOk []).chainPut off ws))

/-- Every sheaf goes to DISABLED, then the torus and the node ID are written and the sheaves leave DISABLED again (20
R594, 11 R293). -/
def State.putNode (s : State) (node : BitVec 13) (torus : Word) : State :=
  let s := { s with link := { s.link with node := none } }
  let s := (List.finRange 20).foldl (fun s n => s.sheafTo n .disabled) s
  let s := { s with link := { s.link with torus := torus, node := some node } }
  s.reroute.openSheaves

/-- SET_NODE (20 R594). -/
def execSetNode (f : ChainFrame) (s : State) : Answer :=
  let node : BitVec 13 := BitVec.ofNat 13 (payNat f 0 2)
  let torus : Word := BitVec.ofNat 32 (payNat f 2 4) &&& 0x800F80FF
  let (x, y, z) := nodeXyz node
  let (a, b, c) := torusSize torus
  .next (s.addressed 0x04 f .m0m1 (fun s =>
    if f.payload.length ≠ 6 then s.chainReply f stBadParam []
    else if s.link.node = some node && s.link.torus = torus then s.chainReply f stOk []
    else if !bit torus 31 || decide (a ≤ x) || decide (b ≤ y) || decide (c ≤ z) then s.chainReply f stBadParam []
    else if !s.existing.isEmpty then s.chainReply f stBusy []
    else (s.putNode node torus).chainReply f stOk []))

/-- WAKE: from M2 the module reaches M1 within 30 ms; without effect in M0 and M1 (20 Table 20.4, 19 Table 19.2). While
the boot sequence brings the rails up, the module is on its way to M1 already. -/
def execWake (f : ChainFrame) (s : State) : Answer :=
  .next (s.addressed 0x05 f .all (fun s =>
    if !f.payload.isEmpty then s.chainReply f stBadParam []
    else
      let s := s.chainReply f stOk []
      if s.moduleState ≠ 2 || decide (s.sys.stage.toNat < 3) || s.pwr.wake.isSome then s
      else { s with pwr := { s.pwr with wake := some (s.now + 30000000000) } }))

/-- RESET: the reply leaves before the reset (20 R600). -/
def execReset (f : ChainFrame) (s : State) : Answer :=
  let kind := payNat f 0 1
  .next (s.addressed 0x06 f .all (fun s =>
    if f.payload.length ≠ 1 || (kind ≠ 1 && kind ≠ 2) then s.chainReply f stBadParam []
    else (s.chainReply f stOk []).requestReset (BitVec.ofNat 2 kind) 2))

/-- The attention condition (20 R592). -/
def Chain.attention (c : Chain) : Bool := c.attn &&& c.mask ≠ 0

/-- ATTN_POLL: the module sets the bit of its address while its attention condition holds. -/
def execAttnPoll (f : ChainFrame) (s : State) : Answer :=
  .next (s.broadcast 0x07 f (fun s =>
    match s.chain.addr with
    | some a =>
      if f.payload.length = 32 && s.chain.attention then
        let i := a.toNat / 8
        let b : Byte := f.payload.getD i 0 ||| BitVec.ofNat 8 (2 ^ (a.toNat % 8))
        (s, { f with payload := f.payload.set i b })
      else (s, f)
    | none => (s, f)))

/-- ATTN_ACK: bits of CHAIN.ATTN cleared. -/
def execAttnAck (f : ChainFrame) (s : State) : Answer :=
  .next (s.addressed 0x08 f .all (fun s =>
    if f.payload.length ≠ 1 then s.chainReply f stBadParam []
    else { s with chain := s.chain.put 4 (BitVec.ofNat 32 (payNat f 0 1)) }.chainReply f stOk []))

/-! Flash (20 R596, R597). -/

/-- The areas of the flash that FLASH_WRITE takes: a firmware bank that is not in use, and the key block. With no bank
booted none is in use. -/
def State.flashArea (s : State) (a : Nat) : Option Nat :=
  let none' : Bool := s.sys.stage = 15 && s.sys.fail = 1
  if a < 0xC00000 then (if s.sys.bank || none' then some 0 else none)
  else if a < 0x1800000 then (if !s.sys.bank || none' then some 1 else none)
  else if a < 0x1810000 then some 2
  else none

/-- One byte programmed. What an erased byte takes is the data; the result on a byte that is not erased is open. -/
def State.program (s : State) (a : Nat) (b : Byte) : State :=
  if s.flash.rd a = 0 then { s with flash := s.flash.wr a (b ^^^ 0xFF) }
  else
    let (w, s) := s.draw
    { s with flash := s.flash.wr a (w.setWidth 8) }

/-- Bytes programmed in turn; a byte at a sector boundary that begins the write erases its sector first. -/
def State.programAll (s : State) (a : Nat) : List Byte → State
  | [] => s
  | b :: l => State.programAll (s.program a b) (a + 1) l

/-- FLASH_WRITE (20 R597). -/
def execFlashWrite (f : ChainFrame) (s : State) : Answer :=
  let a := payNat f 0 4
  let bs := f.payload.drop 4
  .next (s.addressed 0x10 f .all (fun s =>
    if decide (bs.length < 4) || decide (124 < bs.length) || bs.length % 4 ≠ 0 || a % 4 ≠ 0 || decide (0x4000000 < a + bs.length) then
      s.chainReply f stBadParam []
    else if (s.flashArea a).isNone || s.flashArea a ≠ s.flashArea (a + bs.length - 1) then s.chainReply f stDenied []
    else
      let s := if a % 65536 = 0 then { s with flash := s.flash.zero a 65536 } else s
      (s.programAll a bs).chainReply f stOk []))

/-- A byte of the journal: record number n lies in slot n modulo 131,072; a slot of no record kept is erased (18 R531). -/
def State.journalByte (s : State) (o : Nat) : Byte :=
  let slot := o / 256
  let first := s.journalN - s.journal.length
  let n := first + (slot + 131072 - first % 131072) % 131072
  match s.journal[n - first]? with
  | some ws => (wordsBytes ws).getD (o % 256) 0
  | none => 0xFF

/-- A byte of the flash. The layout of the directory area is not stated: its bytes are open (log 7). -/
def State.flashByte (s : State) (a : Nat) : State × Byte :=
  if a < 0x1810000 then (s, s.flash.rd a ^^^ 0xFF)
  else if a < 0x2000000 then
    let (w, s) := s.draw
    (s, w.setWidth 8)
  else (s, s.journalByte (a - 0x2000000))

def State.flashBytes (s : State) (a : Nat) : Nat → State × List Byte
  | 0 => (s, [])
  | n + 1 =>
    let (s, b) := s.flashByte a
    let (s, l) := State.flashBytes s (a + 1) n
    (s, b :: l)

/-- FLASH_READ: 4 to 124 bytes. -/
def execFlashRead (f : ChainFrame) (s : State) : Answer :=
  let a := payNat f 0 4
  let n := payNat f 4 1
  .next (s.addressed 0x11 f .all (fun s =>
    if f.payload.length ≠ 5 || decide (n < 4) || decide (124 < n) || decide (0x4000000 < a + n) then s.chainReply f stBadParam []
    else
      let (s, l) := s.flashBytes a n
      s.chainReply f stOk l))

/-! The owner key (20 R599). -/

/-- ENROLL_OWNER: an owner key is staged. -/
def execEnrollOwner (f : ChainFrame) (s : State) : Answer :=
  .next (s.addressed 0x12 f .m1 (fun s =>
    if s.keys.owner.isSome || !s.existing.isEmpty then s.chainReply f stDenied []
    else if (ecPoint f.payload).isNone then s.chainReply f stBadParam []
    else { s with chain := { s.chain with staged := some f.payload } }.chainReply f stOk []))

/-- ENROLL_COMMIT: the staged key is fused into slot 1 when 8 bytes of its digest agree. -/
def execEnrollCommit (f : ChainFrame) (s : State) : Answer :=
  .next (s.addressed 0x13 f .m1 (fun s =>
    if s.keys.owner.isSome then s.chainReply f stDenied []
    else match s.chain.staged with
    | none => s.chainReply f stBadParam []
    | some k =>
      if f.payload ≠ (sha384 k).take 8 then s.chainReply f stBadParam []
      else
        let s := { s with keys := { s.keys with owner := some k }, chain := { s.chain with staged := none } }
        s.chainReply f stOk []))

/-! Attention (20 R592, R593) and MOD_LED_N (20 R585). -/

/-- ATTN_PULSE: the line has been high for 50 µs: while the attention condition holds a pulse of 1 ms begins, once a
second. -/
def execAttnPulse (s : State) : Answer :=
  let due : Bool := match s.chain.pulse with | some t => decide (t + 1000000000000 ≤ s.now) | none => true
  .next (
    if s.pwr.mstate = 3 || !s.chain.attention || s.chain.stuck || !due then s
    else { s with chain := { s.chain with pulse := some s.now } }.emit .attn)

/-- ATTN_STUCK: CHN_ATTN_N has been low for more than 100 ms: a module that drives it stops (20 R593). -/
def execAttnStuck (s : State) : Answer :=
  let c := s.chain
  .next (
    if s.pwr.mstate = 3 || c.stuck || c.stuckExt then s
    else
      let s := { s with chain := if s.driving then { c with stuck := true, pulse := none, statNew := (true, c.statNew.2) }
        else { c with stuckExt := true, statNew := (c.statNew.1, true, c.statNew.2.2) } }
      s.raise 0x8002 none false s.chainStatus 0)

/-- How MOD_LED_N shows the boot: lit, or blinking at so many Hz. -/
def State.ledHz (s : State) : Option Nat :=
  if s.sys.stage = 15 || s.chain.stuck then some 4
  else if s.sys.stage = 7 then none
  else some 1

/-! The test port (20 R584), as IEEE 1149.1 has it. -/

/-- BYPASS: one bit, captured as 0, between TDI and TDO. -/
def execBypass (tdi : Bool) (s : State) : Answer :=
  .next ({ s with chain := { s.chain with jtag := 0, extest := false, jdr := BitVec.ofNat 32 (b2n tdi) } }.emit (.tdo 0))

/-- The identification register. -/
def idWord : Word := pack [(Config.stepping.toNat, 28), (0x0A08, 12), (0x5E3, 1), (1, 0)]

/-- IDCODE. -/
def execIdcode (s : State) : Answer :=
  .next ({ s with chain := { s.chain with jtag := 1, extest := false, jdr := idWord } }.emit (.tdo idWord))

/-- The pins that the boundary register samples, from bit 0 up: PERST_N, CHN_ATTN_N, PWR_BRAKE_N, MOD_RESET_N,
MOD_PRESENT_N, MOD_LED_N. CHN_ATTN_N is low while this module drives it, and open otherwise; so is a blinking LED. -/
def State.sample (s : State) : State × BitVec 6 :=
  let (w, s) := s.draw
  let c := s.chain
  let attn := if s.driving then false else bit w 0
  let led := match s.ledHz with | none => false | some _ => bit w 1
  (s, BitVec.ofNat 6 (b2n c.perstN + 2 * b2n attn + 4 * b2n c.brakeN + 8 * b2n c.modResetN + 32 * b2n led))

/-- SAMPLE/PRELOAD: the pins are sampled and shifted out, and the cells take what is shifted in. -/
def execSamplePreload (cells : BitVec 6) (s : State) : Answer :=
  let (s, p) := s.sample
  let c := { s.chain with jtag := 2, extest := false, jdr := p.setWidth 32, cells := cells }
  .next ({ s with chain := c }.emit (.tdo (p.setWidth 32)))

/-- EXTEST: the cells drive the pins, only while MOD_RESET_N is held low; at other times it acts as BYPASS. -/
def execExtest (s : State) : Answer :=
  .next (
    if s.chain.modResetN then { s with chain := { s.chain with jtag := 0, extest := false, jdr := 0 } }.emit (.tdo 0)
    else
      let (s, p) := s.sample
      let c := { s.chain with jtag := 3, extest := true, jdr := p.setWidth 32 }
      { s with chain := c }.emit (.tdo (p.setWidth 32)))

end Sys2Proof.Machine
end

