-- ==== Sys2Proof/Machine/Float.lean ====
section
/-! DEFINITION. FP32 and BF16 by exact arithmetic: a value is a sign, a number and a power of two, and
every result is rounded once (03 Table 3.2, 05 Table 5.1). -/

namespace Sys2Proof.Machine

/-- A finite value: (−1)^neg × m × 2^e. -/
structure Dy where
  neg : Bool
  m   : Nat
  e   : Int
deriving DecidableEq, Repr

/-- A floating-point value. -/
inductive Fp where
  | nan
  | inf (neg : Bool)
  | fin (d : Dy)
deriving DecidableEq, Repr

/-- m / 2^k rounded to nearest, ties to even. -/
def rneShift (m k : Nat) : Nat :=
  let q := m / 2 ^ k
  let r := m % 2 ^ k
  if 2 ^ k < 2 * r ∨ (2 * r = 2 ^ k ∧ k ≠ 0 ∧ q % 2 = 1) then q + 1 else q

/-- m × 2^e rounded to an integer, ties to even. -/
def rneInt (m : Nat) (e : Int) : Nat := if 0 ≤ e then m * 2 ^ e.toNat else rneShift m (-e).toNat

/-- The rounded signed integer of a finite value. -/
def Dy.rne (d : Dy) : Int := if d.neg then -(rneInt d.m d.e : Int) else (rneInt d.m d.e : Int)

/-- m × 2^e with p bits of precision: (q, E) with 2^(p−1) ≤ q < 2^p and value q × 2^(E − p + 1). -/
def roundP (p m : Nat) (e : Int) : Nat × Int :=
  let l := bitLen m
  let q := if p ≤ l then rneShift m (l - p) else m * 2 ^ (p - l)
  let top : Int := e + (l : Int) - 1
  if q = 2 ^ p then (2 ^ (p - 1), top + 1) else (q, top)

def fp32Dec (w : Word) : Fp :=
  let s := bit w 31
  let x := fld w 30 23
  let f := fld w 22 0
  if x = 255 then (if f = 0 then .inf s else .nan)
  else if x = 0 then .fin ⟨s, f, -149⟩
  else .fin ⟨s, 0x800000 + f, (x : Int) - 150⟩

/-- BF16 subnormal inputs read as zero (03 Table 3.2). -/
def bf16Dec (h : Half) : Fp :=
  let s := bit h 15
  let x := fld h 14 7
  let f := fld h 6 0
  if x = 255 then (if f = 0 then .inf s else .nan)
  else if x = 0 then .fin ⟨s, 0, 0⟩
  else .fin ⟨s, 0x80 + f, (x : Int) - 134⟩

def fp32Enc : Fp → Word
  | .nan => 0x7FC00000
  | .inf s => if s then 0xFF800000 else 0x7F800000
  | .fin d =>
    let sg : Nat := b2n d.neg * 2 ^ 31
    if d.m = 0 then BitVec.ofNat 32 sg
    else
      let (q, x) := roundP 24 d.m d.e
      if d.e + (bitLen d.m : Int) - 1 < -126 then BitVec.ofNat 32 (sg + rneInt d.m (d.e + 149))
      else if 127 < x then BitVec.ofNat 32 (sg + 0x7F800000)
      else BitVec.ofNat 32 (sg + (x + 127).toNat * 2 ^ 23 + (q - 2 ^ 23))

/-- A BF16 result below 2^-126 after rounding is zero with its sign (03 Table 3.2). -/
def bf16Enc : Fp → Half
  | .nan => 0x7FC0
  | .inf s => if s then 0xFF80 else 0x7F80
  | .fin d =>
    let sg : Nat := b2n d.neg * 2 ^ 15
    if d.m = 0 then BitVec.ofNat 16 sg
    else
      let (q, x) := roundP 8 d.m d.e
      if x < -126 then BitVec.ofNat 16 sg
      else if 127 < x then BitVec.ofNat 16 (sg + 0x7F80)
      else BitVec.ofNat 16 (sg + (x + 127).toNat * 2 ^ 7 + (q - 2 ^ 7))

def Dy.toInt (d : Dy) (e : Int) : Int :=
  let v : Int := (d.m : Int) * (2 ^ (d.e - e).toNat : Nat)
  if d.neg then -v else v

/-- The exact sum; a sum of zero is +0 unless both operands are negative (IEEE 754, 03 Table 3.2). -/
def Dy.add (a b : Dy) : Dy :=
  let e := if a.e ≤ b.e then a.e else b.e
  let v := a.toInt e + b.toInt e
  if v = 0 then ⟨a.neg && b.neg, 0, 0⟩ else ⟨decide (v < 0), v.natAbs, e⟩

def Dy.mul (a b : Dy) : Dy := ⟨a.neg != b.neg, a.m * b.m, a.e + b.e⟩

def Fp.isNan : Fp → Bool
  | .nan => true
  | _ => false
def Fp.isInf : Fp → Bool
  | .inf _ => true
  | _ => false
def Fp.neg : Fp → Fp
  | .nan => .nan
  | .inf s => .inf (!s)
  | .fin d => .fin { d with neg := !d.neg }

def Fp.add : Fp → Fp → Fp
  | .nan, _ => .nan
  | _, .nan => .nan
  | .inf s, .inf t => if s = t then .inf s else .nan
  | .inf s, .fin _ => .inf s
  | .fin _, .inf t => .inf t
  | .fin a, .fin b => .fin (a.add b)

def Fp.mul : Fp → Fp → Fp
  | .nan, _ => .nan
  | _, .nan => .nan
  | .inf s, .inf t => .inf (s != t)
  | .inf s, .fin b => if b.m = 0 then .nan else .inf (s != b.neg)
  | .fin a, .inf t => if a.m = 0 then .nan else .inf (a.neg != t)
  | .fin a, .fin b => .fin (a.mul b)

/-- Three-way comparison; none with a NaN. -/
def Fp.cmp : Fp → Fp → Option Int
  | .nan, _ => none
  | _, .nan => none
  | .inf s, .inf t => some (if s = t then 0 else if s then -1 else 1)
  | .inf s, .fin _ => some (if s then -1 else 1)
  | .fin _, .inf t => some (if t then 1 else -1)
  | .fin a, .fin b =>
    let e := if a.e ≤ b.e then a.e else b.e
    let v := a.toInt e - b.toInt e
    some (if v < 0 then -1 else if v = 0 then 0 else 1)

/-- The value of an integer. -/
def dyOfInt (v : Int) : Dy := ⟨decide (v < 0), v.natAbs, 0⟩

end Sys2Proof.Machine
end

