-- ==== Sys2Proof/Machine/Lns.lean ====
section
/-! DEFINITION. LNS16 (05 R153 to R157, 07 R190 to R192). The tables sb and db are the exact corrections
rounded as R156 states, by integer roots and powers. -/

namespace Sys2Proof.Machine

/-- Newton steps toward ⌊√n⌋ from above. -/
def isqrtStep (n : Nat) : Nat → Nat → Nat
  | 0, x => x
  | k + 1, x =>
    let y := (x + n / x) / 2
    if x ≤ y then x else isqrtStep n k y

/-- ⌊√n⌋. -/
def isqrt (n : Nat) : Nat := if n = 0 then 0 else isqrtStep n 64 (2 ^ (n.log2 / 2 + 1))

/-- k square roots, each rounded down: ⌊n^(1/2^k)⌋. -/
def iroot2 : Nat → Nat → Nat
  | 0, n => n
  | k + 1, n => iroot2 k (isqrt n)

/-- ⌊2^80 × 2^(−d/512)⌋. -/
def pow2Neg (d : Nat) : Nat := iroot2 9 (2 ^ (40960 - d))

/-- 512 × log2 of (n / 2^80), rounded to nearest. -/
def log512 (n : Nat) : Int := ((bitLen (n ^ 1024) : Int) - 1 - 81920 + 1) / 2

/-- The correction tables (05 R156). -/
def sbTab (d : Nat) : Int := if d = 0 then 512 else if 5632 ≤ d then 0 else log512 (2 ^ 80 + pow2Neg d)
def dbTab (d : Nat) : Int := if 5632 ≤ d then 0 else log512 (2 ^ 80 - pow2Neg d)

/-- L of a code, and its parts (05 R153). -/
def lnsL (h : Half) : Int := ((h.setWidth 15 : BitVec 15)).toInt
def lnsNeg (h : Half) : Bool := bit h 15
def lnsZero (h : Half) : Bool := h &&& 0x7FFF = 0x4000

/-- A code of a sign and an L in range. -/
def lnsPack (neg : Bool) (l : Int) : Half :=
  (if neg then (0x8000 : Half) else 0) ||| ((BitVec.ofInt 15 l).setWidth 16)

/-- An LNS16 result with its counts: clamped at the largest magnitude, and domain error (07 R192). -/
structure LnsRes where
  code : Half
  sat  : Bool := false
  dom  : Bool := false
deriving DecidableEq, Repr

/-- Saturation and underflow (05 R154). -/
def lnsClamp (neg : Bool) (l : Int) : LnsRes :=
  if 16383 < l then ⟨lnsPack neg 16383, true, false⟩
  else if l < -16383 then ⟨0x4000, false, false⟩
  else ⟨lnsPack neg l, false, false⟩

/-- A zero code is never returned but as 0x4000. -/
def lnsCanon (a : Half) : Half := if lnsZero a then 0x4000 else a

def lnsMul (a b : Half) : LnsRes :=
  if lnsZero a || lnsZero b then ⟨0x4000, false, false⟩
  else lnsClamp (lnsNeg a != lnsNeg b) (lnsL a + lnsL b)

def lnsDiv (a b : Half) : LnsRes :=
  if lnsZero b then ⟨lnsPack (lnsNeg a != lnsNeg b) 16383, false, true⟩
  else if lnsZero a then ⟨0x4000, false, false⟩
  else lnsClamp (lnsNeg a != lnsNeg b) (lnsL a - lnsL b)

def lnsInv (a : Half) : Half := a ^^^ 0x8000

/-- LNS16 addition, step by step (05 R157). -/
def lnsAdd (a b : Half) : LnsRes :=
  if lnsZero a then ⟨lnsCanon b, false, false⟩
  else if lnsZero b then ⟨lnsCanon a, false, false⟩
  else
    let swap := decide (lnsL a < lnsL b) || (lnsL a = lnsL b && lnsNeg a && !lnsNeg b)
    let x := if swap then b else a
    let y := if swap then a else b
    let d := (lnsL x - lnsL y).toNat
    let same := lnsNeg x = lnsNeg y
    if !same && d = 0 then ⟨0x4000, false, false⟩
    else lnsClamp (lnsNeg x) (lnsL x + (if same then sbTab d else dbTab d))

/-- 1 / a. A zero has the result's sign bit from its own, as Table 7.2 states: R160 makes the two zeros equal as operands of
the other operations (07 R192; DEDUCED, log 71). -/
def lnsRecip (a : Half) : LnsRes :=
  if lnsZero a then ⟨lnsPack (lnsNeg a) 16383, false, true⟩ else ⟨lnsPack (lnsNeg a) (-lnsL a), false, false⟩

/-- v / 2 rounded to nearest, ties to even. -/
def half2 (v : Int) : Int := if v % 2 = 0 then v / 2 else if (v / 2) % 2 = 0 then v / 2 else v / 2 + 1

def lnsSqrt (a : Half) : LnsRes :=
  if lnsZero a then ⟨0x4000, false, false⟩
  else if lnsNeg a then ⟨0x4000, false, true⟩
  else ⟨lnsPack false (half2 (lnsL a)), false, false⟩

def lnsScale (a : Half) (s : Int) : LnsRes :=
  if lnsZero a then ⟨0x4000, false, false⟩ else lnsClamp (lnsNeg a) (lnsL a + 512 * s)

/-- The order of values: a key that grows with the value; both zeros are 0. -/
def lnsKey (a : Half) : Int :=
  if lnsZero a then 0 else if lnsNeg a then -(lnsL a + 16384) else lnsL a + 16384

def lnsMax (a b : Half) : Half := if lnsKey a < lnsKey b then lnsCanon b else lnsCanon a
def lnsMin (a b : Half) : Half := if lnsKey b < lnsKey a then lnsCanon b else lnsCanon a

/-- A finite value rounded in the log domain (05 R155). -/
def lnsOfDy (d : Dy) : LnsRes :=
  if d.m = 0 then ⟨0x4000, false, false⟩
  else lnsClamp d.neg ((((bitLen (d.m ^ 1024) : Int) - 1 + 1024 * d.e) + 1) / 2)

/-- LE_FROMFP (07 R192). -/
def lnsFromFp : Fp → LnsRes
  | .nan => ⟨0x4000, false, true⟩
  | .inf s => ⟨lnsPack s 16383, true, false⟩
  | .fin d => lnsOfDy d

/-- LE_FROMLIN: L = rne(512 × x) (07 Table 7.2, R192). -/
def lnsFromLin : Fp → LnsRes
  | .nan => ⟨0x4000, false, true⟩
  | .inf s => if s then ⟨0x4000, false, false⟩ else ⟨0x3FFF, true, false⟩
  | .fin d => lnsClamp false ({ d with e := d.e + 9 }.rne)

/-- LE_TOFP: the value of a code, exact enough to be rounded once (07 R191). -/
def lnsToFp (a : Half) : Fp :=
  if lnsZero a then .fin ⟨false, 0, 0⟩
  else
    let l := lnsL a
    let b := (l % 512).toNat
    let k := l / 512
    if b = 0 then .fin ⟨lnsNeg a, 1, k⟩
    else .fin ⟨lnsNeg a, 2 * iroot2 9 (2 ^ (20480 + b)) + 1, k - 41⟩

/-- LE_TOLIN (07 Table 7.2). -/
def lnsToLin (a : Half) : Fp :=
  if lnsZero a then .inf true else .fin { dyOfInt (lnsL a) with e := -9 }

end Sys2Proof.Machine
end

