-- ==== Sys2Proof/Machine/Cube.lean ====
section
/-! DEFINITION. The Cube Array (06 R161 to R182) with its formats (05 R139 to R152). -/

namespace Sys2Proof.Machine

/-! The precision word (05 Table 5.4). -/

def Prec.obits (p : Prec) : Nat := fld p.hi 31 28
def Prec.osign (p : Prec) : Bool := bit p.hi 27
def Prec.ofmt (p : Prec) : Nat := fld p.hi 26 24
def Prec.wenc (p : Prec) : Nat := fld p.lo 31 30
def Prec.wbits (p : Prec) : Nat := fld p.lo 29 27
def Prec.wsign (p : Prec) : Bool := bit p.lo 26
def Prec.abits (p : Prec) : Nat := fld p.lo 25 22
def Prec.asign (p : Prec) : Bool := bit p.lo 21
def Prec.zskip (p : Prec) : Bool := bit p.lo 20
def Prec.tset (p : Prec) : Bool := bit p.lo 19
def Prec.ashift (p : Prec) : Nat := fld p.lo 18 13
def Prec.scale (p : Prec) : Nat := fld p.lo 12 5
def Prec.book (p : Prec) : Bool := p.wenc = 1

/-- The precision word is refused (05 R148). -/
def Prec.refused (p : Prec) (transposed : Bool) : Bool :=
  decide (2 ≤ p.wenc) || decide (5 ≤ p.ofmt) || (p.book && decide (3 < p.wbits)) ||
  fld p.hi 23 0 ≠ 0 || fld p.lo 4 0 ≠ 0 || (p.tset && !p.book) || (transposed && p.book && !p.tset)

/-- Rows of a CA_STORE slot (06 Table 6.4). -/
def Prec.rs (p : Prec) : Nat :=
  match p.ofmt with
  | 0 => 4 * (p.obits + 1)
  | 1 => 128
  | 3 => 128
  | _ => 64

def caAgent (d : Nat) (tag : Word) : Agent := ⟨1, 1, BitVec.ofNat 8 d, tag⟩

/-- Reserved bits of a CA record are set (09 Table 9.3). -/
def caRecBad (r : Vector Word 8) : Bool :=
  r[3] ≠ 0 || extra r[4] 0x7FFFF || extra r[5] 0xFFFFF || r[6] ≠ 0 || r[7] ≠ 0

/-- A memory of rows laid end to end from byte a. -/
def memOfRows (a : Nat) (rs : List Row) : Mem :=
  (((rs.flatMap rowBytes).zipIdx).filter (fun e => e.1 ≠ 0)).map (fun e => (a + e.2, e.1))

/-- Rows written over a memory from byte a on. -/
def Mem.setRows (m : Mem) (a : Nat) (rs : List Row) : Mem :=
  m.filter (fun e => decide (e.1 < a)) ++ memOfRows a rs ++ m.filter (fun e => decide (a + 128 * rs.length ≤ e.1))

/-- The line that a stationary load reads in load cycle k (06 Table 6.2): into the planes (0), the column-axis tables (1) or
the row-axis tables (2), from which byte on, and its first row. -/
def loadLine (a0 a1 a2 planes : Nat) (book tset : Bool) (k : Nat) : Option (Nat × Nat × Nat) :=
  let b := k / 64
  let n := k % 64
  if n < planes then some (0, 32768 * n + 4096 * b, a0 + 256 * n + 32 * b)
  else
    let i := 96 * b + 32 * ((n - planes) % 3)
    if book && decide (n < planes + 3) then some (1, 128 * i, a1 + i)
    else if tset && decide (n < planes + 6) then some (2, 128 * i, a2 + i)
    else none

/-- A line of the tile or of its tables comes in (06 R168). -/
def Cube.putLine (c : Cube) (k byte : Nat) (rs : List Row) : Cube :=
  match k with
  | 0 => { c with tile := Mem.setRows c.tile byte rs }
  | 1 => { c with colTab := Mem.setRows c.colTab byte rs }
  | _ => { c with rowTab := Mem.setRows c.rowTab byte rs }

/-- One cycle of a CA_LOAD (06 R168). -/
def State.loadCc (s : State) (st : Fin 64) (a0 a1 a2 planes : Nat) (book tset : Bool) (o : Op) : State × Op :=
  match loadLine a0 a1 a2 planes book tset o.t with
  | none => (s, o.next o.work)
  | some (k, byte, row) =>
    let (s, rs) := s.readRows st o.ag .read [] (rowsFrom row 32)
    (s.modCa st (fun c => c.putLine k byte rs), o.next o.work)

/-- An operation that the array discards because it is busy (06 R166). -/
def State.caDrop (s : State) (st : Fin 64) : State :=
  (s.modCa st (fun x => { x with dropped := satAdd x.dropped 1 })).busyDrop st 1

/-- CA_LOAD (06 R163 to R168). In codebook mode WSIGN has no part in the tile; the register shows the precision word's bit
there (DESIGN CHOICE, log 61). -/
def execCaLoad (st : Fin 64) (w : Word) (s : State) : Answer :=
  .next (
    if !s.issues st then s
    else
      let (s, r) := s.record st w
      let (s, d) := s.descriptor st (fld r[4] 7 0)
      let k := (s.stl st).seq.iter (slotLsel w)
      let p : Prec := ⟨d[2], d[3]⟩
      let planes := p.wbits + 1
      let a0 := effAddr r[0] k
      let a1 := effAddr r[1] k
      let a2 := effAddr r[2] k
      match firstFault [(slotBad w || caRecBad r, fcReservedBit), (fld d[0] 31 28 ≠ 1, fcDescriptor),
          (p.refused false, fcPrecision),
          (outRange a0 (256 * planes) || (p.book && outRange a1 768) || (p.tset && outRange a2 768), fcAddrRange),
          (a0 % 32 ≠ 0 || (p.book && a1 % 32 ≠ 0) || (p.tset && a2 % 32 ≠ 0), fcAlign)] with
      | some f => s.bundleFault st 1 f
      | none =>
        if (s.stl st).busy 1 then s.caDrop st
        else
          let ag := caAgent (fld r[4] 7 0) d[15]
          let s := s.modCa st (fun x => { x with
            loading := true, valid := false, tset := p.tset, wenc := p.book,
            wbits := BitVec.ofNat 3 p.wbits, wsign := p.wsign, tileRow := BitVec.ofNat 19 a0.toNat })
          s.startOp st (fun s o => s.loadCc st a0.toNat a1.toNat a2.toNat planes p.book p.tset o)
            { ag := ag, dst := ag, opc := 1, t := 0, busy := 512, len := 512,
              work := .load a0.toNat a1.toNat a2.toNat planes p.book p.tset })

/-- CA_LOAD_COMPLETE: the load's 512 schedule cycles have passed and the tile is in place (06 R165, R167). -/
def execCaLoadComplete (st : Fin 64) (s : State) : Answer :=
  .next (
    if (s.stl st).ca.loading && !((s.stl st).ops.any Op.isLoad) then
      s.modCa st (fun x => { x with loading := false, valid := true })
    else s)

/-- Bit p of element (i, j) of a bit-planed tile (05 Table 5.2). -/
def tileBit (m : Mem) (p i j : Nat) : Nat := b2n ((m.rd (32768 * p + 64 * i + j / 8)).getLsbD (j % 8))

/-- The index that element (i, j) holds, of n bits. -/
def tileIdx (m : Mem) (n i j : Nat) : Nat := (List.range n).foldl (fun v p => v + 2 ^ p * tileBit m p i j) 0

/-- Nibble n of entry e of group g for column j (05 Table 5.3). -/
def tabNibble (m : Mem) (g e n j : Nat) : Nat :=
  let b := m.rd (128 * (((g * 16 + e) * 3 + n) * 2 + j / 256) + (j % 256) / 2)
  if j % 2 = 0 then fld b 3 0 else fld b 7 4

/-- The gated weight of pass n for input x and output o (06 Table 6.3): a weight bit, or a table nibble
(05 R143), of which nibble 2 is signed. A transposed read exchanges the roles (06 R177). -/
def Cube.gate (c : Cube) (transposed : Bool) (n x o : Nat) : Int :=
  let i := if transposed then o else x
  let j := if transposed then x else o
  if c.wenc then
    let e := tileIdx c.tile (c.wbits.toNat + 1) i j
    let v := if transposed then tabNibble c.rowTab (j / 64) e n i else tabNibble c.colTab (i / 64) e n j
    if n = 2 && 8 ≤ v then (v : Int) - 16 else (v : Int)
  else (tileBit c.tile n i j : Int)

/-- The factor of pass (q, n) (06 Table 6.3). -/
def Cube.factor (c : Cube) (asign : Bool) (abits q n : Nat) : Int :=
  let sq : Int := if asign && q = abits then -1 else 1
  if c.wenc then sq * (2 ^ (q + 4 * n) : Nat)
  else sq * (if c.wsign && n = c.wbits.toNat then -1 else 1) * (2 ^ (q + n) : Nat)

/-- A sum added to an accumulator in one pass; saturation is sticky (06 R171). -/
def Acc.add (a : Acc) (v : Int) : Acc :=
  if a.sat then a
  else
    let x := a.v.toInt + v
    let y := clampI x (-(2 ^ 39 : Nat)) ((2 ^ 39 : Nat) - 1)
    ⟨BitVec.ofInt 40 y, x ≠ y⟩

/-- Bit q of token t, input i of an activation tile (05 Table 5.2). -/
def actBit (m : Mem) (q t i : Nat) : Bool := (m.rd (512 * q + 64 * t + i / 8)).getLsbD (i % 8)

/-- The inputs of token t that plane q has at 1. -/
def actOnes (m : Mem) (q t : Nat) : List Nat := (List.range 512).filter (fun i => actBit m q t i)

/-- The planes of an activation tile with at least one bit at 1 (06 R174). -/
def livePlanes (m : Mem) (abits : Nat) : List Nat :=
  (List.range (abits + 1)).filter (fun q => m.any (fun e => decide (512 * q ≤ e.1) && decide (e.1 < 512 * q + 512)))

/-- A slot set to 0 (06 R170). -/
def Cube.clearSlot (c : Cube) (slot : Nat) : Cube := { c with acc := Tab.clear c.acc (4096 * slot) 4096 }

/-- One pass (q, n) into a slot (06 Table 6.3, R171): its contribution is added to every accumulator of the slot. -/
def Cube.pass (c : Cube) (transposed asign : Bool) (abits : Nat) (act : Mem) (slot q n : Nat) : Cube :=
  let f := c.factor asign abits q n
  let cells := (List.range 8).flatMap (fun t =>
    let on := actOnes act q t
    (List.range 512).map (fun o =>
      let k := 4096 * slot + 512 * t + o
      let old := Tab.getD c.acc k ⟨0, false⟩
      (k, old, old.add (f * on.foldl (fun v x => v + c.gate transposed n x o) 0))))
  let fresh := (cells.filter (fun e => e.2.2.sat && !e.2.1.sat)).length
  let new := (cells.filter (fun e => e.2.2 ≠ ⟨0, false⟩)).map (fun e => (e.1, e.2.2))
  { c with
    acc := c.acc.filter (fun e => e.1 < 4096 * slot) ++ new ++ c.acc.filter (fun e => 4096 * slot + 4096 ≤ e.1),
    accSat := satAdd c.accSat fresh }

/-- The slots from one on, as a mask. -/
def slotMask (slot n : Nat) : Word := (List.range n).foldl (fun m i => m ||| ((1 : Word) <<< ((slot + i) % 32))) 0

/-- A pass of every pair (q, n) of the planes given takes place in the order of Table 6.3; these are the ones from number
`lo` to before `hi`. -/
def Cube.passes (c : Cube) (p : Prec) (transposed : Bool) (act : Mem) (slot : Nat) (planes : List Nat) (per lo hi : Nat) : Cube :=
  ((List.range hi).drop lo).foldl (fun c i => c.pass transposed p.asign p.abits act slot (planes.getD (i / per) 0) (i % per)) c

/-- One cycle of a CA_RUN or a CA_RUNT (06 R170, R174, R177). In cycle j of a step its rows 32j to 32j + 31 are read, and
the first j + 1 passes are done as far as their planes have been read: the spec fixes the reads, the order of the passes and
the length of the step (DESIGN CHOICE, log 61). -/
def State.runCaCc (s : State) (st : Fin 64) (p : Prec) (transposed add : Bool) (base slot steps step cyc passes : Nat)
    (act : List Row) (o : Op) : State × Op :=
  let a := p.abits + 1
  let per := if p.book then 3 else p.wbits + 1
  let sl := (slot + step) % 32
  let last := ceilDiv a 8
  let (s, rs) := s.readRows st o.ag .read [] (rowsFrom (base + 4 * a * step + 32 * cyc) (min 32 (4 * a - 32 * cyc)))
  let act := act ++ rs
  let m := memOfRows 0 act
  let planes := (livePlanes m p.abits).filter (fun q => decide (q < act.length / 4))
  let planes := if p.zskip then planes else List.range (act.length / 4)
  let all := planes.length * per
  let upto := min (cyc + 1) all
  let s := s.modCa st (fun c =>
    let c := if cyc = 0 && !add then c.clearSlot sl else c
    let c := c.passes p transposed m sl planes per passes upto
    if p.zskip && cyc + 1 = last then { c with zskip := satAdd c.zskip (a - planes.length) } else c)
  if last ≤ cyc + 1 && all ≤ cyc + 1 then
    let len := if step + 1 = steps then o.t + 1 else o.t + 2
    (s, { o with t := o.t + 1, busy := len, len := len,
                 work := .run p transposed add base slot steps (step + 1) 0 0 [] })
  else
    (s, { o with t := o.t + 1, busy := o.t + 2, len := o.t + 2,
                 work := .run p transposed add base slot steps step (cyc + 1) upto act })

/-- The detector's view of an operation that reads slots which a zero-skip run guards (02 Table 2.2, kind 0x04; 06 R176). -/
def State.hzSlots (s : State) (st : Fin 64) (mask : Word) : State :=
  match (s.stl st).ca.guarded with
  | some (c, m) => if m &&& mask ≠ 0 && decide (s.schedOf st < c + s.horizonOf st) then s.breach st 0x04 1 0 0 else s
  | none => s

/-- A zero-skip run's budget and what its implicit hold point guards (06 R175). -/
def Cube.budget (c : Cube) (sched b : Nat) (mask : Word) : Cube :=
  { c with zs := some ⟨b, false⟩, guarded := some (sched + b, mask) }

/-- CA_RUN and CA_RUNT (06 R163 to R177). -/
def State.caRun (s : State) (st : Fin 64) (w : Word) (transposed : Bool) : State :=
  if !s.issues st then s
  else
    let (s, r) := s.record st w
    let (s, d) := s.descriptor st (fld r[4] 7 0)
    let k := (s.stl st).seq.iter (slotLsel w)
    let p : Prec := ⟨d[2], d[3]⟩
    let n := fld r[4] 17 13 + 1
    let a0 := effAddr r[0] k
    let b := fld r[5] 19 0
    let x := (s.stl st).ca
    match firstFault [(slotBad w || caRecBad r, fcReservedBit), (p.zskip && b = 0, fcOperand),
        (fld d[0] 31 28 ≠ 1, fcDescriptor), (p.refused transposed, fcPrecision),
        (outRange a0 (4 * (p.abits + 1) * n), fcAddrRange), (a0 % 4 ≠ 0, fcAlign)] with
    | some f => s.bundleFault st 1 f
    | none =>
      if (s.stl st).busy 1 then s.caDrop st
      else if !x.valid || x.wenc != p.book || x.wbits.toNat ≠ p.wbits || x.tset != p.tset ||
          (!p.book && x.wsign != p.wsign) then s.bundleFault st 1 fcTile
      else
        let ag := caAgent (fld r[4] 7 0) d[15]
        let slot := fld r[4] 12 8
        let add := bit r[4] 18
        let mask := slotMask slot n
        let s := if add then s.hzSlots st mask else s
        let s := s.modCa st (fun x =>
          let x := { x with live := x.live ||| mask }
          if p.zskip then x.budget (s.schedOf st) b mask else x)
        let s := s.startOp st (fun s o => s.runCaCc st p transposed add a0.toNat slot n 0 0 0 [] o)
          { ag := ag, dst := ag, opc := if transposed then 3 else 2, t := 0, busy := 1, len := 1,
            work := .run p transposed add a0.toNat slot n 0 0 0 [] }
        match p.zskip, s.owner st with
        | true, some q => s.modDisp q (fun d => { d with zskip := true })
        | _, _ => s

/-- CA_RUN (06 R170). -/
def execCaRun (st : Fin 64) (w : Word) (s : State) : Answer := .next (s.caRun st w false)

/-- CA_RUNT: the transposed read (06 R177). -/
def execCaRunt (st : Fin 64) (w : Word) (s : State) : Answer := .next (s.caRun st w true)

/-- Requantization of one accumulator into its bits (05 R151): the element and whether it saturated. -/
def requant (p : Prec) (sc : Word) (acc : Int) : Nat × Bool :=
  let v := acc * (fld sc 31 16 : Int)
  let d : Dy := ⟨decide (v < 0), v.natAbs, -(p.ashift : Int)⟩
  let z := (BitVec.ofNat 16 (fld sc 15 0)).toInt
  match p.ofmt with
  | 0 =>
    let x := d.rne + z
    let y := if p.osign then clampI x (-(2 ^ p.obits : Nat)) ((2 ^ p.obits : Nat) - 1)
      else clampI x 0 ((2 ^ (p.obits + 1) : Nat) - 1)
    ((BitVec.ofInt 16 y).toNat, x ≠ y)
  | 1 => let x := d.rne + z; ((BitVec.ofInt 32 (satS 32 x)).toNat, x ≠ satS 32 x)
  | 2 => ((bf16Enc (.fin d)).toNat, false)
  | 3 => ((fp32Enc (.fin d)).toNat, false)
  | _ => let r := lnsOfDy d; (r.code.toNat, r.sat)

/-- n bit planes of the 4,096 elements of an activation tile (05 Table 5.2). -/
def planeBytes (n : Nat) (vs : Array Nat) : List Byte :=
  (List.range n).flatMap (fun q => (List.range 512).map (fun b =>
    BitVec.ofNat 8 ((List.range 8).foldl (fun x i => x + 2 ^ i * (vs.getD (8 * b + i) 0 / 2 ^ q % 2)) 0)))

/-- The bytes of one slot's outputs (05 Table 5.5): bit planes, 4-byte or 2-byte elements. -/
def slotBytes (p : Prec) (vs : List Nat) : List Byte :=
  match p.ofmt with
  | 0 => planeBytes (p.obits + 1) vs.toArray
  | 1 => vs.flatMap (natBytes 4)
  | 3 => vs.flatMap (natBytes 4)
  | _ => vs.flatMap (natBytes 2)

/-- The outputs of the slots of a store, slot by slot, and how many saturated. -/
def Cube.outputs (c : Cube) (p : Prec) (slot m : Nat) : List Byte × Nat :=
  let sc := c.scale[fin 255 p.scale]
  let one (k : Nat) : List (Nat × Bool) := (List.range 4096).map (fun i =>
    requant p sc (Tab.getD c.acc (4096 * ((slot + k) % 32) + i) ⟨0, false⟩).v.toInt)
  let all := (List.range m).map one
  (all.flatMap (fun l => slotBytes p (l.map (·.1))), ((all.flatMap id).filter (·.2)).length)

/-- One cycle of a CA_STORE: 32 consecutive rows (06 R173). -/
def State.storeCc (s : State) (st : Fin 64) (base : Nat) (rows : List Row) (o : Op) : State × Op :=
  (s.writeRows st o.dst (base + 32 * o.t) ((rows.drop (32 * o.t)).take 32), o.next o.work)

/-- CA_STORE (06 R173): no other operation of the array changes an accumulator while it lasts, so that its outputs are
formed at its issue. -/
def execCaStore (st : Fin 64) (w : Word) (s : State) : Answer :=
  .next (
    if !s.issues st then s
    else
      let (s, r) := s.record st w
      let (s, d) := s.descriptor st (fld r[4] 7 0)
      let k := (s.stl st).seq.iter (slotLsel w)
      let p : Prec := ⟨d[2], d[3]⟩
      let m := fld r[4] 17 13 + 1
      let a0 := effAddr r[0] k
      match firstFault [(slotBad w || caRecBad r, fcReservedBit), (fld d[0] 31 28 ≠ 1, fcDescriptor),
          (p.refused false, fcPrecision), (outRange a0 (m * p.rs), fcAddrRange),
          (p.ofmt = 0 && a0 % 4 ≠ 0, fcAlign)] with
      | some f => s.bundleFault st 1 f
      | none =>
        if (s.stl st).busy 1 then s.caDrop st
        else
          let slot := fld r[4] 12 8
          let (bs, sat) := (s.stl st).ca.outputs p slot m
          let rows := rowsOf (m * p.rs) (bytesWords bs)
          let s := (s.hzSlots st (slotMask slot m)).modCa st (fun x => { x with
            live := x.live &&& ~~~(slotMask slot m), reqSat := satAdd x.reqSat sat })
          let n := ceilDiv (m * p.rs) 32
          let ag := caAgent (fld r[4] 7 0) d[15]
          s.startOp st (fun s o => s.storeCc st a0.toNat rows o)
            { ag := ag, dst := ag, opc := 4, t := 0, busy := n, len := n, work := .store a0.toNat rows })

/-- ZERO_SKIP_BUDGET_END: in schedule cycle c + B a run that has not ended raises Hold (06 R175, 09 R241). Before that cycle
it does nothing. -/
def execZeroSkipBudgetEnd (st : Fin 64) (s : State) : Answer :=
  let x := s.stl st
  .next (
    match x.ca.zs, s.running st with
    | some z, some (p, _) =>
      if z.left ≠ 0 || z.raised || !(x.ops.any Op.isRun) then s
      else
        let s := s.modCa st (fun c => { c with overrun := satAdd c.overrun 1 })
        if 16 ≤ x.seq.outstanding then
          (s.modCa st (fun c => { c with zs := none })).bundleFault st 1 fcHoldFull
        else (s.modCa st (fun c => { c with zs := some { z with raised := true } })).raiseHold st p none
    | _, _ => s)

/-- The Hold of a zero-skip run is outstanding. -/
def RaisedHold.isRun (h : RaisedHold) : Bool := h.wait.isNone && h.released.isNone

/-- ZERO_SKIP_RUN_COMPLETE: the cycle after the run's last pass: a Hold that it has raised, and that no step fault has
discarded, is released (02 R50, R64). -/
def execZeroSkipRunComplete (st : Fin 64) (s : State) : Answer :=
  let x := s.stl st
  .next (
    match x.ca.zs with
    | none => s
    | some _ =>
      if x.ops.any Op.isRun then s
      else
        let s := s.modCa st (fun c => { c with zs := none })
        match s.running st with
        | some (p, _) =>
          if x.seq.holds.any RaisedHold.isRun then
            (s.modSeq st (fun q => { q with holds := releaseHold (fun h => h.wait.isNone) s.cycle q.holds })).mark p s.cycle false
          else s
        | none => s)

end Sys2Proof.Machine
end

