-- ==== Sys2Proof/Machine/Layout.lean ====
section
/-! DEFINITION. Tensor descriptors, local layouts and the Layout Engine (08 R206 to R229). -/

namespace Sys2Proof.Machine

/-- A tensor descriptor as read from the descriptor file (08 Table 8.1). -/
abbrev Desc := Vector Word 16

def Desc.efmt (d : Desc) : Nat := fld d[0] 27 25
def Desc.rank (d : Desc) : Nat := fld d[0] 24 22
def Desc.base (d : Desc) : Nat := fld d[0] 18 0
def Desc.padv (d : Desc) : Word := d[1]
def Desc.gshape (d : Desc) (k : Nat) : Nat := d[fin 15 (4 + k)].toNat
/-- The shard field of a dimension (08 Table 8.2). -/
def Desc.shard (d : Desc) (k : Nat) : Half :=
  BitVec.ofNat 16 (fld d[fin 15 (10 + k / 2)] (16 * (k % 2) + 15) (16 * (k % 2)))
def Desc.mode (d : Desc) (k : Nat) : Nat := fld (d.shard k) 15 14
def Desc.axis (d : Desc) (k : Nat) : Nat := fld (d.shard k) 13 11
def Desc.blk (d : Desc) (k : Nat) : Nat := fld (d.shard k) 10 6
def Desc.tlog (d : Desc) (k : Nat) : Nat := fld (d.shard k) 5 2
/-- The dimension at local position s. -/
def Desc.order (d : Desc) (s : Nat) : Nat := fld d[13] (3 * s + 2) (3 * s)
def Desc.localRows (d : Desc) : Nat := fld d[14] 18 0
def Desc.tag (d : Desc) : Word := d[15]

/-- The element size in bytes (08 Table 8.1). -/
def Desc.es (d : Desc) : Nat :=
  match d.efmt with
  | 1 => 4
  | 3 => 4
  | 5 => 1
  | _ => 2

/-- The partition mesh: SIZE and this Stall's coordinate of each axis (08 R208). -/
abbrev Mesh := Vector (Half × Half) 6

def Mesh.size (m : Mesh) (a : Nat) : Nat := m[fin 5 a].1.toNat
def Mesh.coord (m : Mesh) (a : Nat) : Nat := m[fin 5 a].2.toNat

/-- The local extent L of a dimension (08 Table 8.3). -/
def Desc.extent (d : Desc) (m : Mesh) (k : Nat) : Nat :=
  let g := d.gshape k
  let p := m.size (d.axis k)
  match d.mode k with
  | 0 => g
  | 1 => ceilDiv g p
  | 2 => ceilDiv g p
  | _ => ceilDiv (ceilDiv g (2 ^ d.blk k)) p * 2 ^ d.blk k

/-- The allocated extent: L rounded up to whole tiles (08 R211). -/
def Desc.alloc (d : Desc) (m : Mesh) (k : Nat) : Nat :=
  ceilDiv (d.extent m k) (2 ^ d.tlog k) * 2 ^ d.tlog k

/-- The dimensions of a descriptor. -/
def Desc.dims (d : Desc) : List Nat := List.range (d.rank + 1)

def prodOf (l : List Nat) : Nat := l.foldl (· * ·) 1

/-- rows(D) (08 R212). -/
def Desc.rows (d : Desc) (m : Mesh) : Nat := ceilDiv (prodOf (d.dims.map (d.alloc m)) * d.es) 128

/-- The innermost run in bytes (08 R212). -/
def Desc.run (d : Desc) (m : Mesh) : Nat :=
  let k := d.order 0
  if d.tlog k ≠ 0 then 2 ^ d.tlog k * d.es else d.alloc m k * d.es

/-- The owning coordinate of a global index, and its local index (08 Table 8.3). -/
def Desc.owner (d : Desc) (m : Mesh) (k g : Nat) : Nat × Nat :=
  let p := m.size (d.axis k)
  let b := 2 ^ d.blk k
  let bb := ceilDiv (d.gshape k) p
  match d.mode k with
  | 0 => (m.coord (d.axis k), g)
  | 1 => (g / bb, g % bb)
  | 2 => (g % p, g / p)
  | _ => (g / b % p, g / b / p * b + g % b)

/-- A local position of a dimension that some global index maps to on this Stall (08 R210). -/
def Desc.real (d : Desc) (m : Mesh) (k l : Nat) : Bool :=
  let p := m.size (d.axis k)
  let c := m.coord (d.axis k)
  let b := 2 ^ d.blk k
  let g := match d.mode k with
    | 0 => l
    | 1 => c * ceilDiv (d.gshape k) p + l
    | 2 => l * p + c
    | _ => (l / b * p + c) * b + l % b
  decide (l < d.extent m k) && decide (g < d.gshape k)

/-- The element offset of a local index, its dimensions in a list (08 R211). -/
def Desc.offset (d : Desc) (m : Mesh) (l : List Nat) : Nat :=
  let r := d.dims.foldl (fun (e : Nat × Nat × Nat × Nat) s =>
    let k := d.order s
    let t := 2 ^ d.tlog k
    let x := l.getD k 0
    (e.1 + x % t * e.2.2.1, e.2.1 + x / t * e.2.2.2, e.2.2.1 * t, e.2.2.2 * (d.alloc m k / t))) (0, 0, 1, 1)
  r.2.1 * r.2.2.1 + r.1

/-- The local index of an element offset. -/
def Desc.index (d : Desc) (m : Mesh) (off : Nat) : List Nat :=
  let tile := prodOf (d.dims.map (fun k => 2 ^ d.tlog k))
  let r := d.dims.foldl (fun (e : Nat × Nat × List Nat) s =>
    let k := d.order s
    let t := 2 ^ d.tlog k
    let n := d.alloc m k / t
    (e.1 / t, e.2.1 / n, e.2.2.set k (e.1 % t + t * (e.2.1 % n)))) (off % tile, off / tile, List.replicate 6 0)
  r.2.2

/-- The dimensions at slots 0 to RANK are those from 0 to RANK, and the slots above hold 0. -/
def Desc.orderOk (d : Desc) : Bool :=
  d.dims.all (fun k => (d.dims.filter (fun s => d.order s = k)).length = 1) &&
  (List.range 6).all (fun s => decide (s ≤ d.rank) || d.order s = 0)

/-- Two dimensions name one mesh axis. -/
def Desc.axisTwice (d : Desc) : Bool :=
  d.dims.any (fun i => d.dims.any (fun j => i ≠ j && d.mode i ≠ 0 && d.mode j ≠ 0 && d.axis i = d.axis j))

/-- The checks that a Layout Engine operation makes on a descriptor it names (08 R220). -/
def Desc.bad (d : Desc) (m : Mesh) : Bool :=
  fld d[0] 31 28 ≠ 1 || d.efmt = 0 || d.efmt = 7 || decide (5 < d.rank) ||
  (List.range 6).any (fun k => (d.mode k ≠ 0 && decide (5 < d.axis k)) || decide (10 < d.tlog k) ||
    fld (d.shard k) 1 0 ≠ 0) ||
  fld d[0] 21 19 ≠ 0 || fld d[13] 31 18 ≠ 0 || fld d[14] 31 19 ≠ 0 || !d.orderOk ||
  (List.range 6).any (fun k => (decide (k ≤ d.rank) && d.gshape k = 0) || (decide (d.rank < k) && d.gshape k ≠ 0)) ||
  d.axisTwice || decide (d.localRows < d.rows m)

/-- Two descriptors that LT_MOVE accepts together (08 R222). -/
def Desc.fits (s d : Desc) : Bool :=
  s.rank = d.rank && s.es = d.es &&
  d.dims.all (fun k => s.gshape k = d.gshape k && s.mode k = d.mode k && s.axis k = d.axis k && s.blk k = d.blk k)

/-- The paths of LT_MOVE. -/
inductive MovePath where
  | row
  | line
  | tile
deriving DecidableEq, Repr

/-- The tile path's requirements (08 R225). -/
def tilePathOk (s d : Desc) (m : Mesh) : Bool :=
  let a := s.order 0
  let b := s.order 1
  decide (1 ≤ s.rank) && d.order 0 = b && d.order 1 = a &&
  (List.range 6).all (fun i => decide (i < 2) || s.order i = d.order i) &&
  s.dims.all (fun k => s.tlog k = 0 && (k = a || d.tlog k = 0)) &&
  d.tlog a = (if s.es = 4 then 0 else if s.es = 2 then 1 else 2) &&
  s.alloc m a * s.es % 128 = 0 && d.alloc m a * d.es % 128 = 0 && s.alloc m b % 32 = 0 && d.alloc m b % 32 = 0

/-- The path that an LT_MOVE takes (08 R223 to R225). -/
def movePath (s d : Desc) (m : Mesh) : Option MovePath :=
  let rowOk := s.order 0 = d.order 0 && s.run m % 128 = 0 && d.run m % 128 = 0
  if rowOk && s.run m % 4096 = 0 && d.run m % 4096 = 0 && s.base % 32 = 0 && d.base % 32 = 0 then some .line
  else if rowOk then some .row
  else if tilePathOk s d m then some .tile
  else none

/-- PADV as an element, and as a row. -/
def Desc.padElem (d : Desc) : Nat := d.padv.toNat % 2 ^ (8 * d.es)
def Desc.padRow (d : Desc) : Row :=
  Vector.replicate 32 (match d.es with
    | 4 => d.padv
    | 2 => BitVec.ofNat 32 (d.padElem * 0x10001)
    | _ => BitVec.ofNat 32 (d.padElem * 0x1010101))

/-- Row r of D with PADV at its padding positions (08 R222). -/
def Desc.padded (d : Desc) (m : Mesh) (r : Nat) (src : Row) : Row :=
  let per := 128 / d.es
  let n := prodOf (d.dims.map (d.alloc m))
  let real := (List.range per).map (fun i =>
    let off := per * r + i
    let l := d.index m off
    decide (off < n) && d.dims.all (fun k => d.real m k (l.getD k 0)))
  let pad := rowBytes d.padRow
  let bytes := ((rowBytes src).zip pad).zipIdx.map (fun e => if real.getD (e.2 / d.es) false then e.1.1 else e.1.2)
  rowOf (bytesWords bytes)

/-- The row of S that holds the first position of row r of D, where S allocates it. -/
def srcRow (s d : Desc) (m : Mesh) (r : Nat) : Option Nat :=
  let l := d.index m (128 / d.es * r)
  if s.dims.all (fun k => decide (l.getD k 0 < s.alloc m k)) then some (s.base + s.offset m l * s.es / 128) else none

/-- An engine's accesses under a descriptor it named. -/
def teAgent (x : Nat) (d : Desc) : Agent := ⟨4, 4, BitVec.ofNat 8 x, d.tag⟩

/-- Rows read in one cycle, with a zero row where none is named. -/
def State.readSome (s : State) (st : Fin 64) (ag : Agent) (l : List (Option Nat)) : State × List Row :=
  let (s, rs) := s.readRows st ag .read [] (l.filterMap id)
  (s, (l.foldl (fun (e : List Row × List Row) x => match x with
    | none => (e.1 ++ [Row.zero], e.2)
    | some _ => (e.1 ++ [e.2.headD Row.zero], e.2.tail)) ([], rs)).1)

/-- One cycle of an LT_MOVE by the row path (w 1) or the line path (w 32): what was read two cycles before is written, then
the next source rows are read (08 R223, R224). -/
def State.moveRowsCc (s : State) (st : Fin 64) (sd dd : Desc) (w : Nat) (q : List (List Row)) (o : Op) : State × Op :=
  let m := (s.stl st).xl.mesh
  let (s, q) := if o.t < 2 then (s, q)
    else (s.writeRows st o.dst (dd.base + w * (o.t - 2))
      ((q.headD []).zipIdx.map (fun e => dd.padded m (w * (o.t - 2) + e.2) e.1)), q.tail)
  if o.t < ceilDiv (dd.rows m) w then
    let (s, rs) := s.readSome st o.ag ((List.range w).map (fun i => srcRow sd dd m (w * o.t + i)))
    (s, o.next (.moveRows sd dd w (q ++ [rs])))
  else (s, o.next (.moveRows sd dd w q))

/-- The blocks of a tile-path move in D's row order, with the rows of S and of D of each (08 R225). -/
def tileBlock (sd : Desc) (m : Mesh) (j : Nat) : List Nat × List Nat :=
  let a := sd.order 0
  let b := sd.order 1
  let aw := sd.alloc m a * sd.es / 4
  let nb := sd.alloc m b / 32
  let plane := nb * (aw / 32)
  let o := j / plane
  let ab := j % plane / nb
  let bb := j % nb
  let per := sd.alloc m a * sd.es / 128 * sd.alloc m b
  ((List.range 32).map (fun i => sd.base + o * per + (32 * bb + i) * (aw / 32) + ab),
   (List.range 32).map (fun i => o * per + (32 * ab + i) * nb + bb))

/-- A row of the transpose tile. -/
def Layout.tileRow (x : Layout) (i : Nat) (r : Row) : Layout :=
  { x with xtile := (List.finRange 32).foldl (fun t w => Tab.set t (32 * i + w.val) r[w]) x.xtile }

/-- One cycle of an LT_MOVE by the tile path: one row out and one row in through the transpose tile (08 R225). -/
def State.moveTilesCc (s : State) (st : Fin 64) (sd dd : Desc) (old cur : List Row) (o : Op) : State × Op :=
  let m := (s.stl st).xl.mesh
  let j := o.t / 32
  let i := o.t % 32
  let s := if j = 0 then s
    else
      let r := (tileBlock sd m (j - 1)).2.getD i 0
      let row : Row := Vector.ofFn (fun w : Fin 32 => (old.getD w.val Row.zero)[fin 31 i])
      s.writeRow st o.dst (dd.base + r) (dd.padded m r row) 0xFFFFFFFF
  if j < dd.rows m / 32 then
    let (s, rs) := s.readRows st o.ag .read [] [(tileBlock sd m j).1.getD i 0]
    let cur := cur ++ rs
    let s := s.modStl st (fun x => { x with te := x.te.tileRow i (rs.headD Row.zero) })
    (s, o.next (if i = 31 then .moveTiles sd dd cur [] else .moveTiles sd dd old cur))
  else (s, o.next (.moveTiles sd dd old cur))

/-- The fields of a TE record (09 Table 9.3). -/
def teRecBad (r : Vector Word 8) : Bool :=
  r[2] ≠ 0 || r[3] ≠ 0 || extra r[4] 0x0FFFFFFF || r[5] ≠ 0 || r[6] ≠ 0 || r[7] ≠ 0

/-- A Layout Engine operation past its encoding checks: discarded while the engine is busy (08 R221), else issued with its
cost. -/
def State.teRun (s : State) (st : Fin 64) (opc : Byte) (tile : Bool) (cost : Nat) (ag dst : Agent)
    (cc : State → Op → State × Op) (w : Work) : State :=
  if (s.stl st).busy 4 then
    (s.modStl st (fun x => { x with te := { x.te with dropped := satAdd x.te.dropped 1 } })).busyDrop st 4
  else
    (s.modStl st (fun x => { x with te := { x.te with tilePath := tile, opc := opc } })).startOp st cc
      { ag := ag, dst := dst, opc := opc, t := 0, busy := cost, len := cost, work := w }

/-- A descriptor that an operation names, read at issue. -/
def State.tensor (s : State) (st : Fin 64) (x : Nat) : State × Desc := s.descriptor st x

/-- LT_MOVE (08 R222 to R225). -/
def execLtMove (st : Fin 64) (w : Word) (s : State) : Answer :=
  .next (
    if !s.issues st then s
    else
      let (s, r) := s.record st w
      let si := fld r[4] 7 0
      let di := fld r[4] 15 8
      let (s, sd) := s.tensor st si
      let (s, dd) := s.tensor st di
      let m := (s.stl st).xl.mesh
      let path := movePath sd dd m
      match firstFault [(slotBad w || teRecBad r, fcReservedBit),
          (sd.bad m || dd.bad m || !sd.fits dd || path.isNone, fcDescriptor),
          (outRange sd.base (sd.rows m) || outRange dd.base (dd.rows m), fcAddrRange)] with
      | some f => s.bundleFault st 4 f
      | none =>
        let sa := teAgent si sd
        let da := teAgent di dd
        let n := dd.rows m
        match path with
        | none => s
        | some .row => s.teRun st 1 false (n + 2) sa da (fun s o => s.moveRowsCc st sd dd 1 [] o) (.moveRows sd dd 1 [])
        | some .line =>
          s.teRun st 1 false (n / 32 + 2) sa da (fun s o => s.moveRowsCc st sd dd 32 [] o) (.moveRows sd dd 32 [])
        | some .tile =>
          s.teRun st 1 true (n + 32) sa da (fun s o => s.moveTilesCc st sd dd [] [] o) (.moveTiles sd dd [] []))

/-- The slice of one index of dimension 0, in rows, where T is a table (08 R226). -/
def Desc.slice (d : Desc) (m : Mesh) : Option Nat :=
  let bytes := prodOf ((d.dims.drop 1).map (d.alloc m)) * d.es
  if d.order d.rank = 0 && d.tlog 0 = 0 && bytes % 128 = 0 then some (bytes / 128) else none

/-- The local index of a global index that this Stall owns (08 R209, R226). -/
def Desc.mine (d : Desc) (m : Mesh) (g : Int) : Option Nat :=
  if 0 ≤ g ∧ g < (d.gshape 0 : Int) then
    let (c, l) := d.owner m 0 g.toNat
    if d.mode 0 = 0 || c = m.coord (d.axis 0) then some l else none
  else none

/-- The slice rows of cycle u of the slices: which index, and which of its rows come first. -/
def sliceAt (rs w u : Nat) : Nat × Nat := (u / (rs / w), w * (u % (rs / w)))

/-- One cycle of a gather or a scatter: index rows first, one a cycle; then the slices in order, each row read two cycles
before it is written (08 R226, R227). -/
def State.gatherCc (s : State) (st : Fin 64) (scatter : Bool) (d : Desc) (ib ob rs w n : Nat) (idx : List Int)
    (q : List (List Row)) (o : Op) : State × Op :=
  let m := (s.stl st).xl.mesh
  let first := ceilDiv n 32
  if o.t < first then
    let (s, rows) := s.readRows st o.ag .read [] [ib + o.t]
    let new := ((rows.flatMap (fun r => r.toList)).take (n - 32 * o.t)).map (fun (x : Word) => x.toInt)
    (s, o.next (.gather scatter d ib ob rs w n (idx ++ new) q))
  else
    let u := o.t - first
    let own (k : Nat) : Option Nat := d.mine m (idx.getD k (-1))
    let (s, q) := if u < 2 then (s, q)
      else
        let (k, i) := sliceAt rs w (u - 2)
        let rows := q.headD []
        let s := match own k, scatter with
          | some l, true => s.writeRows st o.dst (d.base + l * rs + i) rows
          | none, true => s
          | some _, false => s.writeRows st o.dst (ob + rs * k + i) rows
          | none, false => s.writeRows st o.dst (ob + rs * k + i) (List.replicate w d.padRow)
        (s, q.tail)
    if u < n * (rs / w) then
      let (k, i) := sliceAt rs w u
      let (s, rows) := match own k with
        | none => (s, [])
        | some l => s.readRows st o.ag .read [] (rowsFrom (if scatter then ob + rs * k + i else d.base + l * rs + i) w)
      (s, o.next (.gather scatter d ib ob rs w n idx (q ++ [rows])))
    else (s, o.next (.gather scatter d ib ob rs w n idx q))

/-- LT_GATHER and LT_SCATTER (08 R226, R227). -/
def State.gather (s : State) (st : Fin 64) (w : Word) (opc : Byte) (scatter : Bool) : State :=
  if !s.issues st then s
  else
    let (s, r) := s.record st w
    let k := (s.stl st).seq.iter (slotLsel w)
    let ti := fld r[4] 7 0
    let n := fld r[4] 27 16 + 1
    let (s, d) := s.tensor st ti
    let m := (s.stl st).xl.mesh
    let ib := effAddr r[0] k
    let ob := effAddr r[1] k
    let rs := (d.slice m).getD 0
    match firstFault [(slotBad w || teRecBad r, fcReservedBit),
        (d.bad m || (d.slice m).isNone, fcDescriptor),
        (outRange ib (ceilDiv n 32) || outRange ob (n * rs) || outRange d.base (d.rows m), fcAddrRange)] with
    | some f => s.bundleFault st 4 f
    | none =>
      let line := rs % 32 = 0 && d.base % 32 = 0 && ob % 32 = 0
      let wid := if line then 32 else 1
      let first := ceilDiv n 32
      let ag := teAgent ti d
      s.teRun st opc false (first + n * (rs / wid) + 2) ag ag
        (fun s o => s.gatherCc st scatter d ib.toNat ob.toNat rs wid n [] [] o)
        (.gather scatter d ib.toNat ob.toNat rs wid n [] [])

/-- LT_GATHER: slices of a table by index; an index that is not owned gives PADV (08 R226). -/
def execLtGather (st : Fin 64) (w : Word) (s : State) : Answer := .next (s.gather st w 2 false)

/-- LT_SCATTER: slices into a table by index; an index that is not owned is skipped (08 R227). -/
def execLtScatter (st : Fin 64) (w : Word) (s : State) : Answer := .next (s.gather st w 3 true)

/-- One cycle of an LT_FILL: 32 consecutive rows (08 R228). -/
def State.fillCc (s : State) (st : Fin 64) (d : Desc) (o : Op) : State × Op :=
  let n := d.rows (s.stl st).xl.mesh
  (s.writeRows st o.dst (d.base + 32 * o.t) (List.replicate (min 32 (n - 32 * o.t)) d.padRow), o.next o.work)

/-- LT_FILL: PADV to every row of D, 32 rows per cc (08 R228). -/
def execLtFill (st : Fin 64) (w : Word) (s : State) : Answer :=
  .next (
    if !s.issues st then s
    else
      let (s, r) := s.record st w
      let di := fld r[4] 15 8
      let (s, d) := s.tensor st di
      let m := (s.stl st).xl.mesh
      let n := d.rows m
      match firstFault [(slotBad w || teRecBad r, fcReservedBit), (d.bad m, fcDescriptor),
          (outRange d.base n, fcAddrRange)] with
      | some f => s.bundleFault st 4 f
      | none =>
        let ag := teAgent di d
        s.teRun st 4 false (ceilDiv n 32) ag ag (fun s o => s.fillCc st d o) (.fill d))

end Sys2Proof.Machine
end

