-- ==== Sys2Proof/Machine/Lanes.lean ====
section
/-! DEFINITION. The operation model that the Log Engine and the Vector Engine share (07 R183 to R189, R193). -/

namespace Sys2Proof.Machine

/-- One lane's result: its bits, and what it adds to the engine's two counters (07 Table 7.5). -/
structure LaneRes where
  v  : Nat
  ca : Nat := 0
  cb : Nat := 0
deriving DecidableEq, Repr

/-- The fields of an LE or VE record (09 Table 9.3). -/
structure VecRec where
  n     : Nat
  fmt   : Nat
  tgt   : Nat
  cond  : Nat
  g     : Nat
  qsign : Bool
  abits : Nat
  half  : Nat
  res   : Int
  mode  : Nat → Nat
  cidx  : Nat → Nat
  per   : Nat → Nat
  base  : Nat → Int

/-- Operands are numbered 0 for a, 1 for b, 2 for d. -/
def vecRec (r : Vector Word 8) (k : Nat) : VecRec :=
  { n := fld r[4] 9 0 + 1, fmt := fld r[4] 17 16, tgt := fld r[4] 19 18, cond := fld r[4] 26 24,
    g := fld r[4] 23 20, qsign := bit r[4] 27, abits := fld r[5] 27 24 + 1, half := fld r[6] 0 0,
    res := effAddr r[0] k,
    mode := fun i => fld r[4] (11 + 2 * i) (10 + 2 * i),
    cidx := fun i => fld r[5] (15 + 4 * i) (12 + 4 * i),
    per := fun i => fld r[5] (3 + 4 * i) (4 * i) + 1,
    base := fun i => effAddr (r[fin 7 (i + 1)]) k }

/-- Reserved bits of an LE or VE record are set. -/
def vecRecBad (r : Vector Word 8) : Bool :=
  extra r[4] 0x0FFFFFFF || extra r[5] 0x0FFFFFFF || extra r[6] 1 || r[7] ≠ 0

/-- Which engine: false the Log Engine, true the Vector Engine. -/
def Stall.lanes (x : Stall) (vec : Bool) : Lanes := if vec then x.ve else x.le
def State.modLanes (s : State) (st : Fin 64) (vec : Bool) (f : Lanes → Lanes) : State :=
  s.modStl st (fun x => if vec then { x with ve := f x.ve } else { x with le := f x.le })
def laneAgent (vec : Bool) : Agent := if vec then ⟨3, 3, 0, 0⟩ else ⟨2, 2, 0, 0⟩

/-- The elements of es bytes of some rows. -/
def elemsOf (es : Nat) (rs : List Row) : List Nat :=
  if es = 2 then rs.flatMap (fun r => (rowHalves r).map (·.toNat))
  else rs.flatMap (fun r => r.toList.map (fun (w : Word) => w.toNat))

/-- The rows of operand i for vector t (07 Table 7.1); none for a constant. -/
def VecRec.rowsAt (r : VecRec) (i es lanes t : Nat) : List Nat :=
  let rv := lanes * es / 128
  if r.mode i = 2 then []
  else rowsFrom ((r.base i).toNat + rv * (if r.mode i = 1 then t % r.per i else t)) rv

/-- The elements of operand i: of the rows read, or the constant as it stands in this cycle (07 Table 7.1; DESIGN CHOICE,
log 61). -/
def Lanes.elems (x : Lanes) (r : VecRec) (i es lanes : Nat) (rs : List Row) : List Nat :=
  if r.mode i = 2 then List.replicate lanes (x.const[fin 15 (r.cidx i)].toNat % 2 ^ (8 * es)) else elemsOf es rs

/-- Rows handed out in turn to the operands that named them. -/
def dealRows : List Nat → List Row → List (List Row)
  | [], _ => []
  | n :: l, rs => rs.take n :: dealRows l (rs.drop n)

/-- The operands of vector t, read in one cycle: a before b before d (07 R186, 04 R633). -/
def State.operands (s : State) (st : Fin 64) (vec : Bool) (ag : Agent) (r : VecRec) (uses : List Nat) (es lanes t : Nat) :
    State × List (List Nat) :=
  let want := uses.map (fun i => r.rowsAt i es lanes t)
  let (s, rs) := s.readRows st ag .read [] want.flatten
  (s, (uses.zip (dealRows (want.map (·.length)) rs)).map (fun e => ((s.stl st).lanes vec).elems r e.1 es lanes e.2))

/-- Rows an operand takes, for the address check (09 R235); none for a constant. -/
def VecRec.rows (r : VecRec) (i es lanes : Nat) : Nat :=
  let rv := lanes * es / 128
  match r.mode i with
  | 0 => rv * r.n
  | 1 => rv * r.per i
  | _ => 0

/-- Elements written as words, from word number w of the rows at a base; words share no row write with words outside
(07 R193, 04 R105). -/
def State.putWords (s : State) (st : Fin 64) (ag : Agent) (base w : Nat) (ws : List Word) : State :=
  let rows := (List.range (ceilDiv (w % 32 + ws.length) 32))
  rows.foldl (fun s i =>
    let row := base + w / 32 + i
    let cell (j : Nat) : Option Word := if 32 * i + j < w % 32 then none else ws[32 * i + j - w % 32]?
    let data := Vector.ofFn (fun j : Fin 32 => (cell j.val).getD 0)
    let mask := (List.range 32).foldl (fun m j => if (cell j).isSome then m ||| ((1 : Word) <<< j) else m) (0 : Word)
    s.writeRow st ag row data mask) s

/-- Elements of es bytes as words; an odd half-word is filled with 0. -/
def elemWords (es : Nat) (vs : List Nat) : List Word :=
  if es = 2 then halvesWords (vs.map (BitVec.ofNat 16)) else vs.map (BitVec.ofNat 32)

/-- What an operation is to the shared model. -/
structure LaneOp where
  vec   : Bool
  opc   : Byte
  lat   : Nat → Nat
  /-- Formats accepted; an engine operation without a format field accepts every code. -/
  fmts  : List Nat
  uses  : List Nat
  lanes : Nat → Nat
  /-- Element bytes of the operands and of the result, by format and target. -/
  es    : Nat → Nat
  er    : Nat → Nat → Nat
  /-- Further OPERAND checks. -/
  bad   : VecRec → Bool
  /-- Segments of 2^g lanes give one result each. -/
  seg   : Bool

/-- An operation of the shared model with its function on the operands' lanes a, b, d (07 Tables 7.2 and 7.3). -/
structure LaneFn where
  op : LaneOp
  f  : VecRec → List Nat → List Nat → List Nat → List LaneRes

/-- Each vector of a segment operation gives one 2-byte result, so that a word holds those of two vectors (07 R193). -/
def LaneOp.pairs (o : LaneOp) (r : VecRec) : Bool := o.seg && o.er r.fmt r.tgt = 2 && o.lanes r.fmt / 2 ^ r.g = 1

/-- The cycle of the operation in which it first writes a result (07 R186, R193). -/
def LaneOp.firstWrite (o : LaneOp) (r : VecRec) : Nat := o.lat r.fmt + (if o.pairs r && decide (1 < r.n) then 1 else 0)

/-- Rows of the result region. -/
def LaneOp.resRows (o : LaneOp) (r : VecRec) : Nat :=
  let lanes := o.lanes r.fmt
  let er := o.er r.fmt r.tgt
  if o.seg then ceilDiv (r.n * (lanes / 2 ^ r.g) * er) 128 else lanes * er / 128 * r.n

/-- The checks of R635 on an operation of either engine: the code of the first that fails. -/
def LaneOp.refused (o : LaneOp) (w : Word) (r8 : Vector Word 8) (r : VecRec) : Option Byte :=
  let lanes := o.lanes r.fmt
  firstFault [(slotBad w || vecRecBad r8, fcReservedBit),
    (!o.fmts.contains r.fmt || o.uses.any (fun i => r.mode i = 3) || o.bad r, fcOperand),
    (o.uses.any (fun i => r.mode i ≠ 2 && outRange (r.base i) (r.rows i (o.es r.fmt) lanes)) ||
      outRange r.res (o.resRows r), fcAddrRange),
    (o.uses.any (fun i => r.mode i ≠ 2 && r.base i % 8 ≠ 0) || r.res % 8 ≠ 0, fcAlign)]

/-- A discarded operation (07 R188). -/
def State.laneDrop (s : State) (st : Fin 64) (vec : Bool) : State :=
  (s.modLanes st vec (fun x => { x with dropped := satAdd x.dropped 1 })).busyDrop st (laneAgent vec).slot

/-- The results of vector k written, with the result of the vector before it where the two share a word (07 R193). -/
def State.putResult (s : State) (st : Fin 64) (o : LaneOp) (r : VecRec) (k prev : Nat) (vs : List Nat) : State :=
  let er := o.er r.fmt r.tgt
  let base := r.res.toNat
  let ag := laneAgent o.vec
  if o.pairs r then
    if k % 2 = 1 then s.putWords st ag base (k / 2) (elemWords 2 (prev :: vs))
    else if k + 1 = r.n then s.putWords st ag base (k / 2) (elemWords 2 vs)
    else s
  else if o.seg then s.putWords st ag base (k * (o.lanes r.fmt / 2 ^ r.g) * er / 4) (elemWords er vs)
  else s.putWords st ag base (32 * (o.lanes r.fmt * er / 128) * k) (elemWords er vs)

/-- Results count in the cycle in which they are due (07 Table 7.5; log 61). -/
def State.laneCount (s : State) (st : Fin 64) (vec : Bool) (ca cb : Nat) : State :=
  s.modLanes st vec (fun x => { x with cntA := satAdd x.cntA ca, cntB := satAdd x.cntB cb })

/-- One cycle of an operation of either engine: the results of vector t − LAT are written, then vector t is read (07 R186;
of one slot's write and read the write comes first, 04 R633). -/
def State.laneCc (s : State) (st : Fin 64) (l : LaneFn) (r8 : Vector Word 8) (k : Nat) (res : List (List Nat × Nat × Nat))
    (prev : Nat) (o : Op) : State × Op :=
  let r := vecRec r8 k
  let lat := l.op.lat r.fmt
  let (s, res, prev) :=
    match decide (lat ≤ o.t), res with
    | true, (vs, ca, cb) :: rest =>
      ((s.putResult st l.op r (o.t - lat) prev vs).laneCount st l.op.vec ca cb, rest, vs.getLastD 0)
    | _, _ => (s, res, prev)
  if o.t < r.n then
    let (s, xs) := s.operands st l.op.vec o.ag r l.op.uses (l.op.es r.fmt) (l.op.lanes r.fmt) o.t
    let ys := l.f r (xs.getD 0 []) (xs.getD 1 []) (xs.getD 2 [])
    let new := (ys.map (·.v), ys.foldl (fun x e => x + e.ca) 0, ys.foldl (fun x e => x + e.cb) 0)
    (s, o.next (.lanes l.op.vec r8 k (res ++ [new]) prev))
  else (s, o.next (.lanes l.op.vec r8 k res prev))

/-- The first result write of an operation would fall in or before the cycle of the last one of an operation in progress on
its engine (07 R187); the counts of operations in progress stand one cycle further. -/
def Stall.writeOrder (x : Stall) (vec : Bool) (firstWrite : Nat) : Bool :=
  x.ops.any (fun o => o.ag.slot = (laneAgent vec).slot && !o.isLdc && decide (firstWrite + o.t ≤ o.len))

/-- An operation of either engine (07 R186 to R188). -/
def State.laneOp (s : State) (st : Fin 64) (w : Word) (l : LaneFn) : State :=
  if !s.issues st then s
  else
    let slot := (laneAgent l.op.vec).slot
    let (s, r8) := s.record st w
    let k := (s.stl st).seq.iter (slotLsel w)
    let r := vecRec r8 k
    match l.op.refused w r8 r with
    | some c => s.bundleFault st slot c
    | none =>
      if (s.stl st).busy slot then s.laneDrop st l.op.vec
      else if (s.stl st).writeOrder l.op.vec (l.op.firstWrite r) then s.bundleFault st slot fcWriteOrder
      else
        let ag := laneAgent l.op.vec
        (s.modLanes st l.op.vec (fun x => { x with opc := l.op.opc })).startOp st (fun s o => s.laneCc st l r8 k [] 0 o)
          { ag := ag, dst := ag, opc := l.op.opc, t := 0, busy := r.n, len := r.n + l.op.lat r.fmt,
            work := .lanes l.op.vec r8 k [] 0 }

/-- LDC: 16 words of one row, read in its issue cycle, into the constants, usable from cycle c + 2 (07 R189). -/
def State.ldc (s : State) (st : Fin 64) (w : Word) (vec : Bool) (opc : Byte) : State :=
  if !s.issues st then s
  else
    let (s, r8) := s.record st w
    let r := vecRec r8 ((s.stl st).seq.iter (slotLsel w))
    let ag := laneAgent vec
    match firstFault [(slotBad w || vecRecBad r8, fcReservedBit), (outRange (r.base 0) 1, fcAddrRange)] with
    | some c => s.bundleFault st ag.slot c
    | none =>
      if (s.stl st).busy ag.slot then s.laneDrop st vec
      else
        let (s, row) := s.readRow st ag .read (r.base 0).toNat
        let ws := (row.toList.drop (16 * r.half)).take 16
        (s.modLanes st vec (fun x => { x with opc := opc })).modStl st (fun x => { x with
          ops := x.ops ++ [{ ag := ag, dst := ag, opc := opc, t := 1, busy := 1, len := 2, work := .ldc vec ws }] })

/-- Constants loaded (07 R189). -/
def Stall.setConst (x : Stall) (vec : Bool) (ws : List Word) : Stall :=
  let v : Vector Word 16 := Vector.ofFn (fun i : Fin 16 => ws.getD i.val 0)
  if vec then { x with ve := { x.ve with const := v } } else { x with le := { x.le with const := v } }

/-- Neighbours combined pairwise, once (07 R193): the lower lane is the left operand. -/
def pairUp {α : Type} (f : α → α → α) : List α → List α
  | a :: b :: l => f a b :: pairUp f l
  | l => l

/-- The rank-tree value of each segment of 2^g elements. -/
def segTree {α : Type} (f : α → α → α) : Nat → List α → List α
  | 0, l => l
  | g + 1, l => segTree f g (pairUp f l)

end Sys2Proof.Machine
end

