-- ==== Sys2Proof/Machine/LogEngine.lean ====
section
/-! DEFINITION. The Log Engine (07 R190 to R193, Table 7.2; 09 Table 9.4). -/

namespace Sys2Proof.Machine

def lnsRes (r : LnsRes) : LaneRes := ⟨r.code.toNat, b2n r.sat, b2n r.dom⟩
def plain (h : Half) : LaneRes := ⟨h.toNat, 0, 0⟩

/-- An operation on LNS16 lanes with `k` operands. -/
def leOp (opc : Byte) (lat k : Nat) : LaneOp :=
  { vec := false, opc := opc, lat := fun _ => lat, fmts := [0, 1, 2, 3], uses := List.range k,
    lanes := fun _ => 512, es := fun _ => 2, er := fun _ _ => 2, bad := fun _ => false, seg := false }

/-- A segment operation on LNS16 lanes, g from 1 to 9. -/
def leSeg (opc : Byte) (lat : Nat) : LaneOp :=
  { leOp opc lat 1 with seg := true, bad := fun r => r.g = 0 || decide (9 < r.g) }

/-- A conversion from FP32 or BF16 to LNS16, and one from LNS16. -/
def leFrom (opc : Byte) : LaneOp :=
  { leOp opc 4 1 with fmts := [0, 1], es := fun f => if f = 0 then 4 else 2 }
def leTo (opc : Byte) : LaneOp :=
  { leOp opc 4 1 with fmts := [0, 1], er := fun f _ => if f = 0 then 4 else 2 }

def map1 (f : Half → LaneRes) : VecRec → List Nat → List Nat → List Nat → List LaneRes :=
  fun _ a _ _ => a.map (fun x => f (BitVec.ofNat 16 x))
def map2 (f : Half → Half → LaneRes) : VecRec → List Nat → List Nat → List Nat → List LaneRes :=
  fun _ a b _ => (a.zip b).map (fun e => f (BitVec.ofNat 16 e.1) (BitVec.ofNat 16 e.2))

/-- A floating-point lane of a format (07 R192). -/
def fpDec (fmt v : Nat) : Fp := if fmt = 0 then fp32Dec (BitVec.ofNat 32 v) else bf16Dec (BitVec.ofNat 16 v)
def fpEnc (fmt : Nat) (x : Fp) : Nat := if fmt = 0 then (fp32Enc x).toNat else (bf16Enc x).toNat

/-- Segments of LNS16 lanes: the value, and one clamp a segment at most (07 R193). -/
def leTree (f : Half → Half → LnsRes) : VecRec → List Nat → List Nat → List Nat → List LaneRes :=
  fun r a _ _ =>
    (segTree (fun (x y : Half × Bool) => let z := f x.1 y.1; (z.code, x.2 || y.2 || z.sat)) r.g
      (a.map (fun x => (BitVec.ofNat 16 x, false)))).map (fun e => ⟨e.1.toNat, b2n e.2, 0⟩)

/-- LE_MUL: a × b (05 R154). -/
def leMul : LaneFn :=
  { op := leOp 0x01 2 2,
    f := map2 (fun a b => lnsRes (lnsMul a b)) }

/-- LE_MUL: a × b (05 R154). -/
def execLeMul (st : Fin 64) (w : Word) (s : State) : Answer := .next (s.laneOp st w leMul)

/-- LE_DIV (07 Table 7.2). -/
def leDiv : LaneFn :=
  { op := leOp 0x02 2 2,
    f := map2 (fun a b => lnsRes (lnsDiv a b)) }

/-- LE_DIV (07 Table 7.2). -/
def execLeDiv (st : Fin 64) (w : Word) (s : State) : Answer := .next (s.laneOp st w leDiv)

/-- LE_ADD: a + b (05 R157). -/
def leAdd : LaneFn :=
  { op := leOp 0x03 4 2,
    f := map2 (fun a b => lnsRes (lnsAdd a b)) }

/-- LE_ADD: a + b (05 R157). -/
def execLeAdd (st : Fin 64) (w : Word) (s : State) : Answer := .next (s.laneOp st w leAdd)

/-- LE_SUB: a + (b with its sign inverted). -/
def leSub : LaneFn :=
  { op := leOp 0x04 4 2,
    f := map2 (fun a b => lnsRes (lnsAdd a (lnsInv b))) }

/-- LE_SUB: a + (b with its sign inverted). -/
def execLeSub (st : Fin 64) (w : Word) (s : State) : Answer := .next (s.laneOp st w leSub)

/-- LE_NEG: sign inverted; zero stays 0x4000. -/
def leNeg : LaneFn :=
  { op := leOp 0x05 2 1,
    f := map1 (fun a => plain (lnsCanon (lnsInv a))) }

/-- LE_NEG: sign inverted; zero stays 0x4000. -/
def execLeNeg (st : Fin 64) (w : Word) (s : State) : Answer := .next (s.laneOp st w leNeg)

/-- LE_ABS: sign cleared. -/
def leAbs : LaneFn :=
  { op := leOp 0x06 2 1,
    f := map1 (fun a => plain (a &&& 0x7FFF)) }

/-- LE_ABS: sign cleared. -/
def execLeAbs (st : Fin 64) (w : Word) (s : State) : Answer := .next (s.laneOp st w leAbs)

/-- LE_RECIP: sign kept, L = −La. -/
def leRecip : LaneFn :=
  { op := leOp 0x07 2 1,
    f := map1 (fun a => lnsRes (lnsRecip a)) }

/-- LE_RECIP: sign kept, L = −La. -/
def execLeRecip (st : Fin 64) (w : Word) (s : State) : Answer := .next (s.laneOp st w leRecip)

/-- LE_SQRT: L = La / 2 rounded to nearest, ties to even. -/
def leSqrt : LaneFn :=
  { op := leOp 0x08 2 1,
    f := map1 (fun a => lnsRes (lnsSqrt a)) }

/-- LE_SQRT: L = La / 2 rounded to nearest, ties to even. -/
def execLeSqrt (st : Fin 64) (w : Word) (s : State) : Answer := .next (s.laneOp st w leSqrt)

/-- LE_SCALE: a × 2^s, s from the constant that names b. -/
def leScale : LaneFn :=
  { op := { leOp 0x09 2 2 with bad := fun r => r.mode 1 ≠ 2 },
    f := map2 (fun a b => lnsRes (lnsScale a b.toInt)) }

/-- LE_SCALE: a × 2^s, s from the constant that names b. -/
def execLeScale (st : Fin 64) (w : Word) (s : State) : Answer := .next (s.laneOp st w leScale)

/-- LE_MAX: the larger value. -/
def leMax : LaneFn :=
  { op := leOp 0x0A 2 2,
    f := map2 (fun a b => plain (lnsMax a b)) }

/-- LE_MAX: the larger value. -/
def execLeMax (st : Fin 64) (w : Word) (s : State) : Answer := .next (s.laneOp st w leMax)

/-- LE_MIN: the smaller value. -/
def leMin : LaneFn :=
  { op := leOp 0x0B 2 2,
    f := map2 (fun a b => plain (lnsMin a b)) }

/-- LE_MIN: the smaller value. -/
def execLeMin (st : Fin 64) (w : Word) (s : State) : Answer := .next (s.laneOp st w leMin)

/-- LE_LSUM: segment sums in rank-tree order (07 R193). -/
def leLsum : LaneFn :=
  { op := leSeg 0x0C 16,
    f := leTree lnsAdd }

/-- LE_LSUM: segment sums in rank-tree order (07 R193). -/
def execLeLsum (st : Fin 64) (w : Word) (s : State) : Answer := .next (s.laneOp st w leLsum)

/-- LE_LMAX: the largest value of each segment. -/
def leLmax : LaneFn :=
  { op := leSeg 0x0D 10,
    f := leTree (fun a b => ⟨lnsMax a b, false, false⟩) }

/-- LE_LMAX: the largest value of each segment. -/
def execLeLmax (st : Fin 64) (w : Word) (s : State) : Answer := .next (s.laneOp st w leLmax)

/-- LE_FROMFP: x converted to LNS16 (05 R155, 07 R192). -/
def leFromfp : LaneFn :=
  { op := leFrom 0x0E,
    f := fun r a _ _ => a.map (fun x => lnsRes (lnsFromFp (fpDec r.fmt x))) }

/-- LE_FROMFP: x converted to LNS16 (05 R155, 07 R192). -/
def execLeFromfp (st : Fin 64) (w : Word) (s : State) : Answer := .next (s.laneOp st w leFromfp)

/-- LE_TOFP: 2^(La/512) with the sign of a (07 R191). -/
def leTofp : LaneFn :=
  { op := leTo 0x0F,
    f := fun r a _ _ => a.map (fun x => ⟨fpEnc r.fmt (lnsToFp (BitVec.ofNat 16 x)), 0, 0⟩) }

/-- LE_TOFP: 2^(La/512) with the sign of a (07 R191). -/
def execLeTofp (st : Fin 64) (w : Word) (s : State) : Answer := .next (s.laneOp st w leTofp)

/-- LE_FROMLIN: 2^x (07 R192). -/
def leFromlin : LaneFn :=
  { op := leFrom 0x10,
    f := fun r a _ _ => a.map (fun x => lnsRes (lnsFromLin (fpDec r.fmt x))) }

/-- LE_FROMLIN: 2^x (07 R192). -/
def execLeFromlin (st : Fin 64) (w : Word) (s : State) : Answer := .next (s.laneOp st w leFromlin)

/-- LE_TOLIN: La / 512. -/
def leTolin : LaneFn :=
  { op := leTo 0x11,
    f := fun r a _ _ => a.map (fun x => ⟨fpEnc r.fmt (lnsToLin (BitVec.ofNat 16 x)), 0, 0⟩) }

/-- LE_TOLIN: La / 512. -/
def execLeTolin (st : Fin 64) (w : Word) (s : State) : Answer := .next (s.laneOp st w leTolin)

/-- LE_LDC: constants (07 R189). -/
def execLeLdc (st : Fin 64) (w : Word) (s : State) : Answer := .next (s.ldc st w false 0x12)

/-- The operation of an opcode (09 Table 9.4). -/
def leFn (opc : Byte) : Option LaneFn :=
  match opc.toNat with
  | 1 => some leMul
  | 2 => some leDiv
  | 3 => some leAdd
  | 4 => some leSub
  | 5 => some leNeg
  | 6 => some leAbs
  | 7 => some leRecip
  | 8 => some leSqrt
  | 9 => some leScale
  | 10 => some leMax
  | 11 => some leMin
  | 12 => some leLsum
  | 13 => some leLmax
  | 14 => some leFromfp
  | 15 => some leTofp
  | 16 => some leFromlin
  | 17 => some leTolin
  | _ => none

end Sys2Proof.Machine
end

