-- ==== Sys2Proof/Machine/VectorEngine.lean ====
section
/-! DEFINITION. The Vector Engine (07 R194 to R198, Table 7.3; 09 Table 9.4). Formats are 0 FP32, 1 BF16,
2 INT32. -/

namespace Sys2Proof.Machine

def veLanes (f : Nat) : Nat := if f = 1 then 512 else 256
def veBytes (f : Nat) : Nat := if f = 1 then 2 else 4

/-- An operation on lanes of one format; `li` is the INT32 latency. -/
def veOp (opc : Byte) (lf li k : Nat) (fmts : List Nat) : LaneOp :=
  { vec := true, opc := opc, lat := fun f => if f = 2 then li else lf, fmts := fmts, uses := List.range k,
    lanes := veLanes, es := veBytes, er := fun f _ => veBytes f, bad := fun _ => false, seg := false }

/-- A segment operation: g from 1 to 8, or 9 in BF16. -/
def veSeg (opc : Byte) (lat : Nat) : LaneOp :=
  { veOp opc lat lat 1 [0, 1, 2] with
    seg := true, bad := fun r => r.g = 0 || decide ((if r.fmt = 1 then 9 else 8) < r.g) }

/-- A floating-point result; a NaN, or an infinity from finite operands, counts (07 R198). -/
def fpRes (fmt : Nat) (ins : List Fp) (x : Fp) : LaneRes :=
  let v := fpEnc fmt x
  let back := fpDec fmt v
  ⟨v, b2n (back.isNan || (back.isInf && ins.all (fun y => !y.isNan && !y.isInf))), 0⟩

def i32 (v : Nat) : Int := (BitVec.ofNat 32 v).toInt
def w32 (v : Int) : Nat := (BitVec.ofInt 32 v).toNat
def intRes (v : Int) : LaneRes := ⟨w32 v, 0, 0⟩

/-- One and two operands: a function on values for FP32 and BF16, and one on INT32 lanes. -/
def ve1 (f : Fp → Fp) (g : Nat → LaneRes) : VecRec → List Nat → List Nat → List Nat → List LaneRes :=
  fun r a _ _ => a.map (fun x => if r.fmt = 2 then g x else fpRes r.fmt [fpDec r.fmt x] (f (fpDec r.fmt x)))
def ve2 (f : Fp → Fp → Fp) (g : Nat → Nat → LaneRes) : VecRec → List Nat → List Nat → List Nat → List LaneRes :=
  fun r a b _ => (a.zip b).map (fun e =>
    if r.fmt = 2 then g e.1 e.2
    else fpRes r.fmt [fpDec r.fmt e.1, fpDec r.fmt e.2] (f (fpDec r.fmt e.1) (fpDec r.fmt e.2)))
def veI (g : Nat → Nat → Nat) : VecRec → List Nat → List Nat → List Nat → List LaneRes :=
  fun _ a b _ => (a.zip b).map (fun e => ⟨g e.1 e.2 % 2 ^ 32, 0, 0⟩)

/-- The key of R195: the sign decides between zeros. -/
def fpLess (x y : Fp) : Bool :=
  match x.cmp y with
  | some c => decide (c < 0) || (c = 0 && (match x, y with
      | .fin a, .fin b => a.m = 0 && b.m = 0 && a.neg && !b.neg
      | _, _ => false))
  | none => false

/-- VE_MIN and VE_MAX (07 R195). -/
def fpMin (x y : Fp) : Fp := if x.isNan then y else if y.isNan then x else if fpLess y x then y else x
def fpMax (x y : Fp) : Fp := if x.isNan then y else if y.isNan then x else if fpLess x y then y else x

def Fp.abs : Fp → Fp
  | .nan => .nan
  | .inf _ => .inf false
  | .fin d => .fin { d with neg := false }

/-- Segment values: in FP32 and BF16 each addition is rounded; a segment counts once (07 R193). -/
def veTree (f : Fp → Fp → Fp) (g : Int → Int → Int) : VecRec → List Nat → List Nat → List Nat → List LaneRes :=
  fun r a _ _ =>
    if r.fmt = 2 then
      (segTree (fun x y => w32 (g (i32 x) (i32 y))) r.g a).map (fun v => ⟨v, 0, 0⟩)
    else
      (segTree (fun (x y : Nat × Bool) => (fpEnc r.fmt (f (fpDec r.fmt x.1) (fpDec r.fmt y.1)), x.2 && y.2)) r.g
        (a.map (fun v => let x := fpDec r.fmt v; (v, !x.isNan && !x.isInf)))).map (fun e =>
          let x := fpDec r.fmt e.1
          ⟨e.1, b2n (x.isNan || (x.isInf && e.2)), 0⟩)

/-- A value brought to INT32: rounded, saturated, 0 for NaN (07 R196); it counts when it saturates or is NaN. -/
def toI32 : Fp → LaneRes
  | .nan => ⟨0, 0, 1⟩
  | .inf s => ⟨w32 (if s then -(2 ^ 31 : Nat) else (2 ^ 31 : Nat) - 1), 0, 1⟩
  | .fin d => ⟨w32 (satS 32 d.rne), 0, b2n (satS 32 d.rne ≠ d.rne)⟩

/-- VE_CVT of one lane from format f to format t. -/
def cvt (f t v : Nat) : LaneRes :=
  if f = 2 then ⟨fpEnc t (.fin (dyOfInt (i32 v))), 0, 0⟩
  else if t = 2 then toI32 (fpDec f v)
  else fpRes t [fpDec f v] (fpDec f v)

/-- VE_ADD: a + b. -/
def veAdd : LaneFn :=
  { op := veOp 0x01 4 2 2 [0, 1, 2],
    f := ve2 Fp.add (fun a b => intRes (i32 a + i32 b)) }

/-- VE_ADD: a + b. -/
def execVeAdd (st : Fin 64) (w : Word) (s : State) : Answer := .next (s.laneOp st w veAdd)

/-- VE_SUB: a − b. -/
def veSub : LaneFn :=
  { op := veOp 0x02 4 2 2 [0, 1, 2],
    f := ve2 (fun a b => a.add b.neg) (fun a b => intRes (i32 a - i32 b)) }

/-- VE_SUB: a − b. -/
def execVeSub (st : Fin 64) (w : Word) (s : State) : Answer := .next (s.laneOp st w veSub)

/-- VE_MUL: a × b; INT32 keeps the low 32 bits. -/
def veMul : LaneFn :=
  { op := veOp 0x03 4 4 2 [0, 1, 2],
    f := ve2 Fp.mul (fun a b => intRes (i32 a * i32 b)) }

/-- VE_MUL: a × b; INT32 keeps the low 32 bits. -/
def execVeMul (st : Fin 64) (w : Word) (s : State) : Answer := .next (s.laneOp st w veMul)

/-- VE_FMA: a × b + d with one rounding. -/
def veFma : LaneFn :=
  { op := veOp 0x04 6 6 3 [0, 1],
    f := fun r a b d =>
    (a.zip (b.zip d)).map (fun e =>
      let x := fpDec r.fmt e.1
      let y := fpDec r.fmt e.2.1
      let z := fpDec r.fmt e.2.2
      fpRes r.fmt [x, y, z] ((x.mul y).add z)) }

/-- VE_FMA: a × b + d with one rounding. -/
def execVeFma (st : Fin 64) (w : Word) (s : State) : Answer := .next (s.laneOp st w veFma)

/-- VE_ADDS: saturating a + b. -/
def veAdds : LaneFn :=
  { op := veOp 0x05 2 2 2 [2],
    f := ve2 Fp.add (fun a b => intRes (satS 32 (i32 a + i32 b))) }

/-- VE_ADDS: saturating a + b. -/
def execVeAdds (st : Fin 64) (w : Word) (s : State) : Answer := .next (s.laneOp st w veAdds)

/-- VE_SUBS: saturating a − b. -/
def veSubs : LaneFn :=
  { op := veOp 0x06 2 2 2 [2],
    f := ve2 Fp.add (fun a b => intRes (satS 32 (i32 a - i32 b))) }

/-- VE_SUBS: saturating a − b. -/
def execVeSubs (st : Fin 64) (w : Word) (s : State) : Answer := .next (s.laneOp st w veSubs)

/-- VE_AND: bitwise AND. -/
def veAnd : LaneFn :=
  { op := veOp 0x07 2 2 2 [2],
    f := veI (fun a b => a &&& b) }

/-- VE_AND: bitwise AND. -/
def execVeAnd (st : Fin 64) (w : Word) (s : State) : Answer := .next (s.laneOp st w veAnd)

/-- VE_OR: bitwise OR. -/
def veOr : LaneFn :=
  { op := veOp 0x08 2 2 2 [2],
    f := veI (fun a b => a ||| b) }

/-- VE_OR: bitwise OR. -/
def execVeOr (st : Fin 64) (w : Word) (s : State) : Answer := .next (s.laneOp st w veOr)

/-- VE_XOR: bitwise XOR. -/
def veXor : LaneFn :=
  { op := veOp 0x09 2 2 2 [2],
    f := veI (fun a b => a ^^^ b) }

/-- VE_XOR: bitwise XOR. -/
def execVeXor (st : Fin 64) (w : Word) (s : State) : Answer := .next (s.laneOp st w veXor)

/-- VE_SHL: shift left by b mod 32. -/
def veShl : LaneFn :=
  { op := veOp 0x0A 2 2 2 [2],
    f := veI (fun a b => a * 2 ^ (b % 32)) }

/-- VE_SHL: shift left by b mod 32. -/
def execVeShl (st : Fin 64) (w : Word) (s : State) : Answer := .next (s.laneOp st w veShl)

/-- VE_SHR: logical shift right by b mod 32. -/
def veShr : LaneFn :=
  { op := veOp 0x0B 2 2 2 [2],
    f := veI (fun a b => a / 2 ^ (b % 32)) }

/-- VE_SHR: logical shift right by b mod 32. -/
def execVeShr (st : Fin 64) (w : Word) (s : State) : Answer := .next (s.laneOp st w veShr)

/-- VE_SRA: arithmetic shift right by b mod 32. -/
def veSra : LaneFn :=
  { op := veOp 0x0C 2 2 2 [2],
    f := veI (fun a b => w32 (i32 a / (2 ^ (b % 32) : Nat))) }

/-- VE_SRA: arithmetic shift right by b mod 32. -/
def execVeSra (st : Fin 64) (w : Word) (s : State) : Answer := .next (s.laneOp st w veSra)

/-- VE_MIN (07 R195). -/
def veMin : LaneFn :=
  { op := veOp 0x0D 2 2 2 [0, 1, 2],
    f := ve2 fpMin (fun a b => intRes (min (i32 a) (i32 b))) }

/-- VE_MIN (07 R195). -/
def execVeMin (st : Fin 64) (w : Word) (s : State) : Answer := .next (s.laneOp st w veMin)

/-- VE_MAX (07 R195). -/
def veMax : LaneFn :=
  { op := veOp 0x0E 2 2 2 [0, 1, 2],
    f := ve2 fpMax (fun a b => intRes (max (i32 a) (i32 b))) }

/-- VE_MAX (07 R195). -/
def execVeMax (st : Fin 64) (w : Word) (s : State) : Answer := .next (s.laneOp st w veMax)

/-- VE_ABS: sign cleared; INT32 saturates. -/
def veAbs : LaneFn :=
  { op := veOp 0x0F 2 2 1 [0, 1, 2],
    f := ve1 Fp.abs (fun a => intRes (satS 32 ((i32 a).natAbs : Int))) }

/-- VE_ABS: sign cleared; INT32 saturates. -/
def execVeAbs (st : Fin 64) (w : Word) (s : State) : Answer := .next (s.laneOp st w veAbs)

/-- VE_NEG: sign inverted; INT32 saturates. -/
def veNeg : LaneFn :=
  { op := veOp 0x10 2 2 1 [0, 1, 2],
    f := ve1 Fp.neg (fun a => intRes (satS 32 (-i32 a))) }

/-- VE_NEG: sign inverted; INT32 saturates. -/
def execVeNeg (st : Fin 64) (w : Word) (s : State) : Answer := .next (s.laneOp st w veNeg)

/-- VE_CMP: 1 where the condition holds, else 0. -/
def veCmp : LaneFn :=
  { op := { veOp 0x11 2 2 2 [0, 1, 2] with bad := fun r => decide (5 < r.cond) },
    f := fun r a b _ =>
    (a.zip b).map (fun e =>
      let c : Option Int := if r.fmt = 2 then some (i32 e.1 - i32 e.2) else (fpDec r.fmt e.1).cmp (fpDec r.fmt e.2)
      ⟨b2n (cmpTest r.cond c), 0, 0⟩) }

/-- VE_CMP: 1 where the condition holds, else 0. -/
def execVeCmp (st : Fin 64) (w : Word) (s : State) : Answer := .next (s.laneOp st w veCmp)

/-- VE_SEL: a where d ≠ 0, else b, bits unchanged (07 R198). -/
def veSel : LaneFn :=
  { op := veOp 0x12 2 2 3 [0, 1, 2],
    f := fun _ a b d => (a.zip (b.zip d)).map (fun e => ⟨if e.2.2 ≠ 0 then e.1 else e.2.1, 0, 0⟩) }

/-- VE_SEL: a where d ≠ 0, else b, bits unchanged (07 R198). -/
def execVeSel (st : Fin 64) (w : Word) (s : State) : Answer := .next (s.laneOp st w veSel)

/-- VE_RSUM: segment sums in rank-tree order, each addition rounded (07 R193). -/
def veRsum : LaneFn :=
  { op := veSeg 0x13 12,
    f := veTree Fp.add (fun a b => a + b) }

/-- VE_RSUM: segment sums in rank-tree order, each addition rounded (07 R193). -/
def execVeRsum (st : Fin 64) (w : Word) (s : State) : Answer := .next (s.laneOp st w veRsum)

/-- VE_RMAX: the largest lane of each segment. -/
def veRmax : LaneFn :=
  { op := veSeg 0x14 8,
    f := veTree fpMax max }

/-- VE_RMAX: the largest lane of each segment. -/
def execVeRmax (st : Fin 64) (w : Word) (s : State) : Answer := .next (s.laneOp st w veRmax)

/-- VE_CVT (07 R184, R196; log 53). -/
def veCvt : LaneFn :=
  { op := { veOp 0x15 4 4 1 [0, 1, 2] with er := fun _ t => veBytes t, bad := fun r => r.tgt = 3 || r.tgt = r.fmt },
    f := fun r a _ _ => a.map (cvt r.fmt r.tgt) }

/-- VE_CVT (07 R184, R196; log 53). -/
def execVeCvt (st : Fin 64) (w : Word) (s : State) : Answer := .next (s.laneOp st w veCvt)

/-- VE_QPACK of one element: the A-bit code and whether it counts (07 R197). -/
def qpack1 (r : VecRec) (sc : Fp) (z : Int) (v : Nat) : LaneRes :=
  let lo : Int := if r.qsign then -(2 ^ (r.abits - 1) : Nat) else 0
  let hi : Int := if r.qsign then (2 ^ (r.abits - 1) : Nat) - 1 else (2 ^ r.abits : Nat) - 1
  let x := if r.fmt = 2 then .fin (dyOfInt (i32 v)) else fpDec r.fmt v
  match x.mul sc with
  | .nan => ⟨(BitVec.ofInt 16 (clampI z lo hi)).toNat, 0, 1⟩
  | .inf s => ⟨(BitVec.ofInt 16 (if s then lo else hi)).toNat, 0, 1⟩
  | .fin d => ⟨(BitVec.ofInt 16 (clampI (d.rne + z) lo hi)).toNat, 0, b2n (clampI (d.rne + z) lo hi ≠ d.rne + z)⟩

/-- The model of a VE_QPACK: operand a alone; s and z come from constants (09 R236). -/
def qpackOp : LaneOp :=
  { veOp 0x16 6 6 1 [0, 1, 2] with bad := fun r => r.n % (if r.fmt = 1 then 8 else 16) ≠ 0 }

/-- Vectors of a tile, and the cycles in which a tile's rows are written (07 R197). -/
def VecRec.perTile (r : VecRec) : Nat := if r.fmt = 1 then 8 else 16
def VecRec.tileCycles (r : VecRec) : Nat := ceilDiv (4 * r.abits) 32

/-- A tile is written 32 rows a cycle from cycle LAT after its last read; its codes count when they are due. -/
def State.qpackPut (s : State) (st : Fin 64) (ag : Agent) (r : VecRec) (t : Nat) (e : Nat × Nat × List Row) : State :=
  let at' := r.perTile * (e.1 + 1) - 1 + 6
  if t < at' then s
  else
    let s := if t = at' then s.laneCount st true 0 e.2.1 else s
    s.writeRows st ag (r.res.toNat + 4 * r.abits * e.1 + 32 * (t - at')) ((e.2.2.drop (32 * (t - at'))).take 32)

/-- One cycle of a VE_QPACK (07 R197). -/
def State.qpackCc (s : State) (st : Fin 64) (r8 : Vector Word 8) (k : Nat) (cur : List (Nat × Nat))
    (tiles : List (Nat × Nat × List Row)) (o : Op) : State × Op :=
  let r := vecRec r8 k
  let s := tiles.foldl (fun s e => s.qpackPut st o.dst r o.t e) s
  let tiles := tiles.filter (fun e => decide (o.t + 1 < r.perTile * (e.1 + 1) - 1 + 6 + r.tileCycles))
  if o.t < r.n then
    let (s, xs) := s.operands st true o.ag r [0] (veBytes r.fmt) (veLanes r.fmt) o.t
    let sc := fp32Dec (s.stl st).ve.const[fin 15 (r.cidx 1)]
    let z := (s.stl st).ve.const[fin 15 (r.cidx 2)].toInt
    let cur := cur ++ ((xs.getD 0 []).map (qpack1 r sc z)).map (fun e => (e.v, e.cb))
    if (o.t + 1) % r.perTile = 0 then
      let rows := rowsOf (4 * r.abits) (bytesWords (planeBytes r.abits (cur.map (·.1)).toArray))
      let n := (cur.filter (fun e => e.2 ≠ 0)).length
      (s, o.next (.qpack r8 k [] (tiles ++ [(o.t / r.perTile, n, rows)])))
    else (s, o.next (.qpack r8 k cur tiles))
  else (s, o.next (.qpack r8 k cur tiles))

/-- VE_QPACK: bit-planed activation tiles (07 R197). -/
def execVeQpack (st : Fin 64) (w : Word) (s : State) : Answer :=
  .next (
    if !s.issues st then s
    else
      let (s, r8) := s.record st w
      let r := vecRec r8 ((s.stl st).seq.iter (slotLsel w))
      let vpt := r.perTile
      let code := match { qpackOp with fmts := [] }.refused w r8 r with
        | some 0x0D => firstFault [
            (!qpackOp.fmts.contains r.fmt || r.mode 0 = 3 || qpackOp.bad r, fcOperand),
            ((r.mode 0 ≠ 2 && outRange (r.base 0) (r.rows 0 (veBytes r.fmt) (veLanes r.fmt))) ||
              outRange r.res (4 * r.abits * (r.n / vpt)), fcAddrRange),
            ((r.mode 0 ≠ 2 && r.base 0 % 8 ≠ 0) || r.res % 8 ≠ 0, fcAlign)]
        | c => c
      match code with
      | some c => s.bundleFault st 3 c
      | none =>
        if (s.stl st).busy 3 then s.laneDrop st true
        else if (s.stl st).writeOrder true (vpt - 1 + 6) then s.bundleFault st 3 fcWriteOrder
        else
          let k := (s.stl st).seq.iter (slotLsel w)
          (s.modLanes st true (fun x => { x with opc := 0x16 })).startOp st (fun s o => s.qpackCc st r8 k [] [] o)
            { ag := laneAgent true, dst := laneAgent true, opc := 0x16, t := 0, busy := r.n,
              len := r.n + 5 + r.tileCycles, work := .qpack r8 k [] [] })

/-- VE_LDC: constants (07 R189). -/
def execVeLdc (st : Fin 64) (w : Word) (s : State) : Answer := .next (s.ldc st w true 0x17)

/-- The operation of an opcode (09 Table 9.4). -/
def veFn (opc : Byte) : Option LaneFn :=
  match opc.toNat with
  | 1 => some veAdd
  | 2 => some veSub
  | 3 => some veMul
  | 4 => some veFma
  | 5 => some veAdds
  | 6 => some veSubs
  | 7 => some veAnd
  | 8 => some veOr
  | 9 => some veXor
  | 10 => some veShl
  | 11 => some veShr
  | 12 => some veSra
  | 13 => some veMin
  | 14 => some veMax
  | 15 => some veAbs
  | 16 => some veNeg
  | 17 => some veCmp
  | 18 => some veSel
  | 19 => some veRsum
  | 20 => some veRmax
  | 21 => some veCvt
  | _ => none

end Sys2Proof.Machine
end

