-- ==== Sys2Proof/Machine/Dispatch.lean ====
section
/-! DEFINITION. One arm for each command: its meaning by name. -/

namespace Sys2Proof.Machine

def exec (i : Instr) (s : State) : Host.Outcome State Fault Refusal :=
  match i with
  | .registerWrite rq off v => Sys2Proof.Machine.execRegisterWrite rq off v s
  | .rsRegisterRead rq off => Sys2Proof.Machine.execRsRegisterRead rq off s
  | .lowWordRead rq off => Sys2Proof.Machine.execLowWordRead rq off s
  | .misalignedRegisterAccess rq off width write => Sys2Proof.Machine.execMisalignedRegisterAccess rq off width write s
  | .nop st slot => Sys2Proof.Machine.execNop st slot s
  | .tallySet st w => Sys2Proof.Machine.execTallySet st w s
  | .tallyWait st w => Sys2Proof.Machine.execTallyWait st w s
  | .keySet st w => Sys2Proof.Machine.execKeySet st w s
  | .cnt st w => Sys2Proof.Machine.execCnt st w s
  | .scyc st w => Sys2Proof.Machine.execScyc st w s
  | .idle st w => Sys2Proof.Machine.execIdle st w s
  | .idleCountEnd st => Sys2Proof.Machine.execIdleCountEnd st s
  | .loopSet st w => Sys2Proof.Machine.execLoopSet st w s
  | .loopEnd st w => Sys2Proof.Machine.execLoopEnd st w s
  | .jump st w => Sys2Proof.Machine.execJump st w s
  | .stepMark st w => Sys2Proof.Machine.execStepMark st w s
  | .epochSync st w => Sys2Proof.Machine.execEpochSync st w s
  | .page st w => Sys2Proof.Machine.execPage st w s
  | .endDispatch st w => Sys2Proof.Machine.execEndDispatch st w s
  | .caLoad st w => Sys2Proof.Machine.execCaLoad st w s
  | .caLoadComplete st => Sys2Proof.Machine.execCaLoadComplete st s
  | .caRun st w => Sys2Proof.Machine.execCaRun st w s
  | .caRunt st w => Sys2Proof.Machine.execCaRunt st w s
  | .caStore st w => Sys2Proof.Machine.execCaStore st w s
  | .zeroSkipBudgetEnd st => Sys2Proof.Machine.execZeroSkipBudgetEnd st s
  | .zeroSkipRunComplete st => Sys2Proof.Machine.execZeroSkipRunComplete st s
  | .leMul st w => Sys2Proof.Machine.execLeMul st w s
  | .leDiv st w => Sys2Proof.Machine.execLeDiv st w s
  | .leAdd st w => Sys2Proof.Machine.execLeAdd st w s
  | .leSub st w => Sys2Proof.Machine.execLeSub st w s
  | .leNeg st w => Sys2Proof.Machine.execLeNeg st w s
  | .leAbs st w => Sys2Proof.Machine.execLeAbs st w s
  | .leRecip st w => Sys2Proof.Machine.execLeRecip st w s
  | .leSqrt st w => Sys2Proof.Machine.execLeSqrt st w s
  | .leScale st w => Sys2Proof.Machine.execLeScale st w s
  | .leMax st w => Sys2Proof.Machine.execLeMax st w s
  | .leMin st w => Sys2Proof.Machine.execLeMin st w s
  | .leLsum st w => Sys2Proof.Machine.execLeLsum st w s
  | .leLmax st w => Sys2Proof.Machine.execLeLmax st w s
  | .leFromfp st w => Sys2Proof.Machine.execLeFromfp st w s
  | .leTofp st w => Sys2Proof.Machine.execLeTofp st w s
  | .leFromlin st w => Sys2Proof.Machine.execLeFromlin st w s
  | .leTolin st w => Sys2Proof.Machine.execLeTolin st w s
  | .leLdc st w => Sys2Proof.Machine.execLeLdc st w s
  | .veAdd st w => Sys2Proof.Machine.execVeAdd st w s
  | .veSub st w => Sys2Proof.Machine.execVeSub st w s
  | .veMul st w => Sys2Proof.Machine.execVeMul st w s
  | .veFma st w => Sys2Proof.Machine.execVeFma st w s
  | .veAdds st w => Sys2Proof.Machine.execVeAdds st w s
  | .veSubs st w => Sys2Proof.Machine.execVeSubs st w s
  | .veAnd st w => Sys2Proof.Machine.execVeAnd st w s
  | .veOr st w => Sys2Proof.Machine.execVeOr st w s
  | .veXor st w => Sys2Proof.Machine.execVeXor st w s
  | .veShl st w => Sys2Proof.Machine.execVeShl st w s
  | .veShr st w => Sys2Proof.Machine.execVeShr st w s
  | .veSra st w => Sys2Proof.Machine.execVeSra st w s
  | .veMin st w => Sys2Proof.Machine.execVeMin st w s
  | .veMax st w => Sys2Proof.Machine.execVeMax st w s
  | .veAbs st w => Sys2Proof.Machine.execVeAbs st w s
  | .veNeg st w => Sys2Proof.Machine.execVeNeg st w s
  | .veCmp st w => Sys2Proof.Machine.execVeCmp st w s
  | .veSel st w => Sys2Proof.Machine.execVeSel st w s
  | .veRsum st w => Sys2Proof.Machine.execVeRsum st w s
  | .veRmax st w => Sys2Proof.Machine.execVeRmax st w s
  | .veCvt st w => Sys2Proof.Machine.execVeCvt st w s
  | .veQpack st w => Sys2Proof.Machine.execVeQpack st w s
  | .veLdc st w => Sys2Proof.Machine.execVeLdc st w s
  | .ltMove st w => Sys2Proof.Machine.execLtMove st w s
  | .ltGather st w => Sys2Proof.Machine.execLtGather st w s
  | .ltScatter st w => Sys2Proof.Machine.execLtScatter st w s
  | .ltFill st w => Sys2Proof.Machine.execLtFill st w s
  | .heSend st w => Sys2Proof.Machine.execHeSend st w s
  | .heDsend st w => Sys2Proof.Machine.execHeDsend st w s
  | .heFetch st w => Sys2Proof.Machine.execHeFetch st w s
  | .scheduledArrival st => Sys2Proof.Machine.execScheduledArrival st s
  | .dynamicArrivalLands st => Sys2Proof.Machine.execDynamicArrivalLands st s
  | .refetchIssue st => Sys2Proof.Machine.execRefetchIssue st s
  | .refetchDone st row glitch => Sys2Proof.Machine.execRefetchDone st row glitch s
  | .refetchTimeout st row => Sys2Proof.Machine.execRefetchTimeout st row s
  | .scrubIssue st => Sys2Proof.Machine.execScrubIssue st s
  | .scrubReadPromote st bank => Sys2Proof.Machine.execScrubReadPromote st bank s
  | .scrubRead st bank => Sys2Proof.Machine.execScrubRead st bank s
  | .scrubLate st => Sys2Proof.Machine.execScrubLate st s
  | .gleanRead st row => Sys2Proof.Machine.execGleanRead st row s
  | .bridgeAccess off wr => Sys2Proof.Machine.execBridgeAccess off wr s
  | .rowSel v => Sys2Proof.Machine.execRowSel v s
  | .debugEnable v => Sys2Proof.Machine.execDebugEnable v s
  | .freezeStart p => Sys2Proof.Machine.execFreezeStart p s
  | .raisedHoldRelease st => Sys2Proof.Machine.execRaisedHoldRelease st s
  | .freezeEnd p => Sys2Proof.Machine.execFreezeEnd p s
  | .holdTimeout p => Sys2Proof.Machine.execHoldTimeout p s
  | .faultStopEnd p => Sys2Proof.Machine.execFaultStopEnd p s
  | .stepRerun p => Sys2Proof.Machine.execStepRerun p s
  | .dispatchStart p => Sys2Proof.Machine.execDispatchStart p s
  | .dispatchReply p => Sys2Proof.Machine.execDispatchReply p s
  | .dynamicPacketForward r o => Sys2Proof.Machine.execDynamicPacketForward r o s
  | .fetchResponse port id glitch => Sys2Proof.Machine.execFetchResponse port id glitch s
  | .receiverDetectPulse n lanes => Sys2Proof.Machine.execReceiverDetectPulse n lanes s
  | .trainingFrame n ctrl ready => Sys2Proof.Machine.execTrainingFrame n ctrl ready s
  | .trainTimeout n => Sys2Proof.Machine.execTrainTimeout n s
  | .lockTimeout n => Sys2Proof.Machine.execLockTimeout n s
  | .capsTimeout n => Sys2Proof.Machine.execCapsTimeout n s
  | .blindBringUp u => Sys2Proof.Machine.execBlindBringUp u s
  | .alignmentMarker n lane run bits => Sys2Proof.Machine.execAlignmentMarker n lane run bits s
  | .lossOfSignal n => Sys2Proof.Machine.execLossOfSignal n s
  | .uncorrectableCodeword n rows frames => Sys2Proof.Machine.execUncorrectableCodeword n rows frames s
  | .automaticRetrain n missed => Sys2Proof.Machine.execAutomaticRetrain n missed s
  | .capabilityRecord n c => Sys2Proof.Machine.execCapabilityRecord n c s
  | .cyc n count => Sys2Proof.Machine.execCyc n count s
  | .cycEcho n arg => Sys2Proof.Machine.execCycEcho n arg s
  | .driftProbe n diff => Sys2Proof.Machine.execDriftProbe n diff s
  | .scheduledRow n tag data => Sys2Proof.Machine.execScheduledRow n tag data s
  | .sheafDelayRelease n => Sys2Proof.Machine.execSheafDelayRelease n s
  | .dynamicRow n num tag data => Sys2Proof.Machine.execDynamicRow n num tag data s
  | .ack n arg => Sys2Proof.Machine.execAck n arg s
  | .nak n arg => Sys2Proof.Machine.execNak n arg s
  | .ackDue n => Sys2Proof.Machine.execAckDue n s
  | .nakSuppressEnd n => Sys2Proof.Machine.execNakSuppressEnd n s
  | .ackTimeout n => Sys2Proof.Machine.execAckTimeout n s
  | .linkReq n arg => Sys2Proof.Machine.execLinkReq n arg s
  | .linkAck n arg => Sys2Proof.Machine.execLinkAck n arg s
  | .linkReqResend port => Sys2Proof.Machine.execLinkReqResend port s
  | .backoffEnd port => Sys2Proof.Machine.execBackoffEnd port s
  | .epoch n arg => Sys2Proof.Machine.execEpoch n arg s
  | .holdRaise n arg => Sys2Proof.Machine.execHoldRaise n arg s
  | .holdRelease n arg => Sys2Proof.Machine.execHoldRelease n arg s
  | .stepFault n arg => Sys2Proof.Machine.execStepFault n arg s
  | .spanEnd n arg => Sys2Proof.Machine.execSpanEnd n arg s
  | .holdUpwardSend p => Sys2Proof.Machine.execHoldUpwardSend p s
  | .holdDownwardSend p => Sys2Proof.Machine.execHoldDownwardSend p s
  | .hawker n arg => Sys2Proof.Machine.execHawker n arg s
  | .spanForm n r => Sys2Proof.Machine.execSpanForm n r s
  | .spanJoinTimeout p => Sys2Proof.Machine.execSpanJoinTimeout p s
  | .dispatchPost n r => Sys2Proof.Machine.execDispatchPost n r s
  | .moduleLost port => Sys2Proof.Machine.execModuleLost port s
  | .linkLost n a b => Sys2Proof.Machine.execLinkLost n a b s
  | .linkRestored n a b => Sys2Proof.Machine.execLinkRestored n a b s
  | .serveChoice n span round count => Sys2Proof.Machine.execServeChoice n span round count s
  | .serveChoiceAck n span round => Sys2Proof.Machine.execServeChoiceAck n span round s
  | .freqDemand n node fcode reasons => Sys2Proof.Machine.execFreqDemand n node fcode reasons s
  | .ringRow n tag data => Sys2Proof.Machine.execRingRow n tag data s
  | .cut p => Sys2Proof.Machine.execCut p s
  | .admissionRowsLanded p => Sys2Proof.Machine.execAdmissionRowsLanded p s
  | .hubWriteRequest port => Sys2Proof.Machine.execHubWriteRequest port s
  | .reqTail p v => Sys2Proof.Machine.execReqTail p v s
  | .repHead p k v => Sys2Proof.Machine.execRepHead p k v s
  | .adapterPlaced p slot => Sys2Proof.Machine.execAdapterPlaced p slot s
  | .adapterLoadTimeout p slot => Sys2Proof.Machine.execAdapterLoadTimeout p slot s
  | .swapCheckDone p bad => Sys2Proof.Machine.execSwapCheckDone p bad s
  | .swapWritePassStart p => Sys2Proof.Machine.execSwapWritePassStart p s
  | .swapWritePassDone p bad => Sys2Proof.Machine.execSwapWritePassDone p bad s
  | .patrolRead block glitch => Sys2Proof.Machine.execPatrolRead block glitch s
  | .wck2dqRetrain ch ok => Sys2Proof.Machine.execWck2dqRetrain ch ok s
  | .fence rq => Sys2Proof.Machine.execFence rq s
  | .fabricTimeout port posted off => Sys2Proof.Machine.execFabricTimeout port posted off s
  | .lockAcquire range limit => Sys2Proof.Machine.execLockAcquire range limit s
  | .hwinWrite rq off v => Sys2Proof.Machine.execHwinWrite rq off v s
  | .cmdqEnable f v => Sys2Proof.Machine.execCmdqEnable f v s
  | .cmdqDisable f v => Sys2Proof.Machine.execCmdqDisable f v s
  | .doorbell f v => Sys2Proof.Machine.execDoorbell f v s
  | .packetRead f fail => Sys2Proof.Machine.execPacketRead f fail s
  | .ping k => Sys2Proof.Machine.execPing k s
  | .queryInfo k => Sys2Proof.Machine.execQueryInfo k s
  | .partCreate k => Sys2Proof.Machine.execPartCreate k s
  | .partDestroy k => Sys2Proof.Machine.execPartDestroy k s
  | .spanJoin k => Sys2Proof.Machine.execSpanJoin k s
  | .spanLeave k => Sys2Proof.Machine.execSpanLeave k s
  | .imageLoad k => Sys2Proof.Machine.execImageLoad k s
  | .imageVerify k => Sys2Proof.Machine.execImageVerify k s
  | .dispatch k => Sys2Proof.Machine.execDispatch k s
  | .halt k => Sys2Proof.Machine.execHalt k s
  | .stepStatus k => Sys2Proof.Machine.execStepStatus k s
  | .granaryPutCreate k => Sys2Proof.Machine.execGranaryPutCreate k s
  | .granaryPutFree k => Sys2Proof.Machine.execGranaryPutFree k s
  | .granaryPutWrite k => Sys2Proof.Machine.execGranaryPutWrite k s
  | .granaryGetRead k => Sys2Proof.Machine.execGranaryGetRead k s
  | .granaryGetInfo k => Sys2Proof.Machine.execGranaryGetInfo k s
  | .modelSwap k => Sys2Proof.Machine.execModelSwap k s
  | .adapterLoad k => Sys2Proof.Machine.execAdapterLoad k s
  | .adapterRetire k => Sys2Proof.Machine.execAdapterRetire k s
  | .serveOpen k => Sys2Proof.Machine.execServeOpen k s
  | .serveClose k => Sys2Proof.Machine.execServeClose k s
  | .linkTrain k => Sys2Proof.Machine.execLinkTrain k s
  | .linkWidth k => Sys2Proof.Machine.execLinkWidth k s
  | .linkStatus k => Sys2Proof.Machine.execLinkStatus k s
  | .freqSet k => Sys2Proof.Machine.execFreqSet k s
  | .powerState k => Sys2Proof.Machine.execPowerState k s
  | .ledgerRead k => Sys2Proof.Machine.execLedgerRead k s
  | .ledgerSeal k => Sys2Proof.Machine.execLedgerSeal k s
  | .auxLoopback k => Sys2Proof.Machine.execAuxLoopback k s
  | .functionLevelReset k => Sys2Proof.Machine.execFunctionLevelReset k s
  | .flushRecord mv confirmed => Sys2Proof.Machine.execFlushRecord mv confirmed s
  | .cellReadyChange ready mv => Sys2Proof.Machine.execCellReadyChange ready mv s
  | .isoStatusFrame f => Sys2Proof.Machine.execIsoStatusFrame f s
  | .skewTrim skew => Sys2Proof.Machine.execSkewTrim skew s
  | .guardBandEnd f => Sys2Proof.Machine.execGuardBandEnd f s
  | .adcSample code dip => Sys2Proof.Machine.execAdcSample code dip s
  | .trigger v => Sys2Proof.Machine.execTrigger v s
  | .thermalTrip ch deg => Sys2Proof.Machine.execThermalTrip ch deg s
  | .stallWakeDone st => Sys2Proof.Machine.execStallWakeDone st s
  | .addrAssign f => Sys2Proof.Machine.execAddrAssign f s
  | .chainRead f => Sys2Proof.Machine.execChainRead f s
  | .chainWrite f => Sys2Proof.Machine.execChainWrite f s
  | .setNode f => Sys2Proof.Machine.execSetNode f s
  | .wake f => Sys2Proof.Machine.execWake f s
  | .reset f => Sys2Proof.Machine.execReset f s
  | .attnPoll f => Sys2Proof.Machine.execAttnPoll f s
  | .attnAck f => Sys2Proof.Machine.execAttnAck f s
  | .flashWrite f => Sys2Proof.Machine.execFlashWrite f s
  | .flashRead f => Sys2Proof.Machine.execFlashRead f s
  | .enrollOwner f => Sys2Proof.Machine.execEnrollOwner f s
  | .enrollCommit f => Sys2Proof.Machine.execEnrollCommit f s
  | .chainFrameForward f => Sys2Proof.Machine.execChainFrameForward f s
  | .modResetN level lowUs => Sys2Proof.Machine.execModResetN level lowUs s
  | .sysResetWarm v => Sys2Proof.Machine.execSysResetWarm v s
  | .sysResetCold v => Sys2Proof.Machine.execSysResetCold v s
  | .bootStageDone r => Sys2Proof.Machine.execBootStageDone r s
  | .stemPortDown port => Sys2Proof.Machine.execStemPortDown port s
  | .bypass tdi => Sys2Proof.Machine.execBypass tdi s
  | .samplePreload cells => Sys2Proof.Machine.execSamplePreload cells s
  | .eringEnable f v => Sys2Proof.Machine.execEringEnable f v s
  | .eventEntryWrite f fail => Sys2Proof.Machine.execEventEntryWrite f fail s
  | .zeroizationDone p => Sys2Proof.Machine.execZeroizationDone p s
  | .placementDone p => Sys2Proof.Machine.execPlacementDone p s
  | .verificationDone p => Sys2Proof.Machine.execVerificationDone p s
  | .granaryCopyDone f tag glitch => Sys2Proof.Machine.execGranaryCopyDone f tag glitch s
  | .pcieConfigAccess numVfs => Sys2Proof.Machine.execPcieConfigAccess numVfs s
  | .bridgeRowRead => Sys2Proof.Machine.execBridgeRowRead s
  | .ringRowDepart => Sys2Proof.Machine.execRingRowDepart s
  | .revolutionBoundary => Sys2Proof.Machine.execRevolutionBoundary s
  | .lockRelease => Sys2Proof.Machine.execLockRelease s
  | .lockExpired => Sys2Proof.Machine.execLockExpired s
  | .drainEnd => Sys2Proof.Machine.execDrainEnd s
  | .checkpoint => Sys2Proof.Machine.execCheckpoint s
  | .granMibSeconds => Sys2Proof.Machine.execGranMibSeconds s
  | .journalWrite => Sys2Proof.Machine.execJournalWrite s
  | .busbarLoss => Sys2Proof.Machine.execBusbarLoss s
  | .busbarValid => Sys2Proof.Machine.execBusbarValid s
  | .cellOff => Sys2Proof.Machine.execCellOff s
  | .isoLinkLost => Sys2Proof.Machine.execIsoLinkLost s
  | .epochDecision => Sys2Proof.Machine.execEpochDecision s
  | .epochBoundary => Sys2Proof.Machine.execEpochBoundary s
  | .epochMissed => Sys2Proof.Machine.execEpochMissed s
  | .telemPeriodTrigger => Sys2Proof.Machine.execTelemPeriodTrigger s
  | .brakeAssert => Sys2Proof.Machine.execBrakeAssert s
  | .brakeRelease => Sys2Proof.Machine.execBrakeRelease s
  | .moduleWakeDone => Sys2Proof.Machine.execModuleWakeDone s
  | .attnPulse => Sys2Proof.Machine.execAttnPulse s
  | .attnStuck => Sys2Proof.Machine.execAttnStuck s
  | .watchdog => Sys2Proof.Machine.execWatchdog s
  | .powerOnReset => Sys2Proof.Machine.execPowerOnReset s
  | .coldReset => Sys2Proof.Machine.execColdReset s
  | .warmReset => Sys2Proof.Machine.execWarmReset s
  | .pcieReset => Sys2Proof.Machine.execPcieReset s
  | .idcode => Sys2Proof.Machine.execIdcode s
  | .extest => Sys2Proof.Machine.execExtest s
  | .loopbackDurationEnd => Sys2Proof.Machine.execLoopbackDurationEnd s
  | .loopbackLockTimeout => Sys2Proof.Machine.execLoopbackLockTimeout s

end Sys2Proof.Machine
end

