-- ==== Sys2Proof/Machine/Engines.lean ====
section
/-! DEFINITION. Operations in progress: one schedule cycle of each (02 R39, R50, R636, 04 R633, 09 R246). -/

namespace Sys2Proof.Machine

/-- The operation of either engine that an opcode names (09 Table 9.4). -/
def laneFn (vec : Bool) (opc : Byte) : Option LaneFn := if vec then veFn opc else leFn opc

/-- One schedule cycle of an operation in progress. -/
def State.opCc (s : State) (st : Fin 64) (o : Op) : State × Op :=
  match o.work with
  | .count .. => s.ctlOpCc st o
  | .words .. => s.ctlOpCc st o
  | .page row line held bad => s.pageCc st row line held bad o
  | .load a0 a1 a2 planes book tset => s.loadCc st a0 a1 a2 planes book tset o
  | .run p transposed add base slot steps step cyc passes act =>
    s.runCaCc st p transposed add base slot steps step cyc passes act o
  | .store base rows => s.storeCc st base rows o
  | .lanes vec r k res prev =>
    match laneFn vec o.opc with
    | some l => s.laneCc st l r k res prev o
    | none => (s, o.next o.work)
  | .qpack r k cur tiles => s.qpackCc st r k cur tiles o
  | .ldc .. => (s, o.next o.work)
  | .moveRows sd dd w read => s.moveRowsCc st sd dd w read o
  | .moveTiles sd dd old cur => s.moveTilesCc st sd dd old cur o
  | .gather scatter d ib ob rs w n idx read => s.gatherCc st scatter d ib ob rs w n idx read o
  | .fill d => s.fillCc st d o
  | .send src dst n rate ctr span => s.sendCc st src dst n rate ctr span o
  | .dsend fid src got pkts => s.dsendCc st fid src got pkts o

/-- The Stall's schedule is held: its dispatch runs and is frozen (02 R39). -/
def State.paused (s : State) (st : Fin 64) : Bool :=
  match s.running st with | some (_, d) => d.frozen | none => false

/-- An operation has its next cycle in this cc: in a cycle that is not frozen, and after the dispatch has ended; a run whose
zero-skip Hold is outstanding in frozen cycles too (02 R39, R50, 09 R246). -/
def State.moves (s : State) (st : Fin 64) (o : Op) : Bool :=
  !s.paused st || (o.isRun && (s.stl st).seq.holds.any RaisedHold.isRun)

/-- The operations of a Stall that a test picks have their cycle, in the order of their issue (log 3). -/
def State.opsCc (s : State) (st : Fin 64) (pick : Op → Bool) : State :=
  if !(s.stl st).ops.any pick then s
  else
    let (t, l) := (s.stl st).ops.foldl (fun (e : State × List Op) o =>
      if pick o && s.moves st o then
        let (t, o) := e.1.opCc st o
        (t, e.2 ++ [o])
      else (e.1, e.2 ++ [o])) (s, [])
    t.modStl st (fun x => { x with ops := l })

/-- A PAGE, which comes after the other operations of the control slot (04 R633). -/
def Op.isPage (o : Op) : Bool := match o.work with | .page .. => true | _ => false

/-- The start of a cc: operations that have had their last cycle are no longer in progress, an LDC's constants are loaded, and
a zero-skip run has one schedule cycle less to its hold point (06 R175, 07 R189). -/
def State.startOps (s : State) (st : Fin 64) : State :=
  let ends (o : Op) : Bool := o.over && s.moves st o
  let done := (s.stl st).ops.filter ends
  let s := if done.isEmpty then s else s.modStl st (fun x => { x with ops := x.ops.filter (fun o => !ends o) })
  let s := done.foldl (fun s o => match o.work with
    | .ldc vec ws => s.modStl st (fun x => x.setConst vec ws)
    | _ => s) s
  if s.paused st then s
  else
    match (s.stl st).ca.zs with
    | some z => s.modCa st (fun c => { c with zs := some { z with left := z.left - 1 } })
    | none => s

end Sys2Proof.Machine
end

