-- ==== Sys2Proof/Machine/Transmit.lean ====
section
/-! DEFINITION. What a sheaf sends in each codeword time: codewords, alignment markers, training frames (11 R287 to R291, R295,
R304, R306, R309). The phase of the codeword times is the model's (DESIGN CHOICE, log 65). -/

namespace Sys2Proof.Machine

/-! Framing symbols (11 R304). -/

/-- The place of a symbol in the order of priority. -/
def symClass (f : BitVec 4) : Nat :=
  if f.toNat ≤ 4 then 0 else if f = 5 || f = 6 then 1 else if f = 7 then 3 else if f.toNat ≤ 0xA then 2 else 4

/-- The pending symbol that goes first: the oldest of the first class. -/
def nextSymbol (l : List (BitVec 4 × BitVec 26)) : Option (BitVec 4 × BitVec 26) :=
  (List.range 5).findSome? (fun c => l.find? (fun e => symClass e.1 = c))

/-- The argument as it is sent: CYC carries the count, CYC_ECHO the cc since the probe came, ACK the row expected now (11 R299,
R309). -/
def Sheaf.argument (h : Sheaf) (cycle : Nat) (e : BitVec 4 × BitVec 26) : BitVec 26 :=
  if e.1 = 0xB then BitVec.ofNat 26 cycle
  else if e.1 = 0xC then
    BitVec.ofNat 26 (e.2.toNat / 8192 * 8192 + (cycle % 8192 + 8192 - e.2.toNat % 8192) % 8192)
  else if e.1 = 7 then h.rxE.setWidth 26
  else e.2

/-- The symbol of the next codeword, in CAPS and ACTIVE: 0 with none pending. -/
def State.takeSymbol (s : State) (n : Fin 20) : (BitVec 4 × BitVec 26) × State :=
  let h := s.sheaf n
  if h.state ≠ .caps && h.state ≠ .active then ((0, 0), s)
  else
    match nextSymbol h.tx.syms with
    | none => ((0, 0), s)
    | some e =>
      let a := h.argument s.cycle e
      ((e.1, a), (s.modSheaf n (fun h => { h with tx := { h.tx with syms := h.tx.syms.erase e } })).emit (.symbol n e.1 a))

/-! Slots (11 R306). -/

/-- The 128 bytes of a control record: Table 11.8 gives those of the capability record; the others' are open (log 65). -/
def recordData (kind : Byte) (ws : List Nat) : Row :=
  if kind = 1 then Vector.ofFn (fun i : Fin 32 => BitVec.ofNat 32 (ws.getD i.val 0)) else Config.recordRow kind.toNat ws

/-- The number of the first dynamic row that a sheaf sends next (11 Table 11.3, R309). -/
def Sheaf.nextRow (h : Sheaf) : BitVec 10 := match h.tx.again with | r :: _ => r.1 | [] => h.txNext

/-- A new dynamic row, numbered, while fewer than 512 are unacknowledged (11 R309). A row that this module forwards is none of
its partitions' (18 Table 18.8). -/
def State.takeNew (s : State) (n : Fin 20) : List Bool × State :=
  let h := s.sheaf n
  match h.txq with
  | [] => (emptySlot, s)
  | d :: l =>
    if 512 ≤ h.unacked.length || s.ringSheaf n then (emptySlot, s)
    else
      let t := if h.unacked.isEmpty then s.now else h.ackAt
      let s := s.modSheaf n (fun h => { h with txq := l, txNext := h.txNext + 1, unacked := h.unacked ++ [(h.txNext, d)], ackAt := t })
      let s := s.emit (.row n d.tag d.arr.data)
      (slotBits d.tag d.arr.data, if d.arr.sheaf then s else s.count d.part 4 128)

/-- The next slot: a scheduled row, a control record, a dynamic row again, a new one, or empty; test rows in a sheaf that is up
blind and has locked (11 R297, R306). -/
def State.takeSlot (s : State) (n : Fin 20) : List Bool × State :=
  let h := s.sheaf n
  let locked : Bool := match s.jobDiag with | some (_, m, _, e) => m = n && e ≠ 0 | none => false
  if h.state = .blind then
    if locked then (bitsOf (Config.testSlot s.freeCtr) 1088, { s with freeCtr := s.freeCtr + 1 }) else (emptySlot, s)
  else
    match h.tx.sched, h.tx.recs, h.tx.again with
    | r :: l, _, _ =>
      (slotBits r.1 r.2, (s.modSheaf n (fun h => { h with tx := { h.tx with sched := l } })).emit (.row n r.1 r.2))
    | [], r :: l, _ =>
      (slotBits (recordTag r.1) (recordData r.1 r.2),
        (s.modSheaf n (fun h => { h with tx := { h.tx with recs := l } })).emit (.record n r.1 r.2))
    | [], [], r :: l =>
      (slotBits r.2.tag r.2.arr.data,
        (s.modSheaf n (fun h => { h with dynRetry := satAdd h.dynRetry 1, tx := { h.tx with again := l } })).emit
          (.row n r.2.tag r.2.arr.data))
    | [], [], [] => if h.state = .active then s.takeNew n else (emptySlot, s)

/-- Slots begin until the codeword's 5,100 bits of the slot stream are there. -/
def State.fillSlots (s : State) (n : Fin 20) : Nat → State
  | 0 => s
  | k + 1 =>
    if 5100 ≤ (s.sheaf n).tx.bits.length then s
    else
      let (b, s) := s.takeSlot n
      (s.modSheaf n (fun h => { h with tx := { h.tx with bits := h.tx.bits ++ b } })).fillSlots n k

/-! Codewords and markers (11 R288 to R291). -/

/-- The lanes of a codeword with a header and bits of the slot stream, and the scrambler after it. -/
def codewordUi (scr : BitVec 31) (hdr : BitVec 40) (bits : List Bool) : List (List Pam) × BitVec 31 :=
  let (m, scr) := scramble scr (bitsOf hdr 40 ++ bits)
  (stripe (rsCodeword m), scr)

/-- A codeword leaves. A sheaf in CAPS puts its capability record into every superframe (11 R296). -/
def State.sendCodeword (s : State) (n : Fin 20) : State :=
  let h := s.sheaf n
  let s := if h.state = .caps && h.tx.cw % 16 = 0 then s.sendCaps n else s
  let dseq := (s.sheaf n).nextRow
  let (e, s) := s.takeSymbol n
  let s := s.fillSlots n 5
  let x := (s.sheaf n).tx
  let (ui, scr) := codewordUi x.scr (cwHeader e.1 e.2 dseq) (x.bits.take 5100)
  (s.modSheaf n (fun h => { h with tx := { h.tx with cw := h.tx.cw + 1, scr := scr, bits := h.tx.bits.drop 5100 } })).emit (.line n ui)

/-- An alignment marker leaves: the comma on each lane; the scrambler starts anew after it (11 R289, R291). -/
def State.sendMark (s : State) (n : Fin 20) : State :=
  let h := s.sheaf n
  let ui := (List.range 16).map (fun p => commaUi (commaWord p n.val h.tx.count h.state.code))
  (s.modSheaf n (fun h => { h with tx := { h.tx with
    cw := 0, count := h.tx.count + 1, scr := scrSeed n.val, bits := [], mark := some (s.cycle, h.tx.count) } })).emit (.line n ui)

/-- A block of a training frame leaves; the control block is fixed as the frame begins (11 R295). -/
def State.sendBlock (s : State) (n : Fin 20) : State :=
  let s := if (s.sheaf n).tx.block = 0 then s.sendTrain n else s
  let h := s.sheaf n
  let ui := (List.range 16).map (fun p => trainUi n.val p h.tx.block h.tx.count h.state.code h.tx.ctrl)
  (s.modSheaf n (fun h => { h with tx := { h.tx with block := (h.tx.block + 1) % 16 } })).emit (.line n ui)

/-- What 4,096 codewords and a marker make of a codeword time (11 R291). -/
def State.sendFrame (s : State) (n : Fin 20) : State :=
  if 4096 ≤ (s.sheaf n).tx.cw then s.sendMark n else s.sendCodeword n

/-- A codeword has come whose symbols FEC corrected: how many is the line's doing, at most 15 (11 Table 11.10; free, log 65). -/
def State.fecCc (s : State) (n : Fin 20) : State :=
  let (w, s) := s.draw
  let k := w.toNat % 16
  s.modSheaf n (fun h => { h with fecCorr := satAdd h.fecCorr (if k = 0 then 0 else 1), fecSym := satAdd h.fecSym k })

/-- Every 32 codewords an ACTIVE sheaf sends ACK, and every 2^16 a probe (11 R302, R309). -/
def State.codewordDue (s : State) (n : Fin 20) : State :=
  let s := s.modSheaf n (fun h => { h with tx := { h.tx with sent := h.tx.sent + 1 } })
  let h := s.sheaf n
  if h.state ≠ .active then s
  else
    let s := if h.tx.sent % 32 = 0 then s.sendSymbol n 7 (h.rxE.setWidth 26) else s
    if h.tx.sent % 65536 = 0 then s.sendProbe n else s

/-- One codeword time of a sheaf (11 Table 11.7). -/
def State.lineTime (s : State) (n : Fin 20) : State :=
  let h := s.sheaf n
  if h.state = .train || (h.state = .blind && decide (s.now < h.since + 1000000000)) then s.sendBlock n
  else if h.framed then ((s.fecCc n).codewordDue n).sendFrame n
  else s

/-- The codeword times of a sheaf that begin in this cc. -/
def State.lineCc (s : State) (times : Nat) (n : Fin 20) : State :=
  (List.range times).foldl (fun s _ => s.lineTime n) s

end Sys2Proof.Machine
end

