-- ==== Sys2Proof/Machine/Tick.lean ====
section
/-! DEFINITION. The block's own time: what step does on an empty queue (log 19). One core clock cycle performs every
event of the table whose cycle the spec fixes; what depends on the outside, or what the spec bounds only from above,
comes as a command (log 49). -/

namespace Sys2Proof.Machine

/-- The state that a command's meaning leaves. -/
def State.does (s : State) (c : State → Answer) : State :=
  match c s with
  | .next t => t
  | _ => s

def allStalls : List (Fin 64) := List.finRange 64
def allParts : List (Fin 64) := List.finRange 64
def allSheaves : List (Fin 20) := List.finRange 20
def allPorts : List (Fin 8) := List.finRange 8

/-- The fraction of a ps in which time is kept, so that every cc of 1,000,000 / (200 + 50 × FCODE) ns counts exactly (00 R9): the
least common multiple of 4 + FCODE for every FCODE. -/
def psUnit : Nat := 144403552893600

/-- Time passes; the always-on tick counter counts 32,768 a second (19 R577). -/
def State.elapse (s : State) (ps : Nat) : State :=
  let t := s.now + ps
  let n := t * 32768 / 1000000000000 - s.now * 32768 / 1000000000000
  { s with now := t, pwr := { s.pwr with ticks := s.pwr.ticks + n } }

/-- One cc passes: 20,000 / (4 + FCODE) ps (00 R9, 19 Table 19.7). -/
def State.elapseCc (s : State) : State :=
  let u := s.frac + 20000 * psUnit / (4 + s.clk.fcode.toNat)
  { s.elapse (u / psUnit) with frac := u % psUnit }

/-! The start of a cc. -/

/-- What the model keeps of one cc begins anew; Holds released before this cc are forgotten. -/
def Stall.newCc (x : Stall) (cyc ticks : Nat) : Stall :=
  let keep (h : RaisedHold) : Bool := match h.released with | some u => decide (cyc ≤ u) | none => true
  let seq := { x.seq with ccs := [], loopWas := none, holds := x.seq.holds.filter keep }
  let pad := { x.pad with
    first := [], acc := [], served := [], bitsNew := (false, false), scrubTicks := if x.scrubs then x.pad.scrubTicks + ticks else x.pad.scrubTicks }
  { x with seq := seq, pad := pad, rt := { x.rt with held := [], sent := [] } }

/-- PC after a bundle has issued: the address a control operation named, else PC + 1; past 16,383 it stays there (09 R231,
R249). -/
def Seq.advance (q : Seq) : Seq :=
  if !q.issued then q
  else
    match q.branch with
    | some t => { q with pc := t, branch := none, issued := false, past := false, redo := none }
    | none =>
      if q.pc = 0x3FFF then { q with issued := false, past := true, redo := none }
      else { q with pc := q.pc + 1, issued := false, redo := none }

/-- A partition's schedule cycle goes on unless the last cc was frozen (02 R38). -/
def State.advanceSched (s : State) (p : Fin 64) : State :=
  match (s.part p).disp with
  | none => s
  | some d =>
    if d.frozen then s
    else
      let s := s.modDisp p (fun d => { d with sched := d.sched + 1 })
      (s.part p).members.foldl (fun s st => s.modSeq st (fun q => { q with sched := d.sched + 1 })) s

/-- Count 0 of the Ledger, and a cc of dispatch time (18 Table 18.8, 19 R559, Table 19.6). -/
def State.runCc (s : State) (p : Fin 64) : State :=
  let n := (s.part p).members.length
  s.modPart p (fun q =>
    { q with newRun := n, freshPs := q.freshPs + ccPs s.clk.fcode, epochRun := q.epochRun + 1 })

def State.isRunning (s : State) (p : Fin 64) : Bool := (s.part p).disp.isSome
def State.isFrozen (s : State) (p : Fin 64) : Bool :=
  match (s.part p).disp with | some d => d.frozen | none => false

/-- Count 1 of the Ledger: a frozen cc (18 Table 18.8; log 54). -/
def State.frozenCc (s : State) (p : Fin 64) : State :=
  if s.isRunning p && !(s.part p).thawed s.cycle then
    let n := (s.part p).members.length
    s.modPart p (fun q => { q with newFrozen := n })
  else s

/-- A partition at the start of a cc: releases, the hold tree, fault stops, freezes and reruns. -/
def State.freezeCc (s : State) (p : Fin 64) : State :=
  let s := (s.part p).members.foldl (fun s st => s.does (execRaisedHoldRelease st)) s
  let s := (s.does (execHoldUpwardSend p)).does (execHoldDownwardSend p)
  let s := ((s.does (execFaultStopEnd p)).frozenCc p).does (execHoldTimeout p)
  let s := ((s.does (execFreezeEnd p)).does (execStepRerun p)).does (execFreezeStart p)
  let s := (s.cutOps p).restoreStep p
  if s.isFrozen p then s.modDisp p (fun d => { d with freezePs := d.freezePs + ccPs s.clk.fcode }) else s

/-- A waiting dispatch starts, and its first cc counts. -/
def State.startCc (s : State) (p : Fin 64) : State :=
  if s.isRunning p then s
  else
    let s := s.does (execDispatchStart p)
    if s.isRunning p then s.runCc p else s

/-! Work of the schedule cycle that has begun. -/

/-- A Stall whose dispatch runs and is not frozen. -/
def State.live (s : State) (st : Fin 64) : Bool :=
  match s.running st with | some (_, d) => !d.frozen | none => false

/-- What a Stall has due at the start of a cc. -/
def State.dueCc (s : State) (st : Fin 64) : State :=
  let s := ((s.startOps st).does (execCaLoadComplete st)).does (execZeroSkipRunComplete st)
  if s.live st then s.does (execIdleCountEnd st) else s

/-! The Market's scheduled class (10 R260 to R269). -/

/-- A row that an output takes in a schedule cycle; `first` when it is the lowest of its group (10 R260, R262). -/
def State.take (s : State) (f : Flight) (cyc : Nat) (first : Bool) (o : Fin 5) : State :=
  let s := s.modRt f.node (fun x => { x with held := o :: x.held })
  match portEnd f.node o with
  | .router t i lat =>
    let g := { f with node := t, inp := some i, due := cyc + lat, arr := s.crossed f.node t lat f.arr }
    { s with flights := s.flights ++ [g] }
  | .stall => { s with flights := s.flights ++ [{ f with inp := none, due := cyc + 1 }] }
  | .sheaf n =>
    if !first then s.marketDrop f.node f.part f.arr
    else if s.scheduled n then (s.sendRow n (f.tag cyc) f.arr.data).count f.part 4 128
    else s.sheafLost n
  | _ => s.marketDrop f.node f.part f.arr

/-- A row at a router's input: every output that selects it takes a copy; with none it is dropped (10 R266, R267). -/
def State.route (s : State) (cyc : Nat) (l : List Flight) (f : Flight) : State :=
  match f.inp with
  | none => s
  | some i =>
    let outs := (s.stl f.node).rt.takers f.part i cyc
    let first := !l.any (fun g => g.node = f.node && g.inp = f.inp && decide (g.arr.row < f.arr.row))
    if outs.isEmpty then s.marketDrop f.node f.part f.arr
    else outs.foldl (fun s o => s.take f cyc first o) s

/-- The scheduled rows of a partition that are at a router's input in this schedule cycle. -/
def State.marketCc (s : State) (p : Fin 64) : State :=
  match (s.part p).disp with
  | none => s
  | some d =>
    if d.frozen then s
    else
      let at' (f : Flight) : Bool := f.part = p && f.inp.isSome && decide (f.due ≤ d.sched)
      let l := s.flights.filter at'
      l.foldl (fun s f => s.route d.sched l f) { s with flights := s.flights.filter (fun f => !at' f) }

/-! Issue (09 R231 to R239). -/

/-- The bundle at PC. -/
def Seq.bundle (q : Seq) : BitVec 256 := Tab.getD q.store q.pc.toNat 0

/-- The control slot and the engine slots of a bundle (09 Table 9.1): slot 1 CA to slot 5 HE. -/
def ctlSlot (b : BitVec 256) : BitVec 96 := b.extractLsb' 160 96
def engSlot (b : BitVec 256) (slot : Nat) : Word := b.extractLsb' (160 - 32 * slot) 32

/-- The meaning of a control operation (09 Table 9.5). -/
def ctlCommand (st : Fin 64) (w : BitVec 96) : Option (State → Answer) :=
  match fld w 95 88 with
  | 0x01 => some (execTallySet st w)
  | 0x02 => some (execTallyWait st w)
  | 0x03 => some (execKeySet st w)
  | 0x04 => some (execCnt st w)
  | 0x05 => some (execScyc st w)
  | 0x06 => some (execIdle st w)
  | 0x10 => some (execLoopSet st w)
  | 0x11 => some (execLoopEnd st w)
  | 0x12 => some (execJump st w)
  | 0x20 => some (execStepMark st w)
  | 0x21 => some (execEpochSync st w)
  | 0x30 => some (execPage st w)
  | 0x3F => some (execEndDispatch st w)
  | _ => none

/-- The meanings of the engine slots (09 Table 9.4). -/
def caCommand (st : Fin 64) (w : Word) : Option (State → Answer) :=
  match slotOpc w with
  | 0x01 => some (execCaLoad st w)
  | 0x02 => some (execCaRun st w)
  | 0x03 => some (execCaRunt st w)
  | 0x04 => some (execCaStore st w)
  | _ => none

def leCommand (st : Fin 64) (w : Word) : Option (State → Answer) :=
  match slotOpc w with
  | 0x01 => some (execLeMul st w)
  | 0x02 => some (execLeDiv st w)
  | 0x03 => some (execLeAdd st w)
  | 0x04 => some (execLeSub st w)
  | 0x05 => some (execLeNeg st w)
  | 0x06 => some (execLeAbs st w)
  | 0x07 => some (execLeRecip st w)
  | 0x08 => some (execLeSqrt st w)
  | 0x09 => some (execLeScale st w)
  | 0x0A => some (execLeMax st w)
  | 0x0B => some (execLeMin st w)
  | 0x0C => some (execLeLsum st w)
  | 0x0D => some (execLeLmax st w)
  | 0x0E => some (execLeFromfp st w)
  | 0x0F => some (execLeTofp st w)
  | 0x10 => some (execLeFromlin st w)
  | 0x11 => some (execLeTolin st w)
  | 0x12 => some (execLeLdc st w)
  | _ => none

def veCommand (st : Fin 64) (w : Word) : Option (State → Answer) :=
  match slotOpc w with
  | 0x01 => some (execVeAdd st w)
  | 0x02 => some (execVeSub st w)
  | 0x03 => some (execVeMul st w)
  | 0x04 => some (execVeFma st w)
  | 0x05 => some (execVeAdds st w)
  | 0x06 => some (execVeSubs st w)
  | 0x07 => some (execVeAnd st w)
  | 0x08 => some (execVeOr st w)
  | 0x09 => some (execVeXor st w)
  | 0x0A => some (execVeShl st w)
  | 0x0B => some (execVeShr st w)
  | 0x0C => some (execVeSra st w)
  | 0x0D => some (execVeMin st w)
  | 0x0E => some (execVeMax st w)
  | 0x0F => some (execVeAbs st w)
  | 0x10 => some (execVeNeg st w)
  | 0x11 => some (execVeCmp st w)
  | 0x12 => some (execVeSel st w)
  | 0x13 => some (execVeRsum st w)
  | 0x14 => some (execVeRmax st w)
  | 0x15 => some (execVeCvt st w)
  | 0x16 => some (execVeQpack st w)
  | 0x17 => some (execVeLdc st w)
  | _ => none

def teCommand (st : Fin 64) (w : Word) : Option (State → Answer) :=
  match slotOpc w with
  | 0x01 => some (execLtMove st w)
  | 0x02 => some (execLtGather st w)
  | 0x03 => some (execLtScatter st w)
  | 0x04 => some (execLtFill st w)
  | _ => none

def heCommand (st : Fin 64) (w : Word) : Option (State → Answer) :=
  match slotOpc w with
  | 0x01 => some (execHeSend st w)
  | 0x02 => some (execHeDsend st w)
  | 0x03 => some (execHeFetch st w)
  | _ => none

/-- A slot issues: opcode 0 is a NOP, an opcode that its table does not list is refused (09 R232, R237, R253). -/
def State.slotCc (s : State) (st : Fin 64) (slot : Fin 6) (opc : Nat) (c : Option (State → Answer)) : State :=
  if opc = 0 then s.does (execNop st slot)
  else
    match c with
    | some c => s.does c
    | none => s.bundleFault st slot.val fcReservedOp

/-- Stalls that issue a bundle in this cc, each with its bundle: not in an IDLE run, and with a bundle at PC (09 R231,
R243, R249, R252). -/
def State.fetchCc (acc : State × List (Fin 64 × BitVec 256)) (st : Fin 64) : State × List (Fin 64 × BitVec 256) :=
  let (s, l) := acc
  if !s.issues st || (s.stl st).seq.idleTo.isSome then (s, l)
  else
    let q := (s.stl st).seq
    let s := s.does (execNop st 0)
    if q.noBundle || q.badBundle then (s, l) else (s.modSeq st (fun q => { q with issued := true }), (st, q.bundle) :: l)

/-- The control slot of a bundle. -/
def State.ctlCc (s : State) (e : Fin 64 × BitVec 256) : State :=
  let w := ctlSlot e.2
  if fld w 95 88 = 0 then s else s.slotCc e.1 0 (fld w 95 88) (ctlCommand e.1 w)

/-- An engine slot: the operations in progress there have their cycle, then the bundle's operation issues. -/
def State.engSlotCc (s : State) (st : Fin 64) (slot : Fin 6) (w : Word) (c : Option (State → Answer)) : State :=
  let s := s.opsCc st (fun o => o.ag.slot = slot.val)
  s.slotCc st slot (slotOpc w).toNat c

/-- The engine slots of a Stall, with the bundle that it issues, or with none (04 R633). -/
def State.engCc (s : State) (st : Fin 64) (b : Option (BitVec 256)) : State :=
  match b with
  | some b =>
    let s := s.engSlotCc st 1 (engSlot b 1) (caCommand st (engSlot b 1))
    let s := s.engSlotCc st 2 (engSlot b 2) (leCommand st (engSlot b 2))
    let s := s.engSlotCc st 3 (engSlot b 3) (veCommand st (engSlot b 3))
    let s := s.engSlotCc st 4 (engSlot b 4) (teCommand st (engSlot b 4))
    s.engSlotCc st 5 (engSlot b 5) (heCommand st (engSlot b 5))
  | none => [1, 2, 3, 4, 5].foldl (fun s k => s.opsCc st (fun o => o.ag.slot = k)) s

/-- Every Stall's bundle of this cc and its operations in progress: control slots first, for their step-boundary effects
precede the engine slots, and loop counters and key pairs are read as they stood before (09 R239, 04 R633). -/
def State.issueCc (s : State) : State :=
  let (s, l) := allStalls.foldl State.fetchCc (s, [])
  let l := l.reverse
  let pages (st : Fin 64) : Bool := l.any (fun e => e.1 = st && fld (ctlSlot e.2) 95 88 = 0x30)
  let s := allStalls.foldl (fun s st => s.opsCc st (fun o => o.ag.slot = 0 && (pages st || !o.isPage))) s
  let s := l.foldl State.ctlCc s
  let s := allStalls.foldl (fun s st => if pages st then s else s.opsCc st Op.isPage) s
  allStalls.foldl (fun s st => s.engCc st ((l.find? (fun e => e.1 = st)).map (·.2))) s

/-! Dynamic packets (10 R277, R281, R282). -/

/-- A packet enters the Market at a router's input, if there is room. -/
def State.insertAt (s : State) (r : Fin 64) (i : Fin 5) (d : DynPkt) : Option State :=
  if ((s.stl r).rt.inq[i]).length < 8 then
    some (s.modRt r (fun x => { x with inq := x.inq.set i (x.inq[i] ++ [{ d with ready := s.cycle }]) }))
  else none

/-- A row of kind 1 for this module's own node is one for a Stall here (10 R282). -/
def State.homeward (s : State) (d : DynPkt) : DynPkt :=
  if d.kind = 1 && s.link.node = some d.node then { d with kind := 0 } else d

/-- No port takes a row: it is dropped and counts in LINK.ROUTE_DROP (10 R282, 12 R349). -/
def State.noRoute (s : State) (d : DynPkt) : Bool := d.kind = 1 && (s.routeSheaf d.node).isNone
def State.routeDrop (s : State) : State := { s with link := { s.link with drop := satAdd s.link.drop 1 } }

/-- The dynamic queue with one row less in the transfer at a place; a transfer leaves with its last row (10 R277). -/
def Hop.sent (h : Hop) (x : Xfer) : Hop :=
  let y := { x with pkts := x.pkts.drop 1, left := x.left - 1 }
  let q := h.queue.map (fun z => if z = x then y else z)
  { h with queue := q.filter (fun z => z.left ≠ 0) }

/-- The Hop Engine's oldest dynamic row leaves for the Market. -/
def State.hopCc (s : State) (st : Fin 64) : State :=
  let h := (s.stl st).he
  match h.queue.find? (fun x => !x.fetch && !x.pkts.isEmpty) with
  | none => s
  | some x =>
    match x.pkts with
    | [] => s
    | d :: _ =>
      let d := s.homeward d
      if s.cycle < d.ready then s
      else if s.noRoute d then (s.modHe st (fun h => h.sent x)).routeDrop
      else
        match s.insertAt st 4 d with
        | some s => s.modHe st (fun h => h.sent x)
        | none => s

/-- The hub's oldest row at a Stem port enters the Market (16 R448). -/
def State.stemCc (s : State) (f : Fin 4) : State :=
  match s.fab.downq[f] with
  | [] => s
  | d :: l =>
    match s.insertAt (stemAt f).1 (stemAt f).2 d with
    | some s => { s with fab := { s.fab with downq := s.fab.downq.set f l } }
    | none => s

/-- A sheaf's oldest dynamic row enters the Market, and the oldest row of its tap buffer (11 R309, 13 R370). -/
def State.sheafIn (s : State) (n : Fin 20) : State :=
  let s := match (s.sheaf n).dynRx with
    | [] => s
    | d :: l =>
      let d := s.homeward d
      if s.noRoute d then (s.modSheaf n (fun h => { h with dynRx := l })).routeDrop
      else
        match s.insertAt (sheafAt n).1 (sheafAt n).2 d with
        | some s => s.modSheaf n (fun h => { h with dynRx := l })
        | none => s
  match s.ring.tap.find? (fun e => e.1 = n) with
  | none => s
  | some e =>
    match s.insertAt (sheafAt n).1 (sheafAt n).2 e.2 with
    | some s => { s with ring := { s.ring with tap := s.ring.tap.erase e } }
    | none => s

/-- MK_DYN_WAIT and HE_RX_FULL (10 Table 10.4): a ready packet's output carries a scheduled row; the receive buffer is
full. -/
def State.dynCount (s : State) (st : Fin 64) : State :=
  let x := s.stl st
  let held := x.rt.inq.toList.any (fun l => l.any (fun d => decide (d.ready ≤ s.cycle) &&
    (match s.dynOut st d with | some o => x.rt.held.contains o | none => false)))
  let s := if held then s.modRt st (fun r => { r with dynWait := satAdd r.dynWait 1 }) else s
  if 64 ≤ x.pad.rx.length then s.modHe st (fun h => { h with rxFull := satAdd h.rxFull 1 }) else s

/-- The dynamic class in this cc. -/
def State.dynCc (s : State) : State :=
  let s := allStalls.foldl State.refetchCc s
  let s := allStalls.foldl (fun s st => if (s.stl st).pad.rx.isEmpty then s else s.does (execDynamicArrivalLands st)) s
  let s := allStalls.foldl (fun s st =>
    if (s.stl st).rt.inq.toList.all (fun l => l.isEmpty) then s
    else (List.finRange 5).foldl (fun s o => s.does (execDynamicPacketForward st o)) s) s
  let s := allStalls.foldl State.hopCc s
  let s := (List.finRange 4).foldl State.stemCc s
  let s := allSheaves.foldl State.sheafIn s
  allStalls.foldl State.dynCount s

/-! Upkeep and timers. -/

/-- The scrub reads of a Stall that have waited 16 ticks, at rank 5 (04 R107, R130). -/
def State.hotScrubCc (s : State) (st : Fin 64) : State :=
  let s := s.does (execScrubIssue st)
  let s := (s.stl st).pad.scrubWait.foldl (fun s b => s.does (execScrubReadPromote st b)) s
  (s.stl st).pad.scrubHot.foldl (fun s b => s.does (execScrubRead st b)) s

/-- Its other scrub reads, at rank 8, and its refetches' limits. -/
def State.upkeepCc (s : State) (st : Fin 64) : State :=
  let s := (s.stl st).pad.scrubWait.foldl (fun s b => s.does (execScrubRead st b)) s
  let s := s.does (execScrubLate st)
  (s.stl st).pad.refOut.foldl (fun s r => s.does (execRefetchTimeout st r.row)) s

/-- Activity units of a Stall in this cc (19 Table 19.6). -/
def State.unitsOf (s : State) (st : Fin 64) : Nat :=
  let x := s.stl st
  let base := match x.power with | .s0 => 4 | .s1 => 1 | _ => 0
  let unit (slot n : Nat) : Nat := if x.busy slot then n else 0
  base + unit 1 32 + unit 2 8 + unit 3 8 + unit 4 4 + unit 5 4

/-- The timers of a sheaf and of a port (11 Table 11.7, R309, R314, R315, 12 R344). -/
def State.sheafTimers (s : State) (n : Fin 20) : State :=
  let s := (s.modSheaf n (fun h => if h.framed then h.missing s.now else h)).lockCc n
  ((((((s.does (execTrainTimeout n)).does (execLockTimeout n)).does (execCapsTimeout n)).does (execNakSuppressEnd n)).does
    (execAckTimeout n)).does (execAutomaticRetrain n true)).does (execAutomaticRetrain n false)
def State.portTimers (s : State) (k : Fin 8) : State :=
  (((s.does (execLinkReqResend k)).does (execBackoffEnd k)).retrainCc k).does (execModuleLost k)

/-- A partition's commands that wait for a cycle or a time: serving, adapters, a swap, a zeroization. -/
def State.partTimers (s : State) (p : Fin 64) : State :=
  if (s.part p).state = 0 then s
  else
    let s := ((s.does (execSpanJoinTimeout p)).does (execCut p)).does (execAdmissionRowsLanded p)
    let s := (List.finRange 16).foldl (fun s k => s.does (execAdapterLoadTimeout p k)) s
    ((s.does (execSwapWritePassStart p)).serveStep p).does (execZeroizationDone p)

/-- What the always-on domain and the hub time: locks, drains, resets, the isolator link. -/
def State.hubTimers (s : State) : State :=
  let s := (((s.does execLockExpired).does execDrainEnd).does execIsoLinkLost).does execLoopbackLockTimeout
  let s := (List.finRange 4).foldl (fun s f => s.does (execGuardBandEnd f)) (s.does execLoopbackDurationEnd)
  ((s.does execTelemPeriodTrigger).does execWarmReset).does execColdReset

/-- Once every 32,768 or 131,072 ticks (18 Table 18.8, R531). -/
def State.tickTimers (s : State) (was : Nat) : State :=
  if s.pwr.ticks = was then s else (s.does execGranMibSeconds).does execCheckpoint

/-- The ring (13). Which epoch boundary is the first, the other members' acceptances decide (log 32). -/
def State.ringCc (s : State) : State :=
  let s := if s.ring.t0.isSome then s.does execRevolutionBoundary else s
  if s.ring.state = 0 then s else s.does execRingRowDepart

/-! The steps of time. -/

/-- Epochs (19 R552 to R555), and the realignment to the timing parent (11 R302). -/
def State.epochCc (s : State) : State :=
  let s := s.realign.tellDemand false
  let s := if s.cycle % 65536 = 0 then s.does execEpochBoundary else s
  (s.does execEpochDecision).does execEpochMissed

/-- What hardware set from now on is set in a new cycle (00 R15). -/
def State.clearNew (s : State) : State :=
  { s with
    parts := s.parts.map (fun q => { q with winNew := false }), funcs := s.funcs.map (fun f => { f with errNew := false }),
    fab := { s.fab with bitsNew := (false, false, false) },
    chain := { s.chain with attnNew := 0, statNew := (false, false, false) } }

/-- The Stall cycles and frozen cycles of the cc that ends (18 R528, Table 18.8). -/
def Part.foldCycles (q : Part) : Part :=
  { (q.counted 0 q.newRun).counted 1 q.newFrozen with newRun := 0, newFrozen := 0 }

/-- The choices of a cc: those of the dispatch that goes on, or pending when none runs or this was its end cycle (03 R88, R91,
R99); REQ_TAIL as the next cc begins (14 R392). -/
def Part.foldChoice (q : Part) : Part :=
  let q := { q with tailWas := q.reqTail }
  if q.disp.isSome then { q with choice := satAdd q.choice q.newChoice, newChoice := 0 }
  else { q with pendChoice := satAdd q.pendChoice q.newChoice, newChoice := 0 }

/-- The end of a cc: what its counter updates show, its choices, and dispatches whose last END has issued in it (04 R116, R117, 09 R246). -/
def State.endCc (s : State) : State :=
  let s := allStalls.foldl State.settle s
  let s := allParts.foldl State.closeCc s
  { s with parts := s.parts.map (fun q => q.foldChoice.foldCycles) }

/-- The start of a cc: its count, what issued before takes effect, schedule cycles. -/
def State.beginCc (s : State) : State :=
  let was := s.pwr.ticks
  let s := { s with cycle := s.cycle + 1 }.elapseCc
  let n := s.pwr.ticks - was
  let s := { s with stalls := s.stalls.map (fun (x : Stall) =>
    let y := x.newCc s.cycle n
    { y with seq := y.seq.advance }) }
  let s := (s.tickTimers was).epochCc
  let s := allParts.foldl State.advanceSched s
  allParts.foldl (fun s p => if s.isRunning p then s.runCc p else s) s

/-- The schedule's part of a cc. -/
def State.schedCc (s : State) : State :=
  let s := allParts.foldl (fun s p => if s.isRunning p then s.freezeCc p else s) s
  let s := allStalls.foldl State.landDeferred s
  let s := allParts.foldl State.startCc s
  let s := allStalls.foldl State.dueCc s
  let s := allSheaves.foldl (fun s n => if (s.sheaf n).delayBuf.isEmpty then s else s.does (execSheafDelayRelease n)) s
  let s := allParts.foldl State.marketCc s
  let s := s.issueCc
  let s := allStalls.foldl (fun s st => if (s.stl st).ca.zs.isSome then s.does (execZeroSkipBudgetEnd st) else s) s
  allStalls.foldl (fun s st => if s.live st then s.does (execScheduledArrival st) else s) s

/-- One core clock cycle of a module in M0 or M1. The order of its events is the model's where the spec gives none
(log 12). -/
def State.coreCycle (s : State) : State :=
  let was := s.now
  let s := s.endCc.clearNew.beginCc.schedCc.dynCc
  let s := allStalls.foldl State.hotScrubCc s
  let s := (allParts.foldl (State.admitCc · · false) s).does execBridgeRowRead
  let s := allStalls.foldl State.upkeepCc s
  let s := allStalls.foldl (fun s st => s.modStl st (fun x => { x with units := x.units + s.unitsOf st })) s
  let s := s.ringCc
  let s := allSheaves.foldl State.sheafTimers s
  let s := allSheaves.foldl (State.lineCc · (codewordsBy s.now - codewordsBy was) ·) s
  let s := allPorts.foldl State.portTimers s
  let s := allStalls.foldl (fun s st => s.does (execStallWakeDone st)) s
  let s := (allParts.foldl State.partTimers s).carryOn
  s.openSheaves.hubTimers.linkCc

/-- One tick of the always-on domain while no core clock runs, in M2 (19 Table 19.2). -/
def State.aonTick (s : State) : State :=
  let next := s.now * 32768 / 1000000000000 + 1
  let was := s.pwr.ticks
  ((s.clearNew.elapse (ceilDiv (next * 1000000000000) 32768 - s.now)).tickTimers was).hubTimers.linkCc

/-- The block's own time goes on: by one core clock cycle in M0 and M1, by one always-on tick in M2; in M3 nothing is
powered (19 Table 19.2). -/
def State.tick (s : State) : State :=
  if s.pwr.mstate = 3 then s else if s.pwr.mstate = 2 then s.aonTick else s.coreCycle

end Sys2Proof.Machine
end

