-- ==== Sys2Proof/WellFormed.lean ====
section
/-! DEFINITION. What a well-formed command is: the operands that the spec's tables admit for its row. -/

namespace Sys2Proof

/-- The operation code of a 96-bit control slot (09 Table 9.5) and of a 32-bit engine slot (Table 9.2). -/
def ctlOpc (w : BitVec 96) : Nat := w.toNat / 2 ^ 88
def engOpc (w : Word) : Nat := w.toNat / 2 ^ 24

/-- A command whose operands are those of its row: a slot's operation code (09 Tables 9.4, 9.5), an aligned register
offset or one that is not (00 R17), a chain frame's CMD (20 Table 20.4), the bit that distinguishes two writes of one
register (17 R476, 20 Table 20.10, 21 R617), a temperature channel (19 Table 19.5), a lock's time limit (16 R461), a
number of functions (18 Table 18.4). -/
def Instr.wf : Instr → Bool
  | .registerWrite _ off _ => decide (off.toNat % 4 = 0)
  | .rsRegisterRead _ off => decide (off.toNat % 4 = 0)
  | .lowWordRead _ off => decide (off.toNat % 4 = 0)
  | .misalignedRegisterAccess _ off width _ => decide (off.toNat % 4 ≠ 0) || decide (width ≠ 32)
  | .nop _ _ => true
  | .tallySet _ w => ctlOpc w = 0x01
  | .tallyWait _ w => ctlOpc w = 0x02
  | .keySet _ w => ctlOpc w = 0x03
  | .cnt _ w => ctlOpc w = 0x04
  | .scyc _ w => ctlOpc w = 0x05
  | .idle _ w => ctlOpc w = 0x06
  | .idleCountEnd _ => true
  | .loopSet _ w => ctlOpc w = 0x10
  | .loopEnd _ w => ctlOpc w = 0x11
  | .jump _ w => ctlOpc w = 0x12
  | .stepMark _ w => ctlOpc w = 0x20
  | .epochSync _ w => ctlOpc w = 0x21
  | .page _ w => ctlOpc w = 0x30
  | .endDispatch _ w => ctlOpc w = 0x3F
  | .caLoad _ w => engOpc w = 0x01
  | .caLoadComplete _ => true
  | .caRun _ w => engOpc w = 0x02
  | .caRunt _ w => engOpc w = 0x03
  | .caStore _ w => engOpc w = 0x04
  | .zeroSkipBudgetEnd _ => true
  | .zeroSkipRunComplete _ => true
  | .leMul _ w => engOpc w = 0x01
  | .leDiv _ w => engOpc w = 0x02
  | .leAdd _ w => engOpc w = 0x03
  | .leSub _ w => engOpc w = 0x04
  | .leNeg _ w => engOpc w = 0x05
  | .leAbs _ w => engOpc w = 0x06
  | .leRecip _ w => engOpc w = 0x07
  | .leSqrt _ w => engOpc w = 0x08
  | .leScale _ w => engOpc w = 0x09
  | .leMax _ w => engOpc w = 0x0A
  | .leMin _ w => engOpc w = 0x0B
  | .leLsum _ w => engOpc w = 0x0C
  | .leLmax _ w => engOpc w = 0x0D
  | .leFromfp _ w => engOpc w = 0x0E
  | .leTofp _ w => engOpc w = 0x0F
  | .leFromlin _ w => engOpc w = 0x10
  | .leTolin _ w => engOpc w = 0x11
  | .leLdc _ w => engOpc w = 0x12
  | .veAdd _ w => engOpc w = 0x01
  | .veSub _ w => engOpc w = 0x02
  | .veMul _ w => engOpc w = 0x03
  | .veFma _ w => engOpc w = 0x04
  | .veAdds _ w => engOpc w = 0x05
  | .veSubs _ w => engOpc w = 0x06
  | .veAnd _ w => engOpc w = 0x07
  | .veOr _ w => engOpc w = 0x08
  | .veXor _ w => engOpc w = 0x09
  | .veShl _ w => engOpc w = 0x0A
  | .veShr _ w => engOpc w = 0x0B
  | .veSra _ w => engOpc w = 0x0C
  | .veMin _ w => engOpc w = 0x0D
  | .veMax _ w => engOpc w = 0x0E
  | .veAbs _ w => engOpc w = 0x0F
  | .veNeg _ w => engOpc w = 0x10
  | .veCmp _ w => engOpc w = 0x11
  | .veSel _ w => engOpc w = 0x12
  | .veRsum _ w => engOpc w = 0x13
  | .veRmax _ w => engOpc w = 0x14
  | .veCvt _ w => engOpc w = 0x15
  | .veQpack _ w => engOpc w = 0x16
  | .veLdc _ w => engOpc w = 0x17
  | .ltMove _ w => engOpc w = 0x01
  | .ltGather _ w => engOpc w = 0x02
  | .ltScatter _ w => engOpc w = 0x03
  | .ltFill _ w => engOpc w = 0x04
  | .heSend _ w => engOpc w = 0x01
  | .heDsend _ w => engOpc w = 0x02
  | .heFetch _ w => engOpc w = 0x03
  | .scheduledArrival _ => true
  | .dynamicArrivalLands _ => true
  | .refetchIssue _ => true
  | .refetchDone _ _ _ => true
  | .refetchTimeout _ _ => true
  | .scrubIssue _ => true
  | .scrubReadPromote _ _ => true
  | .scrubRead _ _ => true
  | .scrubLate _ => true
  | .gleanRead _ _ => true
  | .bridgeAccess _ _ => true
  | .rowSel _ => true
  | .debugEnable _ => true
  | .freezeStart _ => true
  | .raisedHoldRelease _ => true
  | .freezeEnd _ => true
  | .holdTimeout _ => true
  | .faultStopEnd _ => true
  | .stepRerun _ => true
  | .dispatchStart _ => true
  | .dispatchReply _ => true
  | .dynamicPacketForward _ _ => true
  | .fetchResponse _ _ _ => true
  | .receiverDetectPulse _ _ => true
  | .trainingFrame _ _ _ => true
  | .trainTimeout _ => true
  | .lockTimeout _ => true
  | .capsTimeout _ => true
  | .blindBringUp _ => true
  | .alignmentMarker _ _ run bits => run.length = 96 && bits.length = 74
  | .lossOfSignal _ => true
  | .uncorrectableCodeword _ _ _ => true
  | .automaticRetrain _ _ => true
  | .capabilityRecord _ _ => true
  | .cyc _ _ => true
  | .cycEcho _ _ => true
  | .driftProbe _ _ => true
  | .scheduledRow _ _ _ => true
  | .sheafDelayRelease _ => true
  | .dynamicRow _ _ _ _ => true
  | .ack _ _ => true
  | .nak _ _ => true
  | .ackDue _ => true
  | .nakSuppressEnd _ => true
  | .ackTimeout _ => true
  | .linkReq _ _ => true
  | .linkAck _ _ => true
  | .linkReqResend _ => true
  | .backoffEnd _ => true
  | .epoch _ _ => true
  | .holdRaise _ _ => true
  | .holdRelease _ _ => true
  | .stepFault _ _ => true
  | .spanEnd _ _ => true
  | .holdUpwardSend _ => true
  | .holdDownwardSend _ => true
  | .hawker _ _ => true
  | .spanForm _ _ => true
  | .spanJoinTimeout _ => true
  | .dispatchPost _ _ => true
  | .moduleLost _ => true
  | .linkLost _ _ _ => true
  | .linkRestored _ _ _ => true
  | .serveChoice _ _ _ _ => true
  | .serveChoiceAck _ _ _ => true
  | .freqDemand _ _ _ _ => true
  | .ringRow _ _ _ => true
  | .cut _ => true
  | .admissionRowsLanded _ => true
  | .hubWriteRequest _ => true
  | .reqTail _ _ => true
  | .repHead _ _ _ => true
  | .adapterPlaced _ _ => true
  | .adapterLoadTimeout _ _ => true
  | .swapCheckDone _ _ => true
  | .swapWritePassStart _ => true
  | .swapWritePassDone _ _ => true
  | .patrolRead _ _ => true
  | .wck2dqRetrain _ _ => true
  | .fence _ => true
  | .fabricTimeout _ _ _ => true
  | .lockAcquire _ limit => decide (1 ≤ limit) && decide (limit ≤ 100000)
  | .hwinWrite _ _ _ => true
  | .cmdqEnable _ v => decide (v.toNat / 2 ^ 31 = 1)
  | .cmdqDisable _ v => decide (v.toNat / 2 ^ 31 = 0)
  | .doorbell _ _ => true
  | .packetRead _ _ => true
  | .ping _ => true
  | .queryInfo _ => true
  | .partCreate _ => true
  | .partDestroy _ => true
  | .spanJoin _ => true
  | .spanLeave _ => true
  | .imageLoad _ => true
  | .imageVerify _ => true
  | .dispatch _ => true
  | .halt _ => true
  | .stepStatus _ => true
  | .granaryPutCreate _ => true
  | .granaryPutFree _ => true
  | .granaryPutWrite _ => true
  | .granaryGetRead _ => true
  | .granaryGetInfo _ => true
  | .modelSwap _ => true
  | .adapterLoad _ => true
  | .adapterRetire _ => true
  | .serveOpen _ => true
  | .serveClose _ => true
  | .linkTrain _ => true
  | .linkWidth _ => true
  | .linkStatus _ => true
  | .freqSet _ => true
  | .powerState _ => true
  | .ledgerRead _ => true
  | .ledgerSeal _ => true
  | .auxLoopback _ => true
  | .functionLevelReset _ => true
  | .flushRecord _ _ => true
  | .cellReadyChange _ _ => true
  | .isoStatusFrame _ => true
  | .skewTrim _ => true
  | .guardBandEnd _ => true
  | .adcSample _ _ => true
  | .trigger _ => true
  | .thermalTrip ch _ => decide (19 ≤ ch.val)
  | .stallWakeDone _ => true
  | .addrAssign f => f.cmd = 0x01
  | .chainRead f => f.cmd = 0x02
  | .chainWrite f => f.cmd = 0x03
  | .setNode f => f.cmd = 0x04
  | .wake f => f.cmd = 0x05
  | .reset f => f.cmd = 0x06
  | .attnPoll f => f.cmd = 0x07
  | .attnAck f => f.cmd = 0x08
  | .flashWrite f => f.cmd = 0x10
  | .flashRead f => f.cmd = 0x11
  | .enrollOwner f => f.cmd = 0x12
  | .enrollCommit f => f.cmd = 0x13
  | .chainFrameForward _ => true
  | .modResetN _ _ => true
  | .sysResetWarm v => decide (v.toNat % 4 = 1)
  | .sysResetCold v => decide (v.toNat % 4 = 2)
  | .bootStageDone _ => true
  | .stemPortDown _ => true
  | .bypass _ => true
  | .samplePreload _ => true
  | .eringEnable _ v => decide (v.toNat / 2 ^ 31 = 1)
  | .eventEntryWrite _ _ => true
  | .zeroizationDone _ => true
  | .placementDone _ => true
  | .verificationDone _ => true
  | .granaryCopyDone _ _ _ => true
  | .pcieConfigAccess none => true
  | .pcieConfigAccess (some n) => decide (n.toNat ≤ 64)
  | .bridgeRowRead => true
  | .ringRowDepart => true
  | .revolutionBoundary => true
  | .lockRelease => true
  | .lockExpired => true
  | .drainEnd => true
  | .checkpoint => true
  | .granMibSeconds => true
  | .journalWrite => true
  | .busbarLoss => true
  | .busbarValid => true
  | .cellOff => true
  | .isoLinkLost => true
  | .epochDecision => true
  | .epochBoundary => true
  | .epochMissed => true
  | .telemPeriodTrigger => true
  | .brakeAssert => true
  | .brakeRelease => true
  | .moduleWakeDone => true
  | .attnPulse => true
  | .attnStuck => true
  | .watchdog => true
  | .powerOnReset => true
  | .coldReset => true
  | .warmReset => true
  | .pcieReset => true
  | .idcode => true
  | .extest => true
  | .loopbackDurationEnd => true
  | .loopbackLockTimeout => true

end Sys2Proof
end

