-- ==== Sys2Proof/Safety.lean ====
section
/-! DEFINITION. What counts as a good state and a safe run of this block, and the words in which the statements speak. -/

namespace Sys2Proof

open Machine

/-- A command answers a next state with a property. -/
def Completes (c : Instr) (s : State) (P : State → Prop) : Prop := ∃ t : State, exec c s = .next t ∧ P t

/-- Every waiting command is well formed. -/
def QueueOk (s : State) : Prop := ∀ c ∈ s.pending, Instr.wf c = true

/-- Every memory of the module is in its canonical form, and every Stall's POISON marks and bundle store list their rows
and addresses in rising order. -/
def MemsOk (s : State) : Prop :=
  s.sram.wf = true ∧ s.host.wf = true ∧ s.flash.wf = true ∧ s.gran.mem.wf = true ∧
    ∀ st : Fin 64, (s.stl st).pad.mem.wf = true ∧ Tab.rising none (s.stl st).pad.poison = true ∧
      Tab.rising none (s.stl st).seq.store = true

/-- A change of a partition is in progress: a PART_CREATE past its checks, or a PART_DESTROY. -/
def changing (j : Job) : Bool := (j.opc = 0x10 && decide (1 ≤ j.phase)) || j.opc = 0x11

/-- Two partitions that are not FREE have no Stall in common; only a partition that is not FREE is being changed. -/
def PartsApart (s : State) : Prop :=
  (∀ p q : Fin 64, p ≠ q → (s.part p).state ≠ 0 → (s.part q).state ≠ 0 → (s.part p).stalls &&& (s.part q).stalls = 0) ∧
  (∀ p : Fin 64, (s.part p).zero.isSome = true → (s.part p).state ≠ 0) ∧
  (∀ (p : Fin 64) (j : Job), (s.part p).job = some j → changing j = true → (s.part p).state ≠ 0)

/-- No write that a lock stages or holds changes STATE or a Stall mask of the partition table (16 R462, R463). -/
def TableUntouched (s : State) : Prop :=
  ∀ w ∈ s.fab.staged ++ s.fab.heldWr, ∀ (p : Fin 64) (o : Nat), regAt w.rq w.off = some (.part p o) →
    o ≠ 0 ∧ o ≠ 8 ∧ o ≠ 0xC

/-- A scheduled operation may read a logical row in this cc: permitted, its bank free, no parity error and no POISON; `p` is
the physical row. -/
def Readable (s : State) (st : Fin 64) (row p : Nat) : Prop :=
  (s.stl st).xl.check row .read false = .ok p ∧ (s.stl st).pad.taken p = false ∧
  (s.stl st).pad.parityBad p = false ∧ (s.stl st).pad.poison.get? p = none

/-- A scheduled operation may write a logical row in this cc. -/
def Writable (s : State) (st : Fin 64) (row p : Nat) : Prop :=
  (s.stl st).xl.check row .write true = .ok p ∧ (s.stl st).pad.taken p = false

/-- n rows from a base, each in a bank of its own, may be written or read in this cc; `p` gives the physical rows. -/
def RowsWritable (s : State) (st : Fin 64) (base n : Nat) (p : Nat → Nat) : Prop :=
  (∀ i : Nat, i < n → Writable s st (base + i) (p i)) ∧ ∀ i j : Nat, i < n → j < n → p i % 32 = p j % 32 → i = j
def RowsReadable (s : State) (st : Fin 64) (base n : Nat) (p : Nat → Nat) : Prop :=
  (∀ i : Nat, i < n → Readable s st (base + i) (p i)) ∧ ∀ i j : Nat, i < n → j < n → p i % 32 = p j % 32 → i = j

/-- An operation past its issue cycle. -/
def begun (ag dst : Agent) (opc : Byte) (busy len : Nat) (work : Work) : Op := ⟨ag, dst, opc, 1, busy, len, work⟩

/-- An operation is in progress on a Stall from now on; those before it go on. -/
def Issued (s t : State) (st : Fin 64) (o : Op) : Prop := (t.stl st).ops = (s.stl st).ops ++ [o]

/-- Registers whose whole value a read clears (00 Table 0.3, RS); a log register is none of them. -/
def Machine.Reg.rs (r : Machine.Reg) : Bool :=
  match r with
  | .cmdq _ o => o = 0x58
  | .serve _ o => [0xD4, 0xD8, 0xDC].contains o
  | .fab o => [0x14, 0x18, 0x24].contains o
  | .winView _ o => o = 0x24
  | .pwr o => o = 0x40
  | .clk o => o = 0x20 || o = 0x24
  | .telem o => o = 0x08 || o = 0x0C
  | .chain o => o = 0x0C || o = 0x10
  | .gran o => o = 0x08 || o = 0x0C
  | .link o => (decide (o < 0x500) && [0x10, 0x14, 0x18, 0x1C, 0x20, 0x24, 0x28].contains (o % 0x40)) ||
      (decide (0x640 ≤ o) && decide (o < 0x660)) || [0x70C, 0x72C, 0x730].contains o
  | .stall _ o => [0xD0C, 0xD10, 0xF04, 0xF08, 0xF0C, 0xF10, 0x1004, 0x1008, 0x100C, 0x1044, 0x1048, 0x104C, 0x1244, 0x1248,
      0x124C, 0x1344, 0x1408, 0x140C, 0x1424, 0x1428, 0x1504, 0x1508].contains o
  | _ => false

/-! The Log Engine and the Vector Engine. -/

/-- The record that an engine slot names, with no wrong parity bit, and its fields (09 R234). -/
def recordAt (s : State) (st : Fin 64) (w : Word) : Vector Word 8 :=
  Vector.ofFn (fun i : Fin 8 => (s.stl st).seq.recWord (slotRec w) i.val)
def laneRec (s : State) (st : Fin 64) (w : Word) : VecRec :=
  vecRec (recordAt s st w) ((s.stl st).seq.iter (slotLsel w))

/-- An operation of either engine is accepted: it issues, its record is sound, no check of 09 R635 refuses it, its engine
is not busy (07 R188) and its first result write falls after the last one of the operation before (07 R187). -/
def LaneReady (s : State) (st : Fin 64) (w : Word) (o : LaneOp) : Prop :=
  s.issues st = true ∧ (s.stl st).seq.recBadAt (slotRec w) = false ∧
  o.refused w (recordAt s st w) (laneRec s st w) = none ∧ (s.stl st).busy (laneAgent o.vec).slot = false ∧
  (s.stl st).writeOrder o.vec (o.firstWrite (laneRec s st w)) = false

/-- A lane operation in progress, past its issue cycle: busy for n cycles, its last result LAT cycles after its last read;
`res` are the results of the vectors read (07 R186). -/
def laneIssued (s : State) (st : Fin 64) (w : Word) (o : LaneOp) (res : List (List Nat × Nat × Nat)) : Op :=
  let r := laneRec s st w
  { ag := laneAgent o.vec, dst := laneAgent o.vec, opc := o.opc, t := 1, busy := r.n, len := r.n + o.lat r.fmt,
    work := .lanes o.vec (recordAt s st w) ((s.stl st).seq.iter (slotLsel w)) res 0 }

/-- The operations of the Log Engine but LE_LDC, each with its model: opcode, latency, operands, formats. -/
def leCmds (st : Fin 64) (w : Word) : List (Instr × LaneOp) :=
  [(.leMul st w, leOp 0x01 2 2), (.leDiv st w, leOp 0x02 2 2), (.leAdd st w, leOp 0x03 4 2), (.leSub st w, leOp 0x04 4 2),
    (.leNeg st w, leOp 0x05 2 1), (.leAbs st w, leOp 0x06 2 1), (.leRecip st w, leOp 0x07 2 1),
    (.leSqrt st w, leOp 0x08 2 1), (.leScale st w, leScale.op),
    (.leMax st w, leOp 0x0A 2 2), (.leMin st w, leOp 0x0B 2 2), (.leLsum st w, leSeg 0x0C 16), (.leLmax st w, leSeg 0x0D 10),
    (.leFromfp st w, leFrom 0x0E), (.leTofp st w, leTo 0x0F), (.leFromlin st w, leFrom 0x10), (.leTolin st w, leTo 0x11)]

/-- The operations of the Vector Engine but VE_QPACK and VE_LDC. -/
def veCmds (st : Fin 64) (w : Word) : List (Instr × LaneOp) :=
  [(.veAdd st w, veOp 0x01 4 2 2 [0, 1, 2]), (.veSub st w, veOp 0x02 4 2 2 [0, 1, 2]),
    (.veMul st w, veOp 0x03 4 4 2 [0, 1, 2]), (.veFma st w, veOp 0x04 6 6 3 [0, 1]), (.veAdds st w, veOp 0x05 2 2 2 [2]),
    (.veSubs st w, veOp 0x06 2 2 2 [2]), (.veAnd st w, veOp 0x07 2 2 2 [2]), (.veOr st w, veOp 0x08 2 2 2 [2]),
    (.veXor st w, veOp 0x09 2 2 2 [2]), (.veShl st w, veOp 0x0A 2 2 2 [2]), (.veShr st w, veOp 0x0B 2 2 2 [2]),
    (.veSra st w, veOp 0x0C 2 2 2 [2]), (.veMin st w, veOp 0x0D 2 2 2 [0, 1, 2]), (.veMax st w, veOp 0x0E 2 2 2 [0, 1, 2]),
    (.veAbs st w, veOp 0x0F 2 2 1 [0, 1, 2]), (.veNeg st w, veOp 0x10 2 2 1 [0, 1, 2]),
    (.veCmp st w, veCmp.op),
    (.veSel st w, veOp 0x12 2 2 3 [0, 1, 2]), (.veRsum st w, veSeg 0x13 12), (.veRmax st w, veSeg 0x14 8),
    (.veCvt st w, veCvt.op)]

/-- Constant m of an engine of a Stall, as an operand of es bytes reads it (07 Table 7.1). -/
def cstOf (s : State) (st : Fin 64) (vec : Bool) (es m : Nat) : Nat :=
  (((s.stl st).lanes vec).const[fin 15 m]).toNat % 2 ^ (8 * es)

/-- An operation is accepted, and every operand is a constant: nothing is read. -/
def ConstRun (s : State) (st : Fin 64) (w : Word) (o : LaneOp) : Prop :=
  LaneReady s st w o ∧ ∀ i ∈ o.uses, (laneRec s st w).mode i = 2

/-- The elements of the first vector's result, as the operation holds them until they are due. -/
def FirstResult (s t : State) (st : Fin 64) (w : Word) (o : LaneOp) (vs : List Nat) : Prop :=
  ∃ ca cb : Nat, Issued s t st (laneIssued s st w o [(vs, ca, cb)])

/-- The value that each Log Engine operation gives one lane of constants a, b (07 Table 7.2). -/
def leLane (st : Fin 64) (w : Word) (fmt : Nat) : List (Instr × LaneOp × (Half → Half → Nat)) :=
  [(.leMul st w, leOp 0x01 2 2, fun a b => (lnsMul a b).code.toNat),
    (.leDiv st w, leOp 0x02 2 2, fun a b => (lnsDiv a b).code.toNat),
    (.leAdd st w, leOp 0x03 4 2, fun a b => (lnsAdd a b).code.toNat),
    (.leSub st w, leOp 0x04 4 2, fun a b => (lnsAdd a (lnsInv b)).code.toNat),
    (.leNeg st w, leOp 0x05 2 1, fun a _ => (lnsCanon (lnsInv a)).toNat),
    (.leAbs st w, leOp 0x06 2 1, fun a _ => (a &&& 0x7FFF).toNat),
    (.leRecip st w, leOp 0x07 2 1, fun a _ => (lnsRecip a).code.toNat),
    (.leSqrt st w, leOp 0x08 2 1, fun a _ => (lnsSqrt a).code.toNat),
    (.leScale st w, leScale.op, fun a b => (lnsScale a b.toInt).code.toNat),
    (.leMax st w, leOp 0x0A 2 2, fun a b => (lnsMax a b).toNat),
    (.leMin st w, leOp 0x0B 2 2, fun a b => (lnsMin a b).toNat),
    (.leTofp st w, leTo 0x0F, fun a _ => fpEnc fmt (lnsToFp a)),
    (.leTolin st w, leTo 0x11, fun a _ => fpEnc fmt (lnsToLin a))]

/-- The value that a Vector Engine operation gives one INT32 lane (07 Table 7.3). -/
def veLane (st : Fin 64) (w : Word) : List (Instr × LaneOp × (Word → Word → Word → Word)) :=
  [(.veAdd st w, veOp 0x01 4 2 2 [0, 1, 2], fun a b _ => a + b), (.veSub st w, veOp 0x02 4 2 2 [0, 1, 2], fun a b _ => a - b),
    (.veMul st w, veOp 0x03 4 4 2 [0, 1, 2], fun a b _ => a * b),
    (.veAdds st w, veOp 0x05 2 2 2 [2], fun a b _ => BitVec.ofInt 32 (satS 32 (a.toInt + b.toInt))),
    (.veSubs st w, veOp 0x06 2 2 2 [2], fun a b _ => BitVec.ofInt 32 (satS 32 (a.toInt - b.toInt))),
    (.veAnd st w, veOp 0x07 2 2 2 [2], fun a b _ => a &&& b), (.veOr st w, veOp 0x08 2 2 2 [2], fun a b _ => a ||| b),
    (.veXor st w, veOp 0x09 2 2 2 [2], fun a b _ => a ^^^ b),
    (.veShl st w, veOp 0x0A 2 2 2 [2], fun a b _ => a <<< (b.toNat % 32)),
    (.veShr st w, veOp 0x0B 2 2 2 [2], fun a b _ => a >>> (b.toNat % 32)),
    (.veSra st w, veOp 0x0C 2 2 2 [2], fun a b _ => a.sshiftRight (b.toNat % 32)),
    (.veMin st w, veOp 0x0D 2 2 2 [0, 1, 2], fun a b _ => if a.toInt ≤ b.toInt then a else b),
    (.veMax st w, veOp 0x0E 2 2 2 [0, 1, 2], fun a b _ => if a.toInt ≤ b.toInt then b else a),
    (.veAbs st w, veOp 0x0F 2 2 1 [0, 1, 2], fun a _ _ =>
      if a = 0x80000000 then 0x7FFFFFFF else if a.toInt < 0 then -a else a),
    (.veNeg st w, veOp 0x10 2 2 1 [0, 1, 2], fun a _ _ => if a = 0x80000000 then 0x7FFFFFFF else -a),
    (.veSel st w, veOp 0x12 2 2 3 [0, 1, 2], fun a b d => if d = 0 then b else a)]

/-! The Cube Array and the Layout Engine. -/

/-- A descriptor of a Stall, and that no word of it has a wrong parity bit (08 R205). -/
def descAt (s : State) (st : Fin 64) (d : Nat) : Desc := Vector.ofFn (fun i : Fin 16 => (s.stl st).xl.descWord d i.val)
def descSound (s : State) (st : Fin 64) (d : Nat) : Prop := (s.stl st).xl.descBad.any (fun w => w / 16 = d) = false

/-- An operation of a slot issues, and its record is sound and sets no reserved bit of its slot. -/
def SlotIssues (s : State) (st : Fin 64) (w : Word) : Prop :=
  s.issues st = true ∧ (s.stl st).seq.recBadAt (slotRec w) = false ∧ slotBad w = false

/-- The precision word of the descriptor that a Cube Array operation names. -/
def precAt (s : State) (st : Fin 64) (w : Word) : Prec :=
  let d := descAt s st (fld (recordAt s st w)[4] 7 0)
  ⟨d[2], d[3]⟩

/-- A Cube Array operation issues with a sound record and descriptor (09 Table 9.3, 08 R206). -/
def CubeIssues (s : State) (st : Fin 64) (w : Word) (transposed : Bool) : Prop :=
  SlotIssues s st w ∧ caRecBad (recordAt s st w) = false ∧ descSound s st (fld (recordAt s st w)[4] 7 0) ∧
  fld (descAt s st (fld (recordAt s st w)[4] 7 0))[0] 31 28 = 1 ∧ (precAt s st w).refused transposed = false

/-- Address field n of the record of a slot (09 R235). -/
def addrAt (s : State) (st : Fin 64) (w : Word) (n : Fin 8) : Int :=
  effAddr (recordAt s st w)[n] ((s.stl st).seq.iter (slotLsel w))

/-- The value that planes of bits give: plane q counts 2^q, the top one of a signed format −2^q (05 R140). -/
def planeSum (signed : Bool) (top : Nat) (bitOf : Nat → Nat) : Int :=
  ((List.range (top + 1)).map (fun q => (if signed && q = top then -1 else 1) * (2 ^ q : Nat) * (bitOf q : Int))).sum

/-- A Layout Engine operation issues, and its engine is free (08 R221). -/
def LayoutIssues (s : State) (st : Fin 64) (w : Word) : Prop :=
  SlotIssues s st w ∧ teRecBad (recordAt s st w) = false ∧ (s.stl st).busy 4 = false

/-! What an engine of a Stall may change. -/

/-- A change stays in a Stall: beside that Stall's own state it touches only the events received, CHAIN.ATTN, the symbols
that wait at the sheaves, raised Holds of other Stalls (which a step fault discards), and the dispatch, ORIGIN and hold
tree counts of the partition that holds the Stall. -/
structure StaysIn (st : Fin 64) (s t : State) : Prop where
  shape : t = { s with stalls := t.stalls, parts := t.parts, funcs := t.funcs, evBuf := t.evBuf, evOver := t.evOver,
                       sheaves := t.sheaves,
                       chain := { s.chain with attn := t.chain.attn, attnNew := t.chain.attnNew } }
  links : ∀ n : Fin 20, t.sheaf n = { s.sheaf n with tx := { (s.sheaf n).tx with syms := (t.sheaf n).tx.syms } }
  others : ∀ o : Fin 64, o ≠ st → t.stl o = { s.stl o with seq := { (s.stl o).seq with holds := (t.stl o).seq.holds } }
  apart : ∀ p : Fin 64, s.owner st ≠ some p → t.part p = s.part p
  own : ∀ p : Fin 64, t.part p =
    { s.part p with disp := (t.part p).disp, origin := (t.part p).origin, tree := (t.part p).tree }
  rings : ∀ f : Fin 65, t.func f = { s.func f with events := (t.func f).events, elost := (t.func f).elost }

/-- The scheduled engine operations of a Stall but those of its Hop Engine. -/
def engineCmds (st : Fin 64) (w : Word) : List Instr :=
  [.caLoad st w, .caRun st w, .caRunt st w, .caStore st w, .leLdc st w, .veLdc st w, .veQpack st w, .ltMove st w,
    .ltGather st w, .ltScatter st w, .ltFill st w] ++ (leCmds st w ++ veCmds st w).map (·.1)

/-- An operation of a Hop Engine, whose rows leave the Stall. -/
def Machine.Op.sends (o : Machine.Op) : Bool := match o.work with | .send .. => true | .dsend .. => true | _ => false

/-- A physical row that no row of a logical region of n rows from a base reaches as a write. -/
def Outside (s : State) (st : Fin 64) (base : Int) (n p : Nat) : Prop :=
  ∀ j : Nat, j < n → (s.stl st).xl.check (base.toNat + j) .write true ≠ .ok p

/-- A physical row holds what it held. -/
def RowKept (s t : State) (st : Fin 64) (p : Nat) : Prop := (t.stl st).pad.row p = (s.stl st).pad.row p

/-! Serving. -/

/-- The input of the next round is written: the choices held back are counted, and every slot's row goes to every Stall
of IN_MASK (14 R389, R396). -/
def RoundBegins (s t : State) (p : Fin 64) (c : Serving) : Prop :=
  (∃ a : Nat, (t.part p).ctx = some { c with stage := 0, acks := a, choices := 0, outToks := [] }) ∧
  (t.part p).newChoice = (s.part p).newChoice + c.choices ∧
  (∀ st ∈ s.inStalls p c, ∀ i : Nat, i < c.slots → ∃ d ∈ t.fab.downq[fieldOf st],
    d.stall = st ∧ d.arr.row = BitVec.ofNat 19 (c.inBase + i) ∧ d.arr.ctr = some c.inCtr ∧
    d.arr.data = (match c.reqs.get? i with | some r => r.row c.tps | none => Row.zero)) ∧
  t.stalls = s.stalls

/-- A packet's turn has come: none read before it on its ring still waits to be started (17 R481). -/
def InTurn (s : State) (k : Packet) : Prop := ∀ opc : Byte, s.onTurn opc k = true

/-- A packet's turn has come, and it passes the checks that all commands share (17 R480, R481, R484, R485). -/
def Accepted (s : State) (k : Packet) (r : Rule) (masks : List Word) : Prop := InTurn s k ∧ s.refuse k r masks = none

/-- The reply of a command will be written: no function-level reset has found it in flight, PCIe is up, and host memory
is in canonical form. -/
def CanReply (s : State) (k : Packet) : Prop :=
  (s.func k.fn).orphans.contains k = false ∧ s.pcieUp = true ∧ s.host.wf = true

/-- The eight words of a reply (17 Table 17.3). -/
def replyWords (opc : Byte) (k : Packet) (status : Byte) (ws : List Word) : List Word :=
  ((pack [(opc.toNat, 24), (status.toNat, 16), (k.idx.toNat, 0)] :: k.tag :: ws) ++ List.replicate 6 0).take 8

/-- A command has its reply: its words at REPLY_TAIL, the tail moved on, one command less in flight, and the MSI-X
message where IRQ_EN is 1 (17 R475, R478). -/
def Replied (s t : State) (opc : Byte) (k : Packet) (status : Byte) (ws : List Word) : Prop :=
  let x := s.func k.fn
  t.host.bytes (x.rbase.toNat + 32 * x.rtail.toNat) 32 = wordsBytes (replyWords opc k status ws) ∧
  (t.func k.fn).rtail = ringNext x.rtail x.rsize.toNat ∧ (t.func k.fn).infl = x.infl - 1 ∧
  (x.irq = true → .msix k.fn x.vec ∈ t.out)

/-- No byte of the next reply of a function lies in a range of host memory. -/
def ReplyApart (s : State) (k : Packet) (a n : Nat) : Prop :=
  let x := (s.func k.fn).rbase.toNat + 32 * (s.func k.fn).rtail.toNat
  a + n ≤ x ∨ x + 32 ≤ a

/-- The operator's event ring, where it is enabled and admits the class, receives an event about no partition (21 R616,
R620). -/
def Reported (s t : State) (code : Half) (a0 a1 : Word) : Prop :=
  (s.func 0).eenable = true → (s.func 0).emask.getLsbD (evClass code) = true →
    ∃ e ∈ (t.func 0).events, e.code = code ∧ e.modul = true ∧ e.cycle = BitVec.ofNat 64 s.cycle ∧ e.arg0 = a0 ∧ e.arg1 = a1

/-- This voltage of the cell lets no waiting change of a partition go on: the cell was ready, is not, or nothing waits (19 R569,
20 R610). -/
def CellSteady (s : State) (mv : Half) : Prop :=
  s.pwr.cellReady = true ∨ mv.toNat < 15500 ∨ ((∀ p : Fin 64, (s.part p).job = none) ∧ s.pwr.toM2 = false)

/-- The frame is for this module, whole and correct, and the chain head's processor hears it (20 R588). -/
def ToMe (s : State) (f : ChainFrame) : Prop :=
  s.pwr.mstate ≠ 3 ∧ f.dst ≠ 0xFF ∧ s.chain.addr = some f.dst ∧ frameOk f = true

/-- A broadcast frame, whole and correct. -/
def ToAll (s : State) (f : ChainFrame) : Prop := s.pwr.mstate ≠ 3 ∧ f.dst = 0xFF ∧ frameOk f = true

/-- The reply to a chain frame has left for the chain head (20 Table 20.3). -/
def ChainReplied (t : State) (f : ChainFrame) (status : Byte) (data : List Byte) : Prop :=
  .chain (freshCrc ⟨0, f.dst, f.cmd ||| 0x80, status :: data, 0⟩ true) ∈ t.out

/-- NumVFs after a configuration access that may write it (18 Table 18.4). -/
def pcieVfs (s : State) (n : Option (BitVec 7)) : BitVec 7 :=
  match n with
  | some v => if v.toNat ≤ 64 then v else s.numVfs
  | none => s.numVfs

/-- The commands that a chain frame may be. -/
def chainCmds (f : ChainFrame) : List Instr :=
  [.addrAssign f, .chainRead f, .chainWrite f, .setNode f, .wake f, .reset f, .attnPoll f, .attnAck f, .flashWrite f,
    .flashRead f, .enrollOwner f, .enrollCommit f, .chainFrameForward f]

/-- The commands that a packet may be, with opcode, rule and the bits that the words from 0x08 on use (17 Tables 17.6,
17.7). -/
def packetCmds (k : Packet) : List (Instr × Byte × Rule × List Word) :=
  let f : Word := 0xFFFFFFFF
  [(.ping k, 0x01, anyRing, [f]), (.queryInfo k, 0x02, anyRing, [0xFF]),
    (.partCreate k, 0x10, operator, [f, f, 0x80000FFF]), (.partDestroy k, 0x11, operatorPart, []),
    (.spanJoin k, 0x13, operatorPart, [0x0FFF3FFF, 0x1FFF1FFF, f, f]), (.spanLeave k, 0x14, operatorPart, []),
    (.imageLoad k, 0x20, anyMember, [0xCFFF0FFF, f, f, f, f, f]), (.imageVerify k, 0x21, anyMember, [0x80000FFF, f, f, f]),
    (.dispatch k, 0x22, headRing, [0xF]), (.halt k, 0x23, headRing, [1]), (.stepStatus k, 0x24, anyMember, []),
    (.granaryPutCreate k, 0x30, operator, [0xF0000FFF, 0xFFFFF, 0x7F]), (.granaryPutFree k, 0x30, operator, [0xF0000FFF]),
    (.granaryPutWrite k, 0x30, anyRing, [0xF0000FFF, f, f, f, f, f]),
    (.granaryGetRead k, 0x31, anyRing, [0xF0000FFF, f, f, f, f, f]), (.granaryGetInfo k, 0x31, anyRing, [0xF0000FFF]),
    (.modelSwap k, 0x32, headRing, [0xFFF]), (.adapterLoad k, 0x33, headRing, [0x800F0FFF, f, f, f]),
    (.adapterRetire k, 0x34, headRing, [0x000F0000]),
    (.serveOpen k, 0x40, headRing, [0xFFFFFDFF, f, f, 0x7FFFF, 0xFFFFFFF, 0x1FFFFF, 0x1FFFFF, 0x3F7FFF, 0x7FFFF, 0x1F, f, f]),
    (.serveClose k, 0x41, headRing, []), (.linkTrain k, 0x50, operator, [0xF77]), (.linkWidth k, 0x51, operator, [0x77]),
    (.linkStatus k, 0x52, operator, [0x1F]), (.freqSet k, 0x60, operator, [0x3F]), (.powerState k, 0x61, operator, [0x80000003]),
    (.ledgerRead k, 0x70, anyMember, [f, f]), (.ledgerSeal k, 0x71, anyMember, [f, f, f, f]),
    (.auxLoopback k, 0x7F, operator, [0xFF00001F, 0xFFFF])]

end Sys2Proof
end

