-- ==== Sys2Proof/Certificates/Slice0/Obligations.lean ====
section
/-! DEFINITION. The statements for the provers, made from the numbered rules of spec/. A clause that rests on a choice of
the model names its log entry. -/

open Sys2Proof Sys2Proof.Machine

/-- A step with a command at the front of the queue is that command's meaning on the rest of the queue. -/
def Obligations.StepRunsFront : Prop :=
  ∀ (c : Instr) (l : List Instr) (s : State), step { s with pending := c :: l } = exec c { s with pending := l }

/-- What a step does on an empty queue is the model's choice (log 19). -/
def Obligations.IdleStepTicks : Prop :=
  ∀ s : State, s.pending = [] →
    step s = .next s.tick ∧ (s.pwr.mstate = 3 → step s = .next s)

/-- Every step keeps the queue: all waiting commands stay well formed, and the rest of the queue stays in order. -/
def Obligations.QueueKeepsOrder : Prop :=
  ∀ s t : State, step s = .next t → t.pending = s.pending.tail ∧ (QueueOk s → QueueOk t)

/-- Every step keeps the canonical form of every memory, so that equal memories are equal data. -/
def Obligations.MemoriesKeepForm : Prop := ∀ s t : State, MemsOk s → step s = .next t → MemsOk t

/-- Every step keeps the partitions of the module apart (18 R506, R508). -/
def Obligations.PartitionsStayApart : Prop := 
  ∀ s t : State, PartsApart s → TableUntouched s → step s = .next t → PartsApart t

def Obligations.ResetMeetsInvariants : Prop := QueueOk State.reset ∧ MemsOk State.reset ∧ PartsApart State.reset

/-- Control operations that write only the Sequencer (09 R232, R238, R242, R243). -/
def Obligations.ControlWritesState : Prop :=
  ∀ (s : State) (st : Fin 64) (w : BitVec 96), s.issues st = true →
    (∀ slot : Fin 6, (slot = 0 → (s.stl st).seq.noBundle = false ∧ (s.stl st).seq.badBundle = false) →
      Completes (.nop st slot) s fun t => t = s) ∧
    (ctlExtra w [(67, 0)] = false → Completes (.keySet st w) s fun t =>
      t = s.modSeq st (fun q =>
        { q with keys := q.keys.set (fin 15 (fld w 67 64)) ⟨BitVec.ofNat 32 (fld w 31 0), BitVec.ofNat 32 (fld w 63 32)⟩ })) ∧
    (ctlExtra w [(26, 0)] = false → fld w 23 0 ≠ 0 → Completes (.loopSet st w) s fun t =>
      t = s.modSeq st (fun q => q.setLoop (fld w 26 24) ⟨BitVec.ofNat 24 (fld w 23 0), BitVec.ofNat 24 (fld w 23 0)⟩)) ∧
    (ctlExtra w [(26, 24), (13, 0)] = false → ((s.stl st).seq.loopStart (fld w 26 24)).cur = 1 →
      Completes (.loopEnd st w) s fun t =>
        t = s.modSeq st (fun q => q.setLoop (fld w 26 24) ⟨0, ((s.stl st).seq.loopStart (fld w 26 24)).start⟩)) ∧
    (ctlExtra w [(26, 24), (13, 0)] = false → 1 < ((s.stl st).seq.loopStart (fld w 26 24)).cur →
      Completes (.loopEnd st w) s fun t =>
        t = s.modSeq st (fun q => { q.setLoop (fld w 26 24) ⟨((s.stl st).seq.loopStart (fld w 26 24)).cur - 1,
          ((s.stl st).seq.loopStart (fld w 26 24)).start⟩ with branch := some (BitVec.ofNat 14 (fld w 13 0)) })) ∧
    (ctlExtra w [(13, 0)] = false → Completes (.jump st w) s fun t =>
      t = s.modSeq st (fun q => { q with branch := some (BitVec.ofNat 14 (fld w 13 0)) })) ∧
    (ctlExtra w [(23, 0)] = false → fld w 23 0 ≠ 0 → Completes (.idle st w) s fun t =>
      t = s.modSeq st (fun q => { q with idleTo := some (q.sched + fld w 23 0 + 1) }))

/-- Bundle faults of the control slot (09 R253, R635, Table 9.6, R249, R252). -/
def Obligations.BundleFaultsStop : Prop :=
  ∀ (s : State) (st p : Fin 64) (d : Dispatch) (w : BitVec 96) (c : Instr) (code : Byte), s.issues st = true →
    s.running st = some (p, d) → d.stop = none →
    (code = 0x02 ∧ (c, true) ∈ [(Instr.tallySet st w, ctlExtra w [(32, 0)]), (.keySet st w, ctlExtra w [(67, 0)]),
        (.loopSet st w, ctlExtra w [(26, 0)]), (.loopEnd st w, ctlExtra w [(26, 24), (13, 0)]), (.jump st w, ctlExtra w [(13, 0)]),
        (.idle st w, ctlExtra w [(23, 0)]), (.endDispatch st w, ctlExtra w [])] ∨
      code = 0x09 ∧ (c = .loopSet st w ∧ ctlExtra w [(26, 0)] = false ∧ fld w 23 0 = 0 ∨
        c = .loopEnd st w ∧ ctlExtra w [(26, 24), (13, 0)] = false ∧ ((s.stl st).seq.loopStart (fld w 26 24)).cur = 0) ∨
      code = 0x0D ∧ c = .idle st w ∧ ctlExtra w [(23, 0)] = false ∧ fld w 23 0 = 0 ∨
      code = 0x0B ∧ c = .nop st 0 ∧ ((s.stl st).seq.noBundle = true ∨ (s.stl st).seq.badBundle = true)) →
    Completes c s fun t =>
      (t.part p).disp = some { d with stop := some ⟨s.cycle + (s.part p).horizon, 1, stFaulted⟩ } ∧
      ((s.stl st).seq.fault.valid = true → (t.stl st).seq.fault = (s.stl st).seq.fault) ∧
      ((s.stl st).seq.fault.valid = false → (t.stl st).seq.fault.valid = true ∧ (t.stl st).seq.fault.kind = code ∧
        (t.stl st).seq.fault.agent = 0 ∧ (t.stl st).seq.fault.addr = BitVec.ofNat 32 (s.stl st).seq.pc.toNat ∧
        (t.stl st).seq.fault.cc = BitVec.ofNat 64 s.cycle) ∧
      (t.stl st).pad = (s.stl st).pad ∧ (t.stl st).seq.tally = (s.stl st).seq.tally ∧
      (t.stl st).seq.loops = (s.stl st).seq.loops ∧ (t.stl st).seq.keys = (s.stl st).seq.keys ∧
      (t.stl st).seq.branch = (s.stl st).seq.branch

/-- The tally operations (02 R46, R47, 04 R114, 09 R240, R241). -/
def Obligations.TallyOpsCount : Prop :=
  ∀ (s : State) (st : Fin 64) (w : BitVec 96) (c : Fin 512), s.issues st = true → s.sys.dbgOn = false →
    c = ctrIx (BitVec.ofNat 9 (fld w 32 24)) → (s.stl st).seq.ccs = [] →
    (ctlExtra w [(32, 0)] = false → Completes (.tallySet st w) s fun t =>
      (t.stl st).seq.tally[c].toNat = fld w 23 0 ∧
      (∀ e : Fin 512, e ≠ c → (t.stl st).seq.tally[e] = (s.stl st).seq.tally[e]) ∧
      (t.stl st).pad = (s.stl st).pad ∧ (t.stl st).seq.pc = (s.stl st).seq.pc) ∧
    (ctlExtra w [(33, 0)] = false → fld w 23 0 ≤ (s.stl st).seq.tally[c].toNat → Completes (.tallyWait st w) s fun t =>
      (t.stl st).seq.tally[c].toNat =
        (if bit w 33 then (s.stl st).seq.tally[c].toNat - fld w 23 0 else (s.stl st).seq.tally[c].toNat) ∧
      (∀ e : Fin 512, e ≠ c → (t.stl st).seq.tally[e] = (s.stl st).seq.tally[e]) ∧
      (t.stl st).pad = (s.stl st).pad ∧ (t.stl st).seq.pc = (s.stl st).seq.pc ∧
      (t.stl st).seq.holds = (s.stl st).seq.holds) ∧
    (∀ (p : Fin 64) (d : Dispatch) (i : Image), ctlExtra w [(33, 0)] = false → (s.stl st).seq.tally[c].toNat < fld w 23 0 →
      (s.stl st).seq.outstanding < 16 → s.running st = some (p, d) → d.faults = [] →
      (s.part p).image = some i → i.hold = true → Completes (.tallyWait st w) s fun t =>
        (t.stl st).seq.holds = (s.stl st).seq.holds ++
          [⟨some (BitVec.ofNat 9 (fld w 32 24), BitVec.ofNat 24 (fld w 23 0), bit w 33), s.cycle, (s.stl st).seq.sched, none⟩] ∧
        (t.part p).tree.marks = (s.part p).tree.marks ++ [(s.cycle, true)] ∧
        (t.stl st).seq.tally = (s.stl st).seq.tally ∧ (t.stl st).pad = (s.stl st).pad ∧
        (t.stl st).seq.pc = (s.stl st).seq.pc)

/-- Control operations that read rows or write words later (04 R119, R120, 09 Table 9.5, R250). -/
def Obligations.RowsOfControl : Prop :=
  (∀ (s : State) (st : Fin 64) (w : BitVec 96), s.issues st = true → s.sys.dbgOn = false →
    (∀ p : Nat, ctlExtra w [(87, 7)] = false → fld w 87 84 ≤ 8 → fld w 61 58 ≤ 8 → fld w 64 63 ≠ 3 →
      outRange (ctlRow (fld w 83 65) (fld w 19 7) ((s.stl st).seq.iter (fld w 87 84))) 1 = false →
      (bit w 53 = true → outRange (ctlRow (fld w 52 34) (fld w 19 7) ((s.stl st).seq.iter (fld w 87 84))) 1 = false) →
      Readable s st (ctlRow (fld w 83 65) (fld w 19 7) ((s.stl st).seq.iter (fld w 87 84))).toNat p →
      Completes (.cnt st w) s fun t =>
        let n := cntCount ((s.stl st).pad.row p) (fld w 64 63) (fld w 61 58) (bit w 62) (s.stl st).seq.keys[fin 15 (fld w 57 54)]
        Issued s t st
          (if bit w 53 then
            ctlOpOf 4 3 (.words (ctlRow (fld w 52 34) (fld w 19 7) ((s.stl st).seq.iter (fld w 87 84))).toNat
              (fld w 33 29) [BitVec.ofNat 32 n])
          else ctlOpOf 4 2 (.count (BitVec.ofNat 9 (fld w 28 20)) n)) ∧
        (t.stl st).pad.mem = (s.stl st).pad.mem ∧ (t.stl st).seq = (s.stl st).seq) ∧
    (ctlExtra w [(87, 47)] = false → fld w 87 84 ≤ 8 → fld w 64 60 % 2 = 0 →
      outRange (ctlRow (fld w 83 65) (fld w 59 47) ((s.stl st).seq.iter (fld w 87 84))) 1 = false →
      Completes (.scyc st w) s fun t => t = s.ctlOp st (ctlOpOf 5 2
        (.words (ctlRow (fld w 83 65) (fld w 59 47) ((s.stl st).seq.iter (fld w 87 84))).toNat (fld w 64 60)
          [BitVec.ofNat 32 (s.stl st).seq.sched, BitVec.ofNat 32 ((s.stl st).seq.sched / 2 ^ 32)]))) ∧
    (ctlExtra w [(87, 33)] = false → fld w 87 84 ≤ 8 →
      outRange (ctlRow (fld w 83 65) (fld w 45 33) ((s.stl st).seq.iter (fld w 87 84))) (32 * (fld w 50 46 + 1)) = false →
      fld w 64 51 + 128 * (fld w 50 46 + 1) ≤ 16384 →
      ctlRow (fld w 83 65) (fld w 45 33) ((s.stl st).seq.iter (fld w 87 84)) % 32 = 0 → fld w 64 51 % 128 = 0 →
      (s.stl st).busy 0 = false → Completes (.page st w) s fun t => ∃ (bs : List (BitVec 256)) (bad : List Nat),
        Issued s t st (begun ⟨0, 7, 0, 0⟩ ⟨0, 7, 0, 0⟩ 0x30 (fld w 50 46 + 1) (fld w 50 46 + 2)
          (.page (ctlRow (fld w 83 65) (fld w 45 33) ((s.stl st).seq.iter (fld w 87 84))).toNat (fld w 64 51 / 128) bs bad)) ∧
        (t.stl st).pad.mem = (s.stl st).pad.mem ∧ (t.stl st).busy 0 = true)) ∧
  (∀ (s : State) (st : Fin 64) (o : Op),
    (∀ (c : BitVec 9) (n : Nat), o.work = .count c n → o.t + 1 = o.len → (s.stl st).seq.ccs = [] →
      (((s.opCc st o).1.stl st).seq.tally[ctrIx c]).toNat = min ((s.stl st).seq.tally[ctrIx c].toNat + n) 0xFFFFFF) ∧
    (∀ (row i p : Nat) (ws : List Word), o.work = .words row i ws → o.t + 1 = o.len → s.sys.dbgOn = false →
      (s.stl st).pad.mem.wf = true → Writable s st row p → i + ws.length ≤ 32 →
      ∀ k : Fin 32, (((s.opCc st o).1.stl st).pad.row p)[k] =
        (if i ≤ k.val ∧ k.val < i + ws.length then ws.getD (k.val - i) 0 else ((s.stl st).pad.row p)[k])) ∧
    (∀ (row line : Nat) (bs : List (BitVec 256)) (bad : List Nat), o.work = .page row line bs bad → 1 ≤ o.t →
      line + o.t ≤ 128 → ((s.opCc st o).1.stl st).seq.valid.getLsbD (line + o.t - 1) = true))

/-- Step boundaries and the end of issue (09 R243 to R246, 02 R55, 07 R189, 06 R165, 10 R278). -/
def Obligations.StepBoundaries : Prop :=
  ∀ (s : State) (st : Fin 64) (w : BitVec 96), s.issues st = true → s.sys.dbgOn = false →
    (ctlExtra w [(31, 0)] = false → Completes (.stepMark st w) s fun t =>
      (t.stl st).seq.step = BitVec.ofNat 32 (fld w 31 0) ∧
      (t.stl st).seq.steps = satAdd (s.stl st).seq.steps 1 ∧
      (t.stl st).le.const = Vector.replicate 16 0 ∧ (t.stl st).ve.const = Vector.replicate 16 0 ∧
      (t.stl st).ca.valid = false ∧ (t.stl st).he.issues = 0 ∧
      (t.stl st).seq.recs.head? = some ((s.stl st).seq.stepRec (BitVec.ofNat 32 (fld w 31 0)) s.cycle) ∧
      (t.stl st).seq.pc = (s.stl st).seq.pc ∧ (t.stl st).pad = (s.stl st).pad) ∧
    (ctlExtra w [(3, 0)] = false → Completes (.epochSync st w) s fun t =>
      ∃ a : BitVec 4, (t.stl st).act = some a ∧ fld w 3 0 ≤ a.toNat ∧ (∀ b, (s.stl st).act = some b → b.toNat ≤ a.toNat) ∧
        (a.toNat = fld w 3 0 ∨ (s.stl st).act = some a)) ∧
    (∀ (p : Fin 64) (d : Dispatch) (other : Fin 64), ctlExtra w [] = false → s.running st = some (p, d) →
      other ∈ (s.part p).members → other ≠ st → (s.stl other).seq.endedAt = none → Completes (.endDispatch st w) s fun t =>
        (t.stl st).seq.state = .ended ∧ (t.stl st).seq.endedAt = some s.cycle ∧ (t.part p).disp = (s.part p).disp ∧
        t.stl other = s.stl other) ∧
    (∀ u : Nat, (s.stl st).seq.idleTo = some u → u ≤ (s.stl st).seq.sched →
      Completes (.idleCountEnd st) s fun t => t = s.modSeq st fun q => { q with idleTo := none })

/-- The dispatch ends with its last END (09 R246); the clauses on a decided fault stop and on an outstanding step fault are
the model's reading (log 48). -/
def Obligations.EndOfDispatch : Prop :=
  ∀ (s : State) (st p : Fin 64) (w : BitVec 96) (d : Dispatch), s.issues st = true → s.sys.dbgOn = false →
    ctlExtra w [] = false → s.running st = some (p, d) → (s.part p).cnt[8].toNat < 2 ^ 64 - 1 →
    (∀ o ∈ (s.part p).members, o ≠ st → (s.stl o).seq.endedAt.isSome = true) → Completes (.endDispatch st w) s fun t =>
      (t.part p).disp = some { d with closing := true } ∧ (t.stl st).seq.state = .ended ∧
      (d.stop = none → d.faults = [] → (s.part p).queue = [] →
        let u := t.closeCc p
        (u.part p).disp = none ∧ (u.part p).lastStat = some stOk ∧ (u.stl st).seq.state = .ended ∧
        (u.part p).cnt[8].toNat = (s.part p).cnt[8].toNat + 1 ∧ (u.part p).choiceLast = (s.part p).choice) ∧
      (d.stop ≠ none ∨ d.faults ≠ [] → ((t.closeCc p).part p).disp = some { d with closing := false })

/-- Accesses of another width or alignment (00 R17). -/
def Obligations.MisalignedAccess : Prop :=
  ∀ (s : State) (rq : Requester) (off : BitVec 24), ∃ (ba : Word) (new : Bool) (fc : Nat),
    let u := { s with fab := { s.fab with badacc := ba, bitsNew := (s.fab.bitsNew.1, new, s.fab.bitsNew.2.2) }, freeCtr := fc }
    (bit s.fab.badacc 31 = true → ba = s.fab.badacc ∧ new = s.fab.bitsNew.2.1) ∧
    (bit s.fab.badacc 31 = false → bit ba 31 = true ∧ fld ba 30 28 = 1 ∧ fld ba 23 0 = off.toNat ∧ new = true) ∧
    (∀ width : Nat, (off.toNat % 4 ≠ 0 ∨ width ≠ 32) →
      exec (.misalignedRegisterAccess rq off width false) s = .next { u with out := s.out ++ [.read rq 0xFFFFFFFF] } ∧
      exec (.misalignedRegisterAccess rq off width true) s = .next u) ∧
    (off.toNat % 4 ≠ 0 → s.fab.drainTo = none →
      exec (.rsRegisterRead rq off) s = .next { u with out := s.out ++ [.read rq 0xFFFFFFFF] } ∧
      exec (.lowWordRead rq off) s = .next { u with out := s.out ++ [.read rq 0xFFFFFFFF] } ∧
      ∀ v : Word, exec (.registerWrite rq off v) s = .next u)

/-- Accesses with no path (16 R443, 21 R627). -/
def Obligations.NoPathAccess : Prop :=
  ∀ (s : State) (rq : Requester) (off : BitVec 24), off.toNat % 4 = 0 → s.fab.drainTo = none →
    ∃ (ba : Word) (new : Bool) (fc : Nat),
    let u := { s with fab := { s.fab with badacc := ba, bitsNew := (s.fab.bitsNew.1, new, s.fab.bitsNew.2.2) }, freeCtr := fc }
    (bit s.fab.badacc 31 = true → ba = s.fab.badacc ∧ new = s.fab.bitsNew.2.1) ∧
    (bit s.fab.badacc 31 = false → bit ba 31 = true ∧ fld ba 30 28 = 2 ∧ fld ba 23 0 = off.toNat ∧ new = true) ∧
    ((regAt rq off = none ∨ ∃ r, regAt rq off = some r ∧ (mayRead rq r = false ∨ s.regVal r = none)) →
      exec (.rsRegisterRead rq off) s = .next { u with out := s.out ++ [.read rq 0xFFFFFFFF] } ∧
      exec (.lowWordRead rq off) s = .next { u with out := s.out ++ [.read rq 0xFFFFFFFF] }) ∧
    ((regAt rq off = none ∨ ∃ r, regAt rq off = some r ∧ (mayWrite rq r = false ∨ s.regVal r = none)) →
      ∀ v : Word, exec (.registerWrite rq off v) s = .next u)

/-- Reads of registers (00 R11, R12, R16, R18, 16 R466). -/
def Obligations.RegisterReads : Prop :=
  (∀ (s : State) (rq : Requester) (off : BitVec 24) (r : Reg) (v : Val), off.toNat % 4 = 0 → regAt rq off = some r →
    s.regVal r = some v → s.reaches rq r false = true → s.lockWas = none → s.fab.drainTo = none →
    (∀ w : Word, v = .word w → exec (.rsRegisterRead rq off) s = .next ((s.readAt r).emit (.read rq w))) ∧
    (∀ w : Word, r.rs = true → v = .word w → (s.readAt r).regVal r = some (.word 0)) ∧
    (∀ d : DWord, v = .low d → Completes (.lowWordRead rq off) s fun t =>
      t.out = s.out ++ [.read rq (loW d)] ∧ t.latch.getD (latchKey rq) 0 = hiW d ∧
      (∀ rq' : Requester, latchKey rq' ≠ latchKey rq → t.latch.getD (latchKey rq') 0 = s.latch.getD (latchKey rq') 0) ∧
      t = { s with out := t.out, latch := t.latch }) ∧
    (v = .high → exec (.rsRegisterRead rq off) s = .next (s.emit (.read rq (s.latch.getD (latchKey rq) 0))))) ∧
  (∀ (s : State) (f : Fin 65) (off : BitVec 24) (u : Nat) (v : Word), s.fab.drainTo = some u →
    exec (.rsRegisterRead (.host f) off) s = .next { s with fab := { s.fab with atLink := s.fab.atLink ++ [(f, off, none)] } } ∧
    exec (.lowWordRead (.host f) off) s = .next { s with fab := { s.fab with atLink := s.fab.atLink ++ [(f, off, none)] } } ∧
    exec (.registerWrite (.host f) off v) s = .next { s with fab := { s.fab with atLink := s.fab.atLink ++ [(f, off, some v)] } })

/-- Writes of registers by their access codes (00 R12, R14, R15, 21 R628). -/
def Obligations.RegisterWrites : Prop :=
  ∀ (s : State) (v : Word), s.fab.lock = none → s.fab.drainTo = none →
    exec (.registerWrite (.host 0) 0x053008#24 v) s = .next { s with chain := { s.chain with mask := v.setWidth 8 } } ∧
    exec (.registerWrite (.host 0) 0x053004#24 v) s =
      .next { s with chain := { s.chain with attn := s.chain.attn &&& ~~~(v.setWidth 8 &&& ~~~s.chain.attnNew) } } ∧
    (500 ≤ fld v 11 0 → fld v 11 0 ≤ 2200 → exec (.registerWrite (.host 0) 0x050004#24 v) s =
      .next { s with pwr := { s.pwr with limit := BitVec.ofNat 12 (fld v 11 0) } }) ∧
    ((fld v 11 0 < 500 ∨ 2200 < fld v 11 0) → exec (.registerWrite (.host 0) 0x050004#24 v) s = .next s) ∧
    exec (.registerWrite (.host 0) 0x040010#24 v) s = .next { s with fab := { s.fab with
      badacc := if bit v 31 && !s.fab.bitsNew.2.1 then s.fab.badacc &&& 0x7FFFFFFF else s.fab.badacc } } ∧
    exec (.registerWrite (.host 0) 0x000000#24 v) s = .next s ∧
    (∀ (st : Fin 64) (n : Fin 512) (a : BitVec 22), a.toNat = 0x10000 * st.val + 4 * n.val → s.bridgeOk st = true →
      ((s.running st).isSome = false → exec (.bridgeAccess a (some v)) s =
        .next (s.modSeq st fun q => { q with tally := q.tally.set n (BitVec.ofNat 24 (fld v 23 0)) })) ∧
      ((s.running st).isSome = true → exec (.bridgeAccess a (some v)) s = .next s) ∧
      (s.lockWas = none → exec (.bridgeAccess a none) s =
        .next { s with out := s.out ++ [.read (.host 0) ((s.stl st).seq.tally[n].setWidth 32)] })) ∧
    (∀ (st : Fin 64) (a : BitVec 22), 0x10000 * st.val ≤ a.toNat → a.toNat < 0x10000 * (st.val + 1) →
      s.bridgeOk st = false → Completes (.bridgeAccess a (some v)) s fun t => t = { s with fab := t.fab } ∧
      (bit s.fab.badacc 31 = false → bit t.fab.badacc 31 = true))

/-- Stationary loads (06 R164 to R168). -/
def Obligations.CubeLoads : Prop :=
  (∀ (s : State) (st : Fin 64) (w : Word),
    let p := precAt s st w
    let x := fld (recordAt s st w)[4] 7 0
    CubeIssues s st w false → outRange (addrAt s st w 0) (256 * (p.wbits + 1)) = false → addrAt s st w 0 % 32 = 0 →
    (p.book = true → outRange (addrAt s st w 1) 768 = false ∧ addrAt s st w 1 % 32 = 0) →
    (p.tset = true → outRange (addrAt s st w 2) 768 = false ∧ addrAt s st w 2 % 32 = 0) →
    ((s.stl st).busy 1 = false → Completes (.caLoad st w) s fun t =>
      Issued s t st (begun (caAgent x (descAt s st x)[15]) (caAgent x (descAt s st x)[15]) 1 512 512
        (.load (addrAt s st w 0).toNat (addrAt s st w 1).toNat (addrAt s st w 2).toNat (p.wbits + 1) p.book p.tset)) ∧
      (t.stl st).ca.loading = true ∧ (t.stl st).ca.valid = false ∧
      (t.stl st).ca.wenc = p.book ∧ (t.stl st).ca.wbits.toNat = p.wbits ∧ (t.stl st).ca.wsign = p.wsign ∧
      (t.stl st).ca.tset = p.tset ∧ (t.stl st).ca.tileRow.toNat = (addrAt s st w 0).toNat ∧
      (t.stl st).ca.acc = (s.stl st).ca.acc ∧ (t.stl st).ca.scale = (s.stl st).ca.scale) ∧
    ((s.stl st).busy 1 = true → s.sys.dbgOn = false →
      exec (.caLoad st w) s = .next (s.modCa st fun x => { x with dropped := satAdd x.dropped 1 }))) ∧
  (∀ (s : State) (st : Fin 64) (o : Op) (a0 a1 a2 n byte row : Nat) (book tset : Bool) (p : Nat → Nat),
    o.work = .load a0 a1 a2 n book tset → loadLine a0 a1 a2 n book tset o.t = some (0, byte, row) →
    (s.stl st).ca.tile.wf = true → RowsReadable s st row 32 p → ∀ i : Nat, i < 32 →
      ((s.opCc st o).1.stl st).ca.tile.row (byte + 128 * i) = (s.stl st).pad.row (p i)) ∧
  (∀ (s : State) (st : Fin 64),
    ((s.stl st).ca.loading = true → (s.stl st).ops.any Op.isLoad = false →
      exec (.caLoadComplete st) s = .next (s.modCa st fun x => { x with loading := false, valid := true })) ∧
    ((s.stl st).ops.any Op.isLoad = true → exec (.caLoadComplete st) s = .next s))

/-- Runs and stores (06 R163, R164, R170, R173 to R175). -/
def Obligations.CubeRuns : Prop :=
  (∀ (s : State) (st : Fin 64) (w : Word),
    let p := precAt s st w
    let r := recordAt s st w
    let c := (s.stl st).ca
    let x := fld r[4] 7 0
    let n := fld r[4] 17 13 + 1
    (∀ transposed : Bool, CubeIssues s st w transposed → outRange (addrAt s st w 0) (4 * (p.abits + 1) * n) = false →
      addrAt s st w 0 % 4 = 0 → (s.stl st).busy 1 = false → c.valid = true → c.wenc = p.book →
      c.wbits.toNat = p.wbits → c.tset = p.tset → (p.book = true ∨ c.wsign = p.wsign) →
      (p.zskip = true → fld r[5] 19 0 ≠ 0) → Completes (if transposed then .caRunt st w else .caRun st w) s fun t =>
        (∃ o : Op, Issued s t st o ∧ o.isRun = true ∧ o.t = 1 ∧ o.opc = (if transposed then 3 else 2) ∧
          o.ag = caAgent x (descAt s st x)[15]) ∧
        (t.stl st).ca.tile = c.tile ∧ (t.stl st).ca.valid = true ∧ (t.stl st).ca.scale = c.scale ∧
        (t.stl st).ca.zs = (if p.zskip then some ⟨fld r[5] 19 0, false⟩ else c.zs)) ∧
    (CubeIssues s st w false → outRange (addrAt s st w 0) (n * p.rs) = false → (p.ofmt = 0 → addrAt s st w 0 % 4 = 0) →
      (s.stl st).busy 1 = false → Completes (.caStore st w) s fun t =>
        (∃ rows : List Row, rows.length = n * p.rs ∧
          Issued s t st (begun (caAgent x (descAt s st x)[15]) (caAgent x (descAt s st x)[15]) 4 (ceilDiv (n * p.rs) 32)
            (ceilDiv (n * p.rs) 32) (.store (addrAt s st w 0).toNat rows))) ∧
        (t.stl st).ca.acc = c.acc ∧ (t.stl st).ca.tile = c.tile ∧ (t.stl st).ca.valid = c.valid)) ∧
  (∀ (s : State) (st : Fin 64) (o : Op),
    (∀ (p : Prec) (tr add : Bool) (base slot steps step cyc : Nat) (act : List Row),
      o.work = .run p tr add base slot steps step cyc cyc act → p.zskip = false → act.length = min (32 * cyc) (4 * (p.abits + 1)) →
      let len := (p.abits + 1) * (if p.book then 3 else p.wbits + 1)
      (cyc + 1 < len → (s.opCc st o).2.over = false ∧ ∃ act' : List Row,
        (s.opCc st o).2.work = .run p tr add base slot steps step (cyc + 1) (cyc + 1) act' ∧
        act'.length = min (32 * (cyc + 1)) (4 * (p.abits + 1))) ∧
      (cyc + 1 = len → (s.opCc st o).2.work = .run p tr add base slot steps (step + 1) 0 0 [] ∧
        ((s.opCc st o).2.over = true ↔ step + 1 = steps))) ∧
    (∀ (base : Nat) (rows : List Row) (p : Nat → Nat), o.work = .store base rows → (s.stl st).pad.mem.wf = true →
      RowsWritable s st (base + 32 * o.t) (min 32 (rows.length - 32 * o.t)) p →
      ∀ i : Nat, i < min 32 (rows.length - 32 * o.t) →
        ((s.opCc st o).1.stl st).pad.row (p i) = rows.getD (32 * o.t + i) Row.zero))

/-- The sums of a step, formed plane by plane, are the exact product (06 R169, R171, R172). -/
def Obligations.CubeSums : Prop :=
  ∀ (c : Cube) (p : Prec) (slot : Nat) (act : Mem), c.wenc = false → slot < 32 → Tab.rising none c.acc = true →
    let w := c.wbits.toNat
    let c' := (c.clearSlot slot).passes p false act slot (List.range (p.abits + 1)) (w + 1) 0 ((p.abits + 1) * (w + 1))
    (∀ (t : Fin 8) (j : Fin 512),
      let a := Tab.getD c'.acc (4096 * slot + 512 * t.val + j.val) ⟨0, false⟩
      a.sat = false ∧ a.v.toInt = ((List.range 512).map (fun i =>
        planeSum p.asign p.abits (fun q => b2n (actBit act q t.val i)) *
        planeSum c.wsign w (fun n => tileBit c.tile n i j.val))).sum) ∧
    (∀ k : Nat, (k < 4096 * slot ∨ 4096 * slot + 4096 ≤ k) →
      Tab.getD c'.acc k ⟨0, false⟩ = Tab.getD c.acc k ⟨0, false⟩)

/-- Zero-skip budgets (06 R175, 02 R47, R50). -/
def Obligations.CubeZeroSkip : Prop :=
  ∀ (s : State) (st p : Fin 64) (d : Dispatch) (z : ZsRun), (s.stl st).ca.zs = some z → s.running st = some (p, d) →
    ((z.left ≠ 0 ∨ z.raised = true ∨ (s.stl st).ops.any Op.isRun = false) → exec (.zeroSkipBudgetEnd st) s = .next s) ∧
    (∀ i : Image, z.left = 0 → z.raised = false → (s.stl st).ops.any Op.isRun = true →
      (s.stl st).seq.outstanding < 16 → (s.part p).image = some i → i.hold = true → d.faults = [] →
      Completes (.zeroSkipBudgetEnd st) s fun t =>
        (t.stl st).ca.overrun = satAdd (s.stl st).ca.overrun 1 ∧
        (t.stl st).ca.zs = some { z with raised := true } ∧
        (t.stl st).seq.holds = (s.stl st).seq.holds ++ [⟨none, s.cycle, (s.stl st).seq.sched, none⟩] ∧
        (t.part p).tree.marks = (s.part p).tree.marks ++ [(s.cycle, true)]) ∧
    ((s.stl st).ops.any Op.isRun = false → Completes (.zeroSkipRunComplete st) s fun t =>
      (t.stl st).ca.zs = none ∧ (t.stl st).ca.acc = (s.stl st).ca.acc ∧
      ((s.stl st).seq.holds.any RaisedHold.isRun = true →
        (t.stl st).seq.holds = releaseHold (fun h => h.wait.isNone) s.cycle (s.stl st).seq.holds ∧
        (t.part p).tree.marks = (s.part p).tree.marks ++ [(s.cycle, false)]) ∧
      ((s.stl st).seq.holds.any RaisedHold.isRun = false →
        (t.stl st).seq.holds = (s.stl st).seq.holds ∧ (t.part p).tree = (s.part p).tree)) ∧
    ((s.stl st).ops.any Op.isRun = true → exec (.zeroSkipRunComplete st) s = .next s)

/-- The Layout Engine (08 R221 to R228). -/
def Obligations.LayoutOps : Prop :=
  (∀ (s : State) (st : Fin 64) (w : Word),
    let r := recordAt s st w
    let si := fld r[4] 7 0
    let di := fld r[4] 15 8
    let sd := descAt s st si
    let dd := descAt s st di
    let m := (s.stl st).xl.mesh
    let began (t : State) (opc : Byte) (sa da : Agent) (cost : Nat) : Prop :=
      (t.stl st).te.opc = opc ∧ ∃ wk : Work, Issued s t st (begun sa da opc cost cost wk)
    LayoutIssues s st w →
    (∀ q : MovePath, descSound s st si → descSound s st di → sd.bad m = false → dd.bad m = false → sd.fits dd = true →
      movePath sd dd m = some q → outRange sd.base (sd.rows m) = false → outRange dd.base (dd.rows m) = false →
      Completes (.ltMove st w) s fun t =>
        began t 1 (teAgent si sd) (teAgent di dd) (match q with
          | .row => dd.rows m + 2 | .line => dd.rows m / 32 + 2 | .tile => dd.rows m + 32) ∧
        ((t.stl st).te.tilePath = true ↔ q = .tile) ∧ (t.stl st).pad.mem = (s.stl st).pad.mem) ∧
    (∀ (scatter : Bool) (rs : Nat), descSound s st si → sd.bad m = false → sd.slice m = some rs →
      outRange (addrAt s st w 0) (ceilDiv (fld r[4] 27 16 + 1) 32) = false →
      outRange (addrAt s st w 1) ((fld r[4] 27 16 + 1) * rs) = false → outRange sd.base (sd.rows m) = false →
      Completes (if scatter then .ltScatter st w else .ltGather st w) s fun t =>
        began t (if scatter then 3 else 2) (teAgent si sd) (teAgent si sd)
          (ceilDiv (fld r[4] 27 16 + 1) 32 + (fld r[4] 27 16 + 1) *
            (rs / (if rs % 32 = 0 ∧ sd.base % 32 = 0 ∧ addrAt s st w 1 % 32 = 0 then 32 else 1)) + 2) ∧
        (t.stl st).te.tilePath = false ∧ (t.stl st).pad.mem = (s.stl st).pad.mem) ∧
    (∀ p : Nat → Nat, descSound s st di → dd.bad m = false → outRange dd.base (dd.rows m) = false →
      (s.stl st).pad.mem.wf = true → RowsWritable s st dd.base (min 32 (dd.rows m)) p →
      Completes (.ltFill st w) s fun t =>
        began t 4 (teAgent di dd) (teAgent di dd) (ceilDiv (dd.rows m) 32) ∧
        ∀ i : Nat, i < min 32 (dd.rows m) → (t.stl st).pad.row (p i) = dd.padRow)) ∧
  (∀ (s : State) (st : Fin 64) (o : Op) (d : Desc) (p : Nat → Nat), o.work = .fill d → (s.stl st).pad.mem.wf = true →
    let n := min 32 (d.rows (s.stl st).xl.mesh - 32 * o.t)
    RowsWritable s st (d.base + 32 * o.t) n p →
    ∀ i : Nat, i < n → ((s.opCc st o).1.stl st).pad.row (p i) = d.padRow)

/-- The timing of both engines and their result writes (07 R186 to R188, Table 7.5). -/
def Obligations.LaneOpsAccepted : Prop :=
  (∀ (s : State) (st : Fin 64) (w : Word) (c : Instr) (o : LaneOp), (c, o) ∈ leCmds st w ++ veCmds st w →
    (LaneReady s st w o → Completes c s fun t =>
      (∃ res : List (List Nat × Nat × Nat), res.length = 1 ∧ Issued s t st (laneIssued s st w o res)) ∧
      (t.stl st).busy (laneAgent o.vec).slot = true ∧ (t.stl st).pad.mem = (s.stl st).pad.mem ∧
      (t.stl st).lanes o.vec = { (s.stl st).lanes o.vec with opc := o.opc } ∧
      (t.stl st).lanes (!o.vec) = (s.stl st).lanes (!o.vec) ∧ (t.stl st).ca = (s.stl st).ca) ∧
    (s.issues st = true → s.sys.dbgOn = false → (s.stl st).seq.recBadAt (slotRec w) = false →
      o.refused w (recordAt s st w) (laneRec s st w) = none → (s.stl st).busy (laneAgent o.vec).slot = true →
      exec c s = .next (s.modLanes st o.vec fun x => { x with dropped := satAdd x.dropped 1 }))) ∧
  (∀ (s : State) (st : Fin 64) (o : Op) (l : LaneFn) (r8 : Vector Word 8) (k : Nat) (vs : List Nat) (ca cb : Nat)
    (rest : List (List Nat × Nat × Nat)) (prev : Nat) (p : Nat → Nat),
    let r := vecRec r8 k
    let er := l.op.er r.fmt r.tgt
    let n := l.op.lanes r.fmt * er / 128
    let v := o.t - l.op.lat r.fmt
    laneFn l.op.vec o.opc = some l → o.work = .lanes l.op.vec r8 k ((vs, ca, cb) :: rest) prev → l.op.seg = false →
    l.op.lat r.fmt ≤ o.t → vs.length = l.op.lanes r.fmt → r.fmt ≤ 2 → r.tgt ≤ 2 → (s.stl st).pad.mem.wf = true →
    RowsWritable s st (r.res.toNat + n * v) n p →
    let t := (s.opCc st o).1
    (∀ j : Nat, j < n → (t.stl st).pad.row (p j) = rowOf (((elemWords er vs).drop (32 * j)).take 32)) ∧
    (∀ q : Nat, (∀ j : Nat, j < n → p j ≠ q) → RowKept s t st q) ∧
    ((t.stl st).lanes l.op.vec).cntA = satAdd ((s.stl st).lanes l.op.vec).cntA ca ∧
    ((t.stl st).lanes l.op.vec).cntB = satAdd ((s.stl st).lanes l.op.vec).cntB cb ∧ (s.opCc st o).2.t = o.t + 1)

/-- Results of the Log Engine (07 Table 7.2). -/
def Obligations.LogLanes : Prop :=
  ∀ (s : State) (st : Fin 64) (w : Word) (c : Instr) (o : LaneOp) (f : Half → Half → Nat),
    (c, o, f) ∈ leLane st w (laneRec s st w).fmt → ConstRun s st w o → Completes c s fun t =>
      FirstResult s t st w o (List.replicate 512
        (f (BitVec.ofNat 16 (cstOf s st false 2 ((laneRec s st w).cidx 0)))
          (BitVec.ofNat 16 (cstOf s st false 2 ((laneRec s st w).cidx 1)))))

/-- Results of the Vector Engine (07 Table 7.3). -/
def Obligations.VectorLanes : Prop :=
  ∀ (s : State) (st : Fin 64) (w : Word) (c : Instr) (o : LaneOp) (f : Word → Word → Word → Word),
    (c, o, f) ∈ veLane st w → ConstRun s st w o → (laneRec s st w).fmt = 2 → Completes c s fun t =>
      FirstResult s t st w o (List.replicate 256
        (f (s.stl st).ve.const[fin 15 ((laneRec s st w).cidx 0)] (s.stl st).ve.const[fin 15 ((laneRec s st w).cidx 1)]
          (s.stl st).ve.const[fin 15 ((laneRec s st w).cidx 2)]).toNat)

/-- Constants and packed tiles (07 R189, R197). -/
def Obligations.LaneConstantsAndPack : Prop :=
  (∀ (s : State) (st : Fin 64) (w : Word), s.issues st = true → (s.stl st).seq.recBadAt (slotRec w) = false →
    (slotBad w || vecRecBad (recordAt s st w)) = false →
    (∀ (vec : Bool) (p : Nat), s.sys.dbgOn = false → outRange ((laneRec s st w).base 0) 1 = false →
      (s.stl st).busy (laneAgent vec).slot = false → Readable s st ((laneRec s st w).base 0).toNat p →
      Completes (if vec then .veLdc st w else .leLdc st w) s fun t =>
        Issued s t st (begun (laneAgent vec) (laneAgent vec) (if vec then 0x17 else 0x12) 1 2
          (.ldc vec ((((s.stl st).pad.row p).toList.drop (16 * (laneRec s st w).half)).take 16))) ∧
        ((t.stl st).lanes vec).const = ((s.stl st).lanes vec).const ∧ (t.stl st).pad.mem = (s.stl st).pad.mem) ∧
    (let r := laneRec s st w
      let vpt := if r.fmt = 1 then 8 else 16
      r.fmt ≤ 2 → r.mode 0 ≠ 3 → r.n % vpt = 0 → r.res % 8 = 0 → (r.mode 0 = 2 ∨ r.base 0 % 8 = 0) →
      (r.mode 0 = 2 ∨ outRange (r.base 0) (r.rows 0 (veBytes r.fmt) (veLanes r.fmt)) = false) →
      outRange r.res (4 * r.abits * (r.n / vpt)) = false → (s.stl st).busy 3 = false →
      (s.stl st).writeOrder true (vpt + 5) = false → Completes (.veQpack st w) s fun t =>
        (∃ wk : Work, Issued s t st (begun (laneAgent true) (laneAgent true) 0x16 r.n (r.n + 5 + ceilDiv (4 * r.abits) 32) wk)) ∧
        (t.stl st).ve = { (s.stl st).ve with opc := 0x16 } ∧ (t.stl st).pad.mem = (s.stl st).pad.mem)) ∧
  (∀ (s : State) (st : Fin 64) (o : Op) (vec : Bool) (ws : List Word), (s.stl st).ops = [o] → o.work = .ldc vec ws →
    o.len ≤ o.t → s.paused st = false →
    (((s.startOps st).stl st).lanes vec).const = Vector.ofFn (fun i : Fin 16 => ws.getD i.val 0) ∧
    ((s.startOps st).stl st).ops = [])

/-- LNS16 multiplication (05 R154). -/
def Obligations.LogProduct : Prop :=
  ∀ a b : Half,
    ((a.setWidth 15 = (0x4000 : BitVec 15) ∨ b.setWidth 15 = (0x4000 : BitVec 15)) → (lnsMul a b).code = 0x4000) ∧
    (a.setWidth 15 ≠ (0x4000 : BitVec 15) → b.setWidth 15 ≠ (0x4000 : BitVec 15) →
      let l := (a.setWidth 15 : BitVec 15).toInt + (b.setWidth 15 : BitVec 15).toInt
      (l < -16383 → (lnsMul a b).code = 0x4000) ∧
      (-16383 ≤ l → ((lnsMul a b).code.setWidth 15 : BitVec 15).toInt = min l 16383 ∧
        (lnsMul a b).code.getLsbD 15 = (a.getLsbD 15 != b.getLsbD 15)))

/-- The frame of every engine operation (02 R71, 08 R215 to R219). -/
def Obligations.EngineOpsStayInTheirStall : Prop :=
  (∀ (s t : State) (st : Fin 64) (w : Word) (c : Instr), c ∈ engineCmds st w → exec c s = .next t → StaysIn st s t) ∧
  (∀ (s : State) (st : Fin 64) (o : Op), o.sends = false → StaysIn st s (s.opCc st o).1)

/-- Where the engines store (06 R173, 07 R184, R186, R193, R197). -/
def Obligations.EngineStores : Prop :=
  (∀ (s t : State) (st : Fin 64) (w : Word) (c : Instr) (p : Nat), (s.stl st).pad.mem.wf = true → exec c s = .next t →
    (c ∈ [.caLoad st w, .caRun st w, .caRunt st w, .leLdc st w, .veLdc st w, .veQpack st w] ++
        (leCmds st w ++ veCmds st w).map (·.1) → RowKept s t st p) ∧
    (c = .caStore st w → Outside s st (addrAt s st w 0) ((fld (recordAt s st w)[4] 17 13 + 1) * (precAt s st w).rs) p →
      RowKept s t st p)) ∧
  (∀ (s : State) (st : Fin 64) (o : Op) (p : Nat), (s.stl st).pad.mem.wf = true →
    (o.isLoad = true ∨ o.isRun = true ∨ o.isLdc = true ∨ (∃ (c : BitVec 9) (n : Nat), o.work = .count c n) →
      RowKept s (s.opCc st o).1 st p) ∧
    (∀ (base : Nat) (rows : List Row), o.work = .store base rows → Outside s st base rows.length p →
      RowKept s (s.opCc st o).1 st p) ∧
    (∀ (row i : Nat) (ws : List Word), o.work = .words row i ws → Outside s st row 1 p → RowKept s (s.opCc st o).1 st p))

/-- Where the Layout Engine stores (08 R222 to R228). -/
def Obligations.LayoutStores : Prop :=
  (∀ (s t : State) (st : Fin 64) (w : Word) (p : Nat), (s.stl st).pad.mem.wf = true →
    let dd := descAt s st (fld (recordAt s st w)[4] 15 8)
    ((exec (.ltMove st w) s = .next t ∨ exec (.ltGather st w) s = .next t ∨ exec (.ltScatter st w) s = .next t) →
      RowKept s t st p) ∧
    (exec (.ltFill st w) s = .next t → Outside s st dd.base (dd.rows (s.stl st).xl.mesh) p → RowKept s t st p)) ∧
  (∀ (s : State) (st : Fin 64) (o : Op) (p : Nat), (s.stl st).pad.mem.wf = true →
    let m := (s.stl st).xl.mesh
    (∀ d : Desc, o.work = .fill d → Outside s st d.base (d.rows m) p → RowKept s (s.opCc st o).1 st p) ∧
    (∀ (sd dd : Desc) (w : Nat) (q : List (List Row)), o.work = .moveRows sd dd w q →
      w * (o.t - 2) + (q.headD []).length ≤ dd.rows m → Outside s st dd.base (dd.rows m) p →
      RowKept s (s.opCc st o).1 st p) ∧
    (∀ (d : Desc) (ib ob rs w n : Nat) (idx : List Int) (q : List (List Row)), o.work = .gather false d ib ob rs w n idx q →
      0 < w → rs % w = 0 → (q.headD []).length ≤ w → (o.t - ceilDiv n 32 - 2) / (rs / w) < n →
      Outside s st ob (n * rs) p → RowKept s (s.opCc st o).1 st p))

/-- The Hop Engine's operations (10 R274 to R279). -/
def Obligations.HopSends : Prop :=
  let group (st p : Fin 64) (due first : Nat) (ctr : Option (BitVec 9)) (span : BitVec 12) (rows : List Row) : List Flight :=
    rows.zipIdx.map (fun e =>
      let a : Arrival :=
        { row := BitVec.ofNat 19 (first + e.2), data := e.1, bad := 0, ctr := ctr, span := span, sheaf := false,
          src := some st, via := .plain }
      { part := p, due := due, node := st, inp := some 4, arr := a })
  (∀ (s : State) (st p : Fin 64) (d : Dispatch) (w : Word), SlotIssues s st w → s.running st = some (p, d) →
    let r := recordAt s st w
    let n := xRows r
    let src := addrAt s st w 0
    let dst := addrAt s st w 1
    let c := (s.stl st).seq.sched
    let h := (s.stl st).he
    (xBad r = false → xDkind r = 0 → fld r[4] 19 18 ≠ 3 → outRange src n = false → outRange dst n = false →
      ((s.stl st).busy 5 = false → Completes (.heSend st w) s fun t =>
        Issued s t st (begun heAgent heAgent 1 (ceilDiv n (xRate r)) (ceilDiv n (xRate r))
          (.send src.toNat dst.toNat n (xRate r) (xCtr r) (s.spanOf p))) ∧
        (t.stl st).he = h ∧ ∃ rows : List Row, rows.length = min (xRate r) n ∧
          t.flights = s.flights ++ group st p (c + 1) dst.toNat (xCtr r) (s.spanOf p) rows ∧
          (∀ q : Nat → Nat, RowsReadable s st src.toNat (min (xRate r) n) q →
            rows = (List.range (min (xRate r) n)).map (fun k => (s.stl st).pad.row (q k)))) ∧
      ((s.stl st).busy 5 = true → s.sys.dbgOn = false →
        exec (.heSend st w) s = .next (s.modHe st fun x => { x with dropped := satAdd x.dropped 1 }))) ∧
    (xBad r = false → fld r[4] 11 5 = 0 → outRange src n = false → (xDkind r = 2 ∨ outRange dst n = false) →
      (xDkind r = 2 → xHub r ((s.stl st).seq.iter (slotLsel w)) % 128 = 0) → h.issues < 16 → h.queue.length < 32 →
      (s.stl st).busy 5 = false → (∀ x ∈ h.queue, x.left ≠ 0 ∧ x.fid < s.fab.nextId) → Completes (.heDsend st w) s fun t =>
        (t.stl st).he.issues = h.issues + 1 ∧ t.flights = s.flights ∧
        (∃ pk : List DynPkt, pk.length = n ∧ Issued s t st (begun heAgent heAgent 2 (ceilDiv n 4) (ceilDiv n 4)
            (.dsend s.fab.nextId src.toNat (min 4 n) pk)) ∧
          ∀ k ∈ pk, k.kind.toNat = xDkind r ∧ k.stall = xStall r ∧ k.src = st ∧ k.part = p ∧ k.arr.span = s.spanOf p) ∧
        ∃ x : Xfer, (t.stl st).he.queue = h.queue ++ [x] ∧ x.fetch = false ∧ x.left = n ∧ x.fid = s.fab.nextId ∧
          x.pkts.length = (if n ≤ 4 then n else 0)) ∧
    (xBad r = false → xDkind r = 2 → outRange dst n = false → xHub r ((s.stl st).seq.iter (slotLsel w)) % 128 = 0 →
      h.issues < 16 → h.queue.length < 32 → Completes (.heFetch st w) s fun t =>
        (t.stl st).he.issues = h.issues + 1 ∧ (t.stl st).he.queue = h.queue ++ [⟨true, [], n, s.fab.nextId⟩] ∧
        (t.stl st).pad = (s.stl st).pad ∧ t.flights = s.flights)) ∧
  (∀ (s : State) (st p : Fin 64) (d : Dispatch) (o : Op), s.running st = some (p, d) →
    (∀ (src dst n rate : Nat) (ctr : Option (BitVec 9)) (span : BitVec 12), o.work = .send src dst n rate ctr span →
      ∃ rows : List Row, rows.length = min rate (n - rate * o.t) ∧
        (s.opCc st o).1.flights =
          s.flights ++ group st p ((s.stl st).seq.sched + 1) (dst + rate * o.t) ctr span rows) ∧
    (∀ (fid src got : Nat) (pk : List DynPkt) (x : Xfer), o.work = .dsend fid src got pk → pk ≠ [] → pk.length ≤ got + 4 →
      got ≤ pk.length → x ∈ (s.stl st).he.queue → x.fid = fid → x.fetch = false →
      ∃ y ∈ ((s.opCc st o).1.stl st).he.queue, y.fid = fid ∧ y.left = pk.length ∧ y.pkts.length = pk.length ∧
        ∀ k ∈ y.pkts, k.ready = s.cycle + 1))

/-- Landing (04 R107 to R113, 08 R215, 10 R279). -/
def Obligations.ArrivalsLand : Prop :=
  ∀ (s : State) (st : Fin 64) (a : Arrival) (p : Nat), s.sys.dbgOn = false → s.pass st a = .ok p → a.bad = 0 →
    (s.stl st).seq.ccs = [] → (s.stl st).pad.mem.wf = true → (∀ c, a.ctr = some c → (s.stl st).seq.tally[ctrIx c].toNat < 0xFFFFFF) →
    let lands := fun t : State =>
      (t.stl st).pad.row p = a.data ∧ (t.stl st).pad.poison.get? p = none ∧
      (∀ q : Nat, q ≠ p → (t.stl st).pad.row q = (s.stl st).pad.row q) ∧
      ∀ i : Fin 512, (t.stl st).seq.tally[i].toNat =
        (s.stl st).seq.tally[i].toNat + (if a.ctr.map ctrIx = some i then 1 else 0)
    (∀ (q : Fin 64) (d : Dispatch) (f : Flight), Tab.rising none (s.stl st).pad.poison = true →
      s.running st = some (q, d) → d.frozen = false → s.flights = [f] → f.part = q →
      f.node = st → f.inp = none → f.due ≤ d.sched → f.arr = a → s.bankFree st (p % 32) = true →
      Completes (.scheduledArrival st) s fun t => t.flights = [] ∧ lands t) ∧
    ((s.stl st).pad.rx = [a] → Tab.rising none (s.stl st).pad.poison = true → s.bankFree st (p % 32) = true →
      Completes (.dynamicArrivalLands st) s fun t => (t.stl st).pad.rx = [] ∧ lands t) ∧
    ((s.stl st).pad.rx = [a] → s.bankFree st (p % 32) = false → (s.stl st).pad.defers p = false →
      Completes (.dynamicArrivalLands st) s fun t =>
        (t.stl st).pad.rx = [a] ∧ (t.stl st).pad.mem = (s.stl st).pad.mem ∧ (t.stl st).seq = (s.stl st).seq) ∧
    ((s.stl st).pad.rx = [a] → (s.stl st).pad.defers p = true → Completes (.dynamicArrivalLands st) s fun t =>
        (t.stl st).pad.rx = [] ∧ (t.stl st).pad.deferred = (s.stl st).pad.deferred ++ [a] ∧
        (t.stl st).pad.mem = (s.stl st).pad.mem ∧ (t.stl st).seq = (s.stl st).seq) ∧
    ((s.stl st).pad.deferred = [a] → a.via ≠ .refetch → Tab.rising none (s.stl st).pad.poison = true →
      lands (s.landDeferred st) ∧ ((s.landDeferred st).stl st).pad.first = p :: (s.stl st).pad.first)

/-- Dynamic class (10 R268, R281, 04 R111, 16 R448). -/
def Obligations.PacketsAndFetches : Prop :=
  (∀ (s : State) (r : Fin 64) (o : Fin 5), (s.stl r).rt.held.contains o = false → (s.stl r).rt.sent.contains o = false →
    ((∀ i : Fin 5, s.waiting r o i = none) → exec (.dynamicPacketForward r o) s = .next s) ∧
    (∀ (i : Fin 5) (d : DynPkt), o = 4 → s.waiting r o i = some d →
      (∀ k : Nat, k < 5 → fin 4 ((s.stl r).rt.rr[o].val + k) = i → ∀ j : Nat, j < k →
        s.waiting r o (fin 4 ((s.stl r).rt.rr[o].val + j)) = none) →
      (s.stl r).pad.rx.length < 64 → Completes (.dynamicPacketForward r o) s fun t =>
        (t.stl r).pad.rx = (s.stl r).pad.rx ++ [d.arr] ∧ (t.stl r).rt.inq[i] = ((s.stl r).rt.inq[i]).erase d ∧
        (t.stl r).rt.rr[o] = fin 4 (i.val + 1) ∧ (t.stl r).rt.sent.contains o = true ∧
        ∀ q : Fin 64, q ≠ r → t.stl q = s.stl q)) ∧
  ∀ (s : State) (port : Fin 4) (id : Nat) (g : Bool),
    ((s.fab.fetches[port].take 128).find? (fun e => e.1 = id) = none → exec (.fetchResponse port id g) s = .next s) ∧
    (∀ q : FetchReq, (s.fab.fetches[port].take 128).find? (fun e => e.1 = id) = some (id, q) → q.kind = 2 →
      s.granWaits 2 q.since = true → exec (.fetchResponse port id g) s = .next s) ∧
    (∀ q : FetchReq, (s.fab.fetches[port].take 128).find? (fun e => e.1 = id) = some (id, q) → q.kind = 1 →
      Completes (.fetchResponse port id g) s fun t =>
        t.fab.fetches[port] = s.fab.fetches[port].filter (fun e => e.1 ≠ id) ∧
        t.fab.downq[port] = s.fab.downq[port] ++
          ((q.rows.zip (rowsOf q.rows.length (bytesWords (s.sram.bytes q.addr (128 * q.rows.length))))).map
            (fun e => downPkt q e.1 e.2 0)) ∧
        t.sram = s.sram ∧ t.stalls = s.stalls)

/-- Refetches (04 R122, R125 to R127). -/
def Obligations.RefetchesRestore : Prop :=
  ∀ (s : State) (st : Fin 64),
    ((s.stl st).pad.refWait = [] → exec (.refetchIssue st) s = .next s) ∧
    (∀ (p : Nat) (l : List Nat) (b : Backed), (s.stl st).pad.refWait = p :: l → (s.stl st).pad.refOut.length < 16 →
      (s.stl st).xl.backedBy p = some b → Completes (.refetchIssue st) s fun t =>
        (t.stl st).pad.refWait = l ∧ (t.stl st).pad.refOut = (s.stl st).pad.refOut ++
          [⟨BitVec.ofNat 19 p, BitVec.ofNat 33 (b.gran.toNat + (p - b.start.toNat)), s.now, none⟩] ∧
        (t.stl st).pad.mem = (s.stl st).pad.mem) ∧
    (∀ (row : BitVec 19) (g : Bool) (r : Refetch), (s.stl st).pad.refOut.find? (fun r => r.row = row && r.data.isNone) = some r →
      s.gran.avail = true → s.granWaits 1 r.since = false → s.bankFree st (row.toNat % 32) = true → s.gran.blockOk (r.gran.toNat / 4) = true →
      (s.stl st).pad.mem.wf = true → Tab.rising none (s.stl st).pad.poison = true → Completes (.refetchDone st row g) s fun t =>
        (t.stl st).pad.row row.toNat = s.gran.mem.row (128 * r.gran.toNat) ∧
        (t.stl st).pad.poison.get? row.toNat = none ∧
        (t.stl st).pad.refOut = (s.stl st).pad.refOut.filter (fun r => r.row ≠ row) ∧
        ∀ q : Nat, q ≠ row.toNat → (t.stl st).pad.row q = (s.stl st).pad.row q) ∧
    (∀ row : BitVec 19, (s.stl st).pad.refOut.find? (fun r => r.row = row) = none →
      (∀ g : Bool, exec (.refetchDone st row g) s = .next s) ∧ exec (.refetchTimeout st row) s = .next s) ∧
    (∀ (row : BitVec 19) (r : Refetch), (s.stl st).pad.refOut.find? (fun r => r.row = row) = some r →
      (s.now < r.since + 10000000000 → exec (.refetchTimeout st row) s = .next s) ∧
      (r.since + 10000000000 ≤ s.now → ∀ f : BitVec 2, (s.stl st).pad.poison.get? row.toNat = some (.refetching, f) →
        Completes (.refetchTimeout st row) s fun t => (t.stl st).pad.poison.get? row.toNat = some (.held, f) ∧
          (t.stl st).pad.refOut = (s.stl st).pad.refOut.filter (fun r => r.row ≠ row) ∧
          (t.stl st).pad.mem = (s.stl st).pad.mem))

/-- Free-cycle agents (04 R124, R130, R132, 08 R218, 16 R445, R463, 21 R630, R631). -/
def Obligations.ScrubberAndBridge : Prop :=
  ∀ (s : State) (st : Fin 64),
    let d := (s.stl st).pad
    ((s.stl st).scrubs = true → d.scrubWait = [] → d.scrubIssued + 16 ≤ d.scrubTicks →
      Completes (.scrubIssue st) s fun t => (t.stl st).pad.scrubWait = List.finRange 32 ∧
        (t.stl st).pad.scrubCur = d.scrubRow ∧ (t.stl st).pad.scrubIssued = d.scrubTicks ∧
        (t.stl st).pad.scrubRow.toNat = (if d.scrubRow.toNat = 12287 then 0 else (d.scrubRow.toNat + 1) % 16384) ∧
        (t.stl st).pad.mem = d.mem) ∧
    (∀ b : Fin 32, d.scrubWait.contains b = true → d.scrubHot.contains b = false → d.scrubIssued + 16 ≤ d.scrubTicks →
      exec (.scrubReadPromote st b) s = .next (s.modPad st fun d => { d with scrubHot := b :: d.scrubHot })) ∧
    (∀ b : Fin 32, (s.stl st).scrubs = true → d.scrubWait.contains b = true → s.bankFree st b.val = true →
      d.parityBad (32 * d.scrubCur.toNat + b.val) = false → Completes (.scrubRead st b) s fun t =>
        (t.stl st).pad.scrubWait = d.scrubWait.filter (· ≠ b) ∧ (t.stl st).pad.poison = d.poison ∧
        (t.stl st).pad.mem = d.mem ∧ (t.stl st).pad.passes =
          (if d.scrubWait.filter (· ≠ b) = [] ∧ d.scrubCur.toNat = 12287 then d.passes + 1 else d.passes)) ∧
    (d.scrubTold = false → d.scrubPass + 393216 < d.scrubTicks → Completes (.scrubLate st) s fun t =>
      (t.stl st).pad.scrubLate = true ∧ (t.stl st).pad.scrubTold = true ∧ (t.stl st).pad.mem = d.mem) ∧
    (∀ (row : BitVec 19) (k : Byte), (s.stl st).xl.check row.toNat .glean false = .error k →
      exec (.gleanRead st row) s = .next (s.modXl st fun x => { x with gleanFail := satAdd x.gleanFail 1 })) ∧
    (∀ (row : BitVec 19) (p : Nat), (s.stl st).xl.check row.toNat .glean false = .ok p → s.bankFree st (p % 32) = true →
      (d.scrubHot.any (fun b => b.val = p % 32) = false → d.parityBad p = false →
        exec (.gleanRead st row) s = .next (s.modPad st fun d => { d with served := p :: d.served })) ∧
      (d.scrubHot.any (fun b => b.val = p % 32) = true → exec (.gleanRead st row) s = .next s)) ∧
    (∀ v : Word, s.fab.drainTo = none → s.sys.rowBusy = false → exec (.rowSel v) s = .next { s with sys := { s.sys with
      rowBusy := true, rowDone := false, rowFail := false, rowStall := fin 63 (fld v 24 19),
      rowRow := BitVec.ofNat 19 (fld v 18 0) } }) ∧
    (∀ v : Word, s.fab.drainTo = none → s.sys.rowBusy = true → exec (.rowSel v) s = .next s) ∧
    (s.sys.rowBusy = true → s.sys.rowStall = st →
      ((393215 < s.sys.rowRow.toNat ∨ s.bridgeOk st = false) → exec .bridgeRowRead s = .next { s with sys := { s.sys with
        rowBusy := false, rowDone := true, rowFail := true, rowBuf := Row.zero } }) ∧
      (s.sys.rowRow.toNat ≤ 393215 → s.bridgeOk st = true → s.stallLocked st = true →
        exec .bridgeRowRead s = .next { s with sys := { s.sys with
          rowBusy := false, rowDone := true, rowFail := false, rowBuf := Row.zero } }) ∧
      (s.sys.rowRow.toNat ≤ 393215 → s.bridgeOk st = true → s.stallLocked st = false →
        s.bankFree st (s.sys.rowRow.toNat % 32) = true →
        d.scrubHot.any (fun b => b.val = s.sys.rowRow.toNat % 32) = false → Completes .bridgeRowRead s fun t =>
          t.sys.rowBuf = d.row s.sys.rowRow.toNat ∧ t.sys.rowDone = true ∧ t.sys.rowFail = false ∧
          t.sys.rowBusy = false ∧ (t.stl st).pad.mem = d.mem))

/-- Freezes (02 R39, R47 to R49, R636, 09 R240, 12 R337, R339). -/
def Obligations.FreezesBeginAndEnd : Prop :=
  (∀ (s : State) (p : Fin 64) (d : Dispatch), (s.part p).disp = some d →
    (d.frozen = false → d.stopDue s.cycle = false →
      (s.part p).tree.freezes.any (freezeNow (s.part p).horizon s.cycle) = true → Completes (.freezeStart p) s fun t =>
        t = s.modDisp p fun d => { d with frozen := true, wasFrozen := true, freezePs := 0 }) ∧
    (d.frozen = true → d.cut = false → (s.part p).thawed s.cycle = true → Completes (.freezeEnd p) s fun t =>
      (t.part p).disp = some { d with frozen := false, freezePs := 0 } ∧ t.stalls = s.stalls ∧
      ∀ q : Fin 64, q ≠ p → t.part q = s.part q) ∧
    (∀ (st : Fin 64) (h : RaisedHold) (c : BitVec 9) (thr : BitVec 24) (consume : Bool), s.running st = some (p, d) →
      (s.stl st).seq.holds = [h] → h.released = none → h.raised < s.cycle → h.wait = some (c, thr, consume) →
      (s.stl st).seq.ccs = [] → thr.toNat ≤ (s.stl st).seq.tally[ctrIx c].toNat →
      Completes (.raisedHoldRelease st) s fun t =>
        (t.stl st).seq.holds = [{ h with released := some s.cycle }] ∧
        (t.part p).tree.marks = (s.part p).tree.marks ++ [(s.cycle, false)] ∧
        (t.stl st).pad = (s.stl st).pad ∧
        (t.stl st).seq.tally[ctrIx c].toNat = (s.stl st).seq.tally[ctrIx c].toNat - (if consume then thr.toNat else 0)) ∧
    (∀ g ∈ d.faults, d.frozen = true → d.cut = false → g.f + (s.part p).horizon ≤ s.cycle →
      ((s.cutOps p).part p).disp = some { d with cut := true } ∧
      (∀ st ∈ (s.part p).members, ((s.cutOps p).stl st).ops = [] ∧ ((s.cutOps p).stl st).ca.loading = false ∧
        ((s.cutOps p).stl st).ca.zs = none ∧ ((s.cutOps p).stl st).ca.acc = (s.stl st).ca.acc ∧
        ((s.cutOps p).stl st).ca.tile = (s.stl st).ca.tile ∧ ((s.cutOps p).stl st).pad = (s.stl st).pad ∧
        ((s.cutOps p).stl st).seq = (s.stl st).seq) ∧
      ∀ st : Fin 64, st ∉ (s.part p).members → (s.cutOps p).stl st = s.stl st)) ∧
  (∀ (s : State) (st : Fin 64) (pick : Op → Bool), s.paused st = true → (s.stl st).seq.holds.any RaisedHold.isRun = false →
    s.opsCc st pick = s ∧ s.startOps st = s)

/-- The start of a dispatch (09 R248, R252). -/
def Obligations.DispatchStarts : Prop :=
  ∀ (s : State) (p : Fin 64) (i : Image) (w : Waiting) (l : List Waiting) (t0 : Nat), (s.part p).disp = none →
    (s.part p).queue = w :: l → (s.part p).image = some i → w.start = some t0 → t0 ≤ s.cycle →
    (∀ st : Fin 64, Tab.rising none (s.stl st).seq.store = true) →
    Completes (.dispatchStart p) s fun t =>
      (∀ st ∈ (s.part p).members,
        (t.stl st).seq.pc = BitVec.ofNat 14 (i.entries.getD w.entry (0, 0)).1 ∧
        (t.stl st).seq.loops = Vector.replicate 8 ⟨0, 0⟩ ∧ (t.stl st).seq.tally = (s.stl st).seq.tally ∧
        (t.stl st).seq.keys = (s.stl st).seq.keys ∧ (t.stl st).seq.state = .issuing ∧ (t.stl st).seq.sched = 0 ∧
        (∀ a : Nat, (s.stl st).seq.valid.getLsbD (a / 128) = true →
          Tab.getD (t.stl st).seq.store a 0 = Tab.getD (s.stl st).seq.store a 0) ∧
        ((s.stl st).seq.fromImg &&& ~~~(s.stl st).seq.valid = 0 → (t.stl st).seq.store = (s.stl st).seq.store)) ∧
      (t.part p).queue = l ∧
      (∃ d : Dispatch, (t.part p).disp = some d ∧ d.pkt = w.pkt ∧ d.entry = w.entry ∧ d.start = s.cycle ∧
        d.length = (i.entries.getD w.entry (0, 0)).2) ∧
      (∀ st : Fin 64, st ∉ (s.part p).members → t.stl st = s.stl st)

/-- The end of a dispatch (02 R54, R61, R64, R638, 03 R88, R95, R97, 04 R129, 10 R637, 16 R453, 17 R489, R490). -/
def Obligations.DispatchesEnd : Prop :=
  ∀ (s : State) (p : Fin 64) (d : Dispatch), (s.part p).disp = some d →
    (∀ (g : StepFault) (a : Fin 64) (l : List (Fin 64)) (r : StepRec), d.governing = some g → (s.part p).members = a :: l →
      (d.cut = true → d.restored = false → (s.part p).cured d s.cycle = true →
        restoreRec (s.part p).horizon g.f (s.stl a).seq.recs = some r →
        let t := s.restoreStep p
        (∃ e : Dispatch, (t.part p).disp = some e ∧ e.restored = true ∧ e.sched = r.cyc ∧ e.frozen = d.frozen ∧
          e.faults = d.faults) ∧
        (t.part p).choice = (s.part p).choice ∧ t.flights = s.flights.filter (fun f => f.part ≠ p) ∧
        ∀ st ∈ (s.part p).members,
          (t.stl st).pad = (s.stl st).pad ∧
          ∀ b : StepRec, restoreRec (s.part p).horizon g.f (s.stl st).seq.recs = some b →
            (t.stl st).seq.tally = b.tally ∧ (t.stl st).seq.pc = b.pc ∧ (t.stl st).seq.loops = b.loops ∧
            (t.stl st).seq.keys = b.keys ∧ (t.stl st).seq.state = .issuing ∧ (t.stl st).ca.valid = false) ∧
      (d.restored = true → (s.part p).thawed s.cycle = true → (s.stl a).seq.recs.head? = some r →
        Completes (.stepRerun p) s fun t =>
          (t.part p).disp = some { d with frozen := false, freezePs := 0, faults := [], cut := false, restored := false,
                                          reruns := d.reruns + 1 } ∧
          (t.part p).choice = (s.part p).choice ∧ t.stalls = s.stalls ∧
          ((s.part p).cnt[12].toNat < 2 ^ 64 - 1 → (t.part p).cnt[12].toNat = (s.part p).cnt[12].toNat + 1))) ∧
    (let ended := fun (status : Byte) (t : State) =>
      (t.part p).disp = none ∧ (t.part p).lastStat = some status ∧ (t.part p).choiceLast = (s.part p).choice ∧
      (∀ f ∈ t.flights, f.part ≠ p) ∧
      (∀ st ∈ (s.part p).members, (t.stl st).pad = (s.stl st).pad ∧ (status ≠ stOk → (t.stl st).ops = [])) ∧
      ((s.part p).cnt[8].toNat < 2 ^ 64 - 1 → (t.part p).cnt[8].toNat = (s.part p).cnt[8].toNat + 1) ∧
      ((s.part p).cnt[9].toNat < 2 ^ 64 - 1 → status ≠ stOk → (t.part p).cnt[9].toNat = (s.part p).cnt[9].toNat + 1)
     (∀ x : Stop, d.stop = some x → x.endAt ≤ s.cycle → Completes (.faultStopEnd p) s (ended x.status)) ∧
     (∀ i : Image, (s.part p).image = some i → d.frozen = true → i.timeout * 30517579 < d.freezePs →
      d.stopDue s.cycle = false → Completes (.holdTimeout p) s (ended stTimeout)))

/-- Replies of dispatches and debug mode's enable (16 R453, 17 R489, 02 R65). -/
def Obligations.DispatchReplies : Prop :=
  (∀ (s : State) (p : Fin 64) (e : Ended) (l : List Ended), (s.part p).ended = e :: l → s.hubPending p = false →
    (s.part p).halt = none → exec (.dispatchReply p) s =
      .next ((s.modPart p fun q => { q with ended := l }).reply 0x22 e.pkt e.status e.words)) ∧
  (∀ (s : State) (v : Word), s.fab.drainTo = none →
    (bit v 0 = s.sys.dbgEn → exec (.debugEnable v) s = .next s) ∧
    (bit v 0 ≠ s.sys.dbgEn → Completes (.debugEnable v) s fun t =>
      t.sys = { s.sys with dbgEn := bit v 0, dbgAt := (s.now, bit v 0) :: s.sys.dbgAt } ∧ t.clk = { s.clk with sent := t.clk.sent } ∧
      t.stalls = s.stalls ∧ t.parts = s.parts ∧ (bit v 0 = true → t.demand ≤ 4)))

/-- Training (11 R292 to R297, R310, R311, Table 11.7). The spacing's tolerance is the model's (log 65). -/
def Obligations.SheavesTrain : Prop :=
  ∀ (s : State) (n : Fin 20),
    (∀ lanes : Half, (s.sheaf n).state = .detect → (∀ t0 : Nat, (s.sheaf n).pulseAt = some t0 → t0 + 100000000 ≤ s.now) →
      Completes (.receiverDetectPulse n lanes) s fun t =>
        t.out = s.out ++ [.pulse n] ∧ (t.sheaf n).lanes = lanes ∧ (t.sheaf n).pulseAt = some s.now ∧
        (lanes ≠ 0xFFFF → (t.sheaf n).state = .detect ∧ (t.sheaf n).pulses = 0) ∧
        (lanes = 0xFFFF → (s.sheaf n).pulses < 2 → (t.sheaf n).state = .detect ∧ (t.sheaf n).pulses = (s.sheaf n).pulses + 1) ∧
        (lanes = 0xFFFF → (s.sheaf n).pulses = 2 → (t.sheaf n).state = .train ∧ (t.sheaf n).frames = 0 ∧
          ((s.sheaf n).preset = none → (s.sheaf n).conv = none → (t.sheaf n).eq = #v[4, -16, 52, -8]))) ∧
    (∀ ctrl : BitVec 85, (s.sheaf n).state = .train → (crc8 ctrl 64).toNat = fld ctrl 71 64 → bit ctrl 16 = true →
      Completes (.trainingFrame n ctrl true) s fun t =>
        ((s.sheaf n).frames < 7 → (t.sheaf n).state = .train ∧ (t.sheaf n).frames = (s.sheaf n).frames + 1) ∧
        ((s.sheaf n).frames = 7 → (t.sheaf n).state = .lock)) ∧
    (∀ (lane : Fin 16) (run bits : List Pam), commaRead (run ++ bits) = none → exec (.alignmentMarker n lane run bits) s = .next s) ∧
    (∀ (lane : Fin 16) (run bits : List Pam) (inv : Bool) (b : BitVec 37), commaRead (run ++ bits) = some (inv, b) →
      ((s.sheaf n).state = .lock → spaced (s.sheaf n).laneAt[lane] s.now = true → 2 ≤ (s.sheaf n).markers[lane] →
        (∀ l : Fin 16, l ≠ lane → 3 ≤ (s.sheaf n).markers[l] ∧
          ∃ t0 : Nat, (s.sheaf n).laneAt[l] = some t0 ∧ t0 ≤ s.now ∧ s.now ≤ t0 + skewPs) →
        (s.sheaf n).cleanAt + codewordPs 256 ≤ s.now → Completes (.alignmentMarker n lane run bits) s fun t =>
          (t.sheaf n).state = .caps ∧ (t.sheaf n).capSeen = 0 ∧ (t.sheaf n).inv[lane] = inv ∧
          (t.sheaf n).tx.syms = (s.sheaf n).tx.syms ++ [(0xB, 0)]) ∧
      ((s.sheaf n).state = .lock → spaced (s.sheaf n).laneAt[lane] s.now = false → Completes (.alignmentMarker n lane run bits) s fun t =>
        (t.sheaf n).state = .lock ∧ (t.sheaf n).markers[lane] = 1 ∧ (t.sheaf n).laneAt[lane] = some s.now) ∧
      (∀ c : CapRecord, (s.sheaf n).state = .caps → (s.sheaf n).cap = some c → bit c.w0 31 = true → 3 ≤ (s.sheaf n).capSeen →
        (s.sheaf n).aligned = true → 64 ≤ (s.sheaf n).probes → Completes (.alignmentMarker n lane run bits) s fun t =>
          (t.sheaf n).state = .active) ∧
      ((s.sheaf n).state = .active → (s.port (sheafPort n)).width = none → (s.sheaf n).atMark = some 1 →
        Completes (.alignmentMarker n lane run bits) s fun t => (t.sheaf n).state = .train) ∧
      (∀ m : BitVec 3, (s.sheaf n).state = .active → (s.port (sheafPort n)).width = some m →
        Completes (.alignmentMarker n lane run bits) s fun t =>
          (t.port (sheafPort n)).keep = m ∧ (t.port (sheafPort n)).width = none)) ∧
    ((s.sheaf n).state = .train → (s.sheaf n).since + 50000000000 ≤ s.now → Completes (.trainTimeout n) s fun t =>
      (t.sheaf n).fail = 1 ∧ (t.sheaf n).state = (if (s.sheaf n).retrain then .disabled else .detect) ∧
      ((s.sheaf n).retrain = true → (t.port (sheafPort n)).keep.getLsbD (sheafIndex n) = false)) ∧
    ((s.sheaf n).state = .lock → (s.sheaf n).since + 1000000000 ≤ s.now → Completes (.lockTimeout n) s fun t =>
      (t.sheaf n).fail = 2 ∧ (t.sheaf n).state = .train) ∧
    ((s.sheaf n).state = .caps → (s.sheaf n).since + 10000000000 ≤ s.now → Completes (.capsTimeout n) s fun t =>
      (t.sheaf n).fail = 3 ∧ (t.sheaf n).state = (if (s.sheaf n).retrain then .disabled else .detect) ∧
      ((s.sheaf n).retrain = true → (t.port (sheafPort n)).keep.getLsbD (sheafIndex n) = false)) ∧
    ((s.sheaf n).state = .active → Completes (.lossOfSignal n) s fun t => (t.sheaf n).state = .detect) ∧
    ((s.sheaf n).state = .blind → (s.sheaf n).since + 1000000000 ≤ s.now →
      exec (.blindBringUp (.sheaf n)) s = .next (s.emit (.idle (.sheaf n)))) ∧
    (∀ p : Fin 4, s.sys.stemAt + 1000000000 ≤ s.now → exec (.blindBringUp (.stem p)) s =
      .next { s with sys := { s.sys with stemUp := s.sys.stemUp.set p true }, out := s.out ++ [.idle (.stem p)] })

/-- Timebase (11 R296, R298 to R300, R302). -/
def Obligations.CountsAlign : Prop :=
  ∀ (s : State) (n : Fin 20),
    (∀ c : CapRecord, (s.sheaf n).state = .caps →
      let seen := if (s.sheaf n).cap = some c then (s.sheaf n).capSeen + 1 else 1
      let far := BitVec.ofNat 13 (fld c.w0 28 16)
      Completes (.capabilityRecord n c) s fun t =>
        (t.sheaf n).cap = some c ∧ (t.sheaf n).capSeen = seen ∧
        (t.sheaf n).far = some (far, BitVec.ofNat 3 (fld c.w0 10 8), BitVec.ofNat 2 (fld c.w0 5 4)) ∧
        (fld c.w0 5 4 ≠ sheafIndex n → (t.sheaf n).state = .failed ∧ (t.sheaf n).fail = 4) ∧
        (s.miscabled n c = false → (t.sheaf n).state = .caps ∧
          ((s.sheaf n).selfLoop = false → far ≠ s.me → (s.sheaf n).aligned = false → (s.sheaf n).foreign = false →
            3 ≤ seen → 64 ≤ (s.sheaf n).probes → s.link.estab = false →
            (bit c.w8 31 = false → s.me < far → (t.sheaf n).aligned = true ∧
              t.link = { s.link with estab := true, root := true, rootNode := s.me, dist := 0, parent := none }) ∧
            (∀ at' : Nat, bit c.w8 31 = true → (s.sheaf n).markAt = some (c.m, at') →
              (t.sheaf n).aligned = true ∧ t.link.estab = true ∧ t.link.root = false ∧ t.link.parent = some n ∧
              t.link.rootNode = BitVec.ofNat 13 (fld c.w8 28 16) ∧ t.link.dist = BitVec.ofNat 6 (fld c.w8 13 8 + 1) ∧
              t.cycle = ((s.cycle : Int) - at' + c.cm.toNat +
                (ceilDiv ((s.sheaf n).delay.toNat * (4 + s.clk.fcode.toNat)) 200 : Nat)).toNat)))) ∧
    (∀ count : BitVec 26, (s.sheaf n).state = .caps ∨ (s.sheaf n).state = .active →
      ∃ arg : BitVec 26, exec (.cyc n count) s = .next (s.sendSymbol n 0xC arg) ∧
        ∀ (h : Sheaf) (c : Nat), s.cycle ≤ c → c < s.cycle + 8192 →
          fld (h.argument c (0xC, arg)) 25 13 = count.toNat % 8192 ∧ fld (h.argument c (0xC, arg)) 12 0 = c - s.cycle) ∧
    (∀ arg : BitVec 26, (s.sheaf n).state = .caps →
      let trip := (s.cycle + 8192 - fld arg 25 13) % 8192 - fld arg 12 0
      let best := match (s.sheaf n).bestTrip with | some b => min b trip | none => trip
      ((s.sheaf n).probes < 63 → Completes (.cycEcho n arg) s fun t =>
        (t.sheaf n).probes = (s.sheaf n).probes + 1 ∧ (t.sheaf n).bestTrip = some best ∧
        (t.sheaf n).tx.syms = (s.sheaf n).tx.syms ++ [(0xB, 0)] ∧ t.cycle = s.cycle ∧ t.link = s.link) ∧
      ((s.sheaf n).probes = 63 → Completes (.cycEcho n arg) s fun t =>
        (t.sheaf n).probes = 64 ∧ ∃ d : Nat, (d = 100 * best / (4 + s.clk.fcode.toNat) ∨ d = 100 * best / (4 + s.clk.fcode.toNat) + 1) ∧
          (t.sheaf n).delay = BitVec.ofNat 12 d ∧ (t.sheaf n).schedCc = BitVec.ofNat 12 (ceilDiv (18 * (d + 40)) 100) ∧
          (t.sheaf n).holdCc = ceilDiv (18 * (d + 30)) 100)) ∧
    (∀ diff : Int, (s.sheaf n).state = .active → (s.sheaf n).foreign = false → (s.sheaf n).selfLoop = false → diff ≠ 0 →
      Completes (.driftProbe n diff) s fun t => (t.sheaf n).drift = true ∧ (t.sheaf n).driftBy = diff ∧ t.cycle = s.cycle)

/-- Rows on a sheaf (11 R306 to R309). -/
def Obligations.LinkRowsFlow : Prop :=
  ∀ (s : State) (n : Fin 20), (s.sheaf n).state = .active →
    let h := s.sheaf n
    (∀ (tag : BitVec 64) (data : Row), h.foreign = false → h.selfLoop = false → s.ringSheaf n = false →
      (∀ (p : Fin 64) (late : Nat), s.rowLate tag = some (p, late) → 2048 ≤ late → h.delayBuf.length < 4096 →
        exec (.scheduledRow n tag data) s = .next (s.modSheaf n fun h => { h with delayBuf := h.delayBuf ++ [⟨tag, data⟩] })) ∧
      (s.rowLate tag = none →
        exec (.scheduledRow n tag data) s = .next (s.modSheaf n fun h => { h with schedLost := satAdd h.schedLost 1 }))) ∧
    (∀ (r : DelayRow) (p : Fin 64) (d : Dispatch), h.delayBuf = [r] → s.rowLate r.tag = some (p, 0) →
      (s.part p).disp = some d → d.frozen = false → Completes (.sheafDelayRelease n) s fun t =>
        (t.sheaf n).delayBuf = [] ∧ ∃ f : Flight, t.flights = s.flights ++ [f] ∧ f.part = p ∧ f.due = d.sched ∧
          f.node = (sheafAt n).1 ∧ f.inp = some (sheafAt n).2 ∧ f.arr.data = r.data ∧ f.arr.row.toNat = tagRow r.tag ∧
          f.arr.ctr = tagCtr r.tag) ∧
    (∀ (num : BitVec 10) (tag : BitVec 64) (data : Row), s.ringSheaf n = false →
      (num = h.rxE → h.dynRx.length < 64 → Completes (.dynamicRow n num tag data) s fun t =>
        ∃ d : DynPkt, t = s.modSheaf n (fun h => { h with rxE := h.rxE + 1, dynRx := h.dynRx ++ [d] }) ∧
          d.arr.data = data ∧ d.node = tagNode tag ∧ d.stall = tagStall tag ∧ d.arr.ctr = tagCtr tag) ∧
      (num ≠ h.rxE ∨ 64 ≤ h.dynRx.length → (num - h.rxE).toNat < 512 → (∀ u : Nat, h.nakTo ≠ some (h.rxE, u)) →
        exec (.dynamicRow n num tag data) s = .next ((s.sendSymbol n 8 (h.rxE.setWidth 26)).modSheaf n fun h =>
          { h with nakTo := some (h.rxE, s.now + 2000000) })) ∧
      (∀ u : Nat, num ≠ h.rxE → h.nakTo = some (h.rxE, u) → exec (.dynamicRow n num tag data) s = .next s)) ∧
    (∀ arg : BitVec 26,
      let left := h.unacked.filter (fun r => (r.1 - arg.setWidth 10).toNat < 512)
      (Completes (.ack n arg) s fun t => (t.sheaf n).unacked = left ∧ t.out = s.out ∧ (t.sheaf n).dynRetry = h.dynRetry) ∧
      (Completes (.nak n arg) s fun t =>
        (t.sheaf n).unacked = left ∧ (t.sheaf n).tx.again = left ∧ (t.sheaf n).rxE = h.rxE ∧ (t.sheaf n).txNext = h.txNext)) ∧
    exec (.ackDue n) s = .next (s.sendSymbol n 7 (h.rxE.setWidth 26)) ∧
    (h.unacked ≠ [] → h.ackAt + 4000000 ≤ s.now → exec (.ackTimeout n) s = .next (s.modSheaf n fun h =>
      { h with ackAt := s.now, tx := { h.tx with again := h.unacked } })) ∧
    (∀ e : BitVec 10 × Nat, h.nakTo = some e → e.2 ≤ s.now →
      exec (.nakSuppressEnd n) s = .next (s.modSheaf n fun h => { h with nakTo := none })) ∧
    (∀ rows : Nat, Completes (.uncorrectableCodeword n rows []) s fun t =>
      (t.sheaf n).fecUnc = satAdd h.fecUnc 1 ∧ (t.sheaf n).schedLost = satAdd h.schedLost rows ∧
      (t.sheaf n).state = .active ∧ t.flights = s.flights) ∧
    (∀ (r : BitVec 64 × Row) (l : List (BitVec 64 × Row)), h.tx.sched = r :: l →
      ((s.takeSlot n).2.sheaf n).tx = { h.tx with sched := l } ∧ (s.takeSlot n).2.out = s.out ++ [.row n r.1 r.2]) ∧
    (∀ (r : Byte × List Nat) (l : List (Byte × List Nat)), h.tx.sched = [] → h.tx.recs = r :: l →
      ((s.takeSlot n).2.sheaf n).tx = { h.tx with recs := l } ∧ (s.takeSlot n).2.out = s.out ++ [.record n r.1 r.2]) ∧
    (∀ (r : BitVec 10 × DynPkt) (l : List (BitVec 10 × DynPkt)), h.tx.sched = [] → h.tx.recs = [] → h.tx.again = r :: l →
      ((s.takeSlot n).2.sheaf n).tx = { h.tx with again := l } ∧ ((s.takeSlot n).2.sheaf n).dynRetry = satAdd h.dynRetry 1 ∧
      (s.takeSlot n).2.out = s.out ++ [.row n r.2.tag r.2.arr.data])

/-- Requests of a port (11 R310 to R315). That copies within 100 ns are one request is the model's reading (log 38). -/
def Obligations.LinkRequestsResolve : Prop :=
  ∀ (s : State) (n : Fin 20), (s.sheaf n).state = .active →
    let k := sheafPort n
    let me : BitVec 3 := (1 : BitVec 3) <<< sheafIndex n
    let sent (t : State) (fsym : BitVec 4) (arg : BitVec 26) : Prop :=
      ∀ m ∈ s.activeOf k, (t.sheaf m).tx.syms = (s.sheaf m).tx.syms ++ [(fsym, arg), (fsym, arg)]
    (∀ arg : BitVec 26, fld arg 12 10 = 1 ∨ fld arg 12 10 = 2 →
      (∀ e ∈ (s.port k).heard, e.1 = 9 → e.2.1 = arg → e.2.2 + 100000 ≤ s.now) →
      ((s.port k).job = none → Completes (.linkReq n arg) s fun t =>
        sent t 0xA (BitVec.ofNat 26 (arg.toNat / 128 * 128)) ∧ t.out = s.out ∧ t.parts = s.parts ∧
        (fld arg 12 10 = 2 → fld arg 9 7 ≠ 0 → (t.port k).width = some (BitVec.ofNat 3 (fld arg 9 7))) ∧
        (fld arg 12 10 = 1 → bit arg (7 + sheafIndex n) = true → (t.sheaf n).atMark = some 1)) ∧
      (∀ j : LinkJob, (s.port k).job = some j → j.acked = false →
        (s.me.toNat < fld arg 25 13 → Completes (.linkReq n arg) s fun t =>
          (t.port k).job = some { j with met := true } ∧ (t.port k).coll = satAdd (s.port k).coll 1 ∧ t.sheaves = s.sheaves) ∧
        (fld arg 25 13 < s.me.toNat → Completes (.linkReq n arg) s fun t =>
          (t.port k).job = none ∧ (t.port k).coll = satAdd (s.port k).coll 1 ∧
          sent t 0xA (BitVec.ofNat 26 (arg.toNat / 128 * 128))) ∧
        (fld arg 25 13 = s.me.toNat → j.back = none → Completes (.linkReq n arg) s fun t =>
          ∃ b : Nat, s.now + 10000000 ≤ b ∧ b ≤ s.now + 50000000 ∧ b % 10000 = s.now % 10000 ∧
            (t.port k).job = some { j with back := some b } ∧ (t.port k).coll = satAdd (s.port k).coll 1))) ∧
    (∀ (arg : BitVec 26) (at' : Nat), (9, arg, at') ∈ (s.port k).heard → s.now < at' + 100000 →
      exec (.linkReq n arg) s = .next s) ∧
    (∀ (arg : BitVec 26) (j : LinkJob), (s.port k).job = some j → j.acked = false → fld arg 25 13 = s.me.toNat →
      fld arg 12 10 = j.kind.toNat → fld arg 9 7 = j.mask.toNat → Completes (.linkAck n arg) s fun t =>
        (t.port k).job = some { j with acked := true, back := none } ∧ t.out = s.out ∧
        (j.kind = 2 → j.mask ≠ 0 → (t.port k).width = some j.mask) ∧
        (j.kind = 1 → j.mask.getLsbD (sheafIndex n) = true →
          (t.sheaf n).atMark = some 1 ∧ (t.sheaf n).preset = j.preset)) ∧
    (∀ j : LinkJob, (s.port k).job = some j → j.acked = false →
      (j.back = none → j.met = false → j.last + 100000000 ≤ s.now →
        (j.sends < 8 → Completes (.linkReqResend k) s fun t =>
          (t.port k).job = some { j with sends := j.sends + 1, last := s.now } ∧ sent t 9 (s.me ++ j.kind ++ j.mask ++ (0 : BitVec 7))) ∧
        (8 ≤ j.sends → Completes (.linkReqResend k) s fun t => (t.port k).job = none)) ∧
      (j.met = true → exec (.linkReqResend k) s = .next s) ∧
      (∀ b : Nat, j.back = some b → b ≤ s.now → Completes (.backoffEnd k) s fun t =>
        (t.port k).job = some { j with sends := 1, last := s.now, back := none, met := false } ∧
        sent t 9 (s.me ++ j.kind ++ j.mask ++ (0 : BitVec 7)))) ∧
    (∀ missed : Bool, (missed = true → ∃ l : Fin 16, 2 ≤ (s.sheaf n).missRun[l]) →
      (missed = false → 64 < ((s.sheaf n).uncTimes.filter fun t0 => decide (s.now < t0 + 1000000000)).length) →
      (s.sheaf n).atMark = none → (s.port k).retrain &&& me = 0 →
      ((s.port k).job = none → Completes (.automaticRetrain n missed) s fun t =>
        ∃ j : LinkJob, (t.port k).job = some j ∧ j.kind = 1 ∧ j.mask = me ∧ j.cmd = none ∧ sent t 9 (s.me ++ (1 : BitVec 3) ++ me ++ (0 : BitVec 7))) ∧
      (∀ j : LinkJob, (s.port k).job = some j → j.kind ≠ 1 → Completes (.automaticRetrain n missed) s fun t =>
        (t.port k).job = some j ∧ (t.port k).retrain = (s.port k).retrain ||| me))

/-- The hold tree (12 R337 to R340, 11 R305). -/
def Obligations.HoldTreeCarries : Prop :=
  ∀ (s : State) (p : Fin 64) (d : Dispatch), (s.part p).disp = some d →
    let sent := fun (t : State) (m : Fin 20) (sym : BitVec 4) (x : Nat) =>
      (t.sheaf m).tx.syms = (s.sheaf m).tx.syms ++ [(sym, holdArg (s.part p).span x), (sym, holdArg (s.part p).span x)]
    (∀ (n : Fin 20) (arg : BitVec 26), (s.sheaf n).state = .active →
      s.spanPart (BitVec.ofNat 12 (fld arg 25 14)) = some p →
      let k := sheafPort n
      let x := nearest s.cycle (fld arg 13 0)
      let fresh := fun sym : BitVec 4 =>
        ∀ e ∈ (s.port k).heard, e.1 = sym → e.2.1 = arg → e.2.2 + 100000 ≤ s.now
      (∀ (up : Bool), let sym : BitVec 4 := if up then 1 else 2
        let c : Instr := if up then .holdRaise n arg else .holdRelease n arg
        (fresh sym → k ∈ (s.part p).childPorts → s.cycle ≤ x + 24 + (s.part p).height → Completes c s fun t =>
          (t.part p).tree = { (s.part p).tree with marks := (s.part p).tree.marks ++ [(x, up)] } ∧
          (t.part p).disp = some d ∧ t.sheaves = s.sheaves ∧ t.stalls = s.stalls) ∧
        (fresh sym → k ∉ (s.part p).childPorts → (s.part p).isRoot = false → k.val = (s.part p).parent.toNat →
          s.cycle ≤ x + (s.part p).horizon → Completes c s fun t =>
            (t.part p).tree.marks = (s.part p).tree.marks ∧
            (up = true → (t.part p).tree.freezes = (s.part p).tree.freezes ++ [(x, none)]) ∧
            (∀ a : Nat, up = false → (s.part p).tree.freezes = [(a, none)] → (t.part p).tree.freezes = [(a, some x)]) ∧
            (∀ q ∈ (s.part p).childPorts, ∀ m ∈ s.activeOf q, s.ringSheaf m = false → sent t m sym x) ∧
            (t.part p).disp = some d ∧ t.stalls = s.stalls) ∧
        ((∃ e ∈ (s.port k).heard, e.1 = sym ∧ e.2.1 = arg ∧ s.now < e.2.2 + 100000) → exec c s = .next s)) ∧
      (fresh 3 → k ∈ (s.part p).treePorts → (∀ g ∈ d.faults, g.far = true → g.f ≠ x) → Completes (.stepFault n arg) s fun t =>
        (s.canRerun p d x = true → (t.part p).disp = some { d with faults := d.faults ++ [⟨x, 0, 0, true, none⟩] } ∧
          ∀ st ∈ (s.part p).members, (t.stl st).seq.holds = [] ∧ (t.stl st).pad = (s.stl st).pad) ∧
        (s.canRerun p d x = false → ∃ (e : Dispatch) (y : Stop), (t.part p).disp = some e ∧ e.stop = some y ∧
          y.endAt ≤ x + (s.part p).horizon ∧ e.faults = d.faults ∧ t.stalls = s.stalls)) ∧
      (fresh 4 → k ∈ (s.part p).treePorts → Completes (.spanEnd n arg) s fun t =>
        ∃ (e : Dispatch) (y : Stop), (t.part p).disp = some e ∧ e.stop = some y ∧ y.endAt ≤ x + (s.part p).horizon ∧
          (∀ z : Stop, d.stop = some z → y.endAt ≤ z.endAt) ∧ t.stalls = s.stalls)) ∧
    (∀ a : Nat, (s.part p).tree.marks = [(a, true)] → (s.part p).tree.sent = [] → a + 24 + (s.part p).height ≤ s.cycle →
      ((s.part p).top = false → (s.part p).spanState = 2 → Completes (.holdUpwardSend p) s fun t =>
        (t.part p).tree = { (s.part p).tree with sent := [(a, true)] } ∧ (t.part p).disp = some d ∧ t.stalls = s.stalls ∧
        ∀ m ∈ s.activeOf (fin 7 (s.part p).parent.toNat), s.ringSheaf m = false → sent t m 1 a) ∧
      ((s.part p).top = true → Completes (.holdDownwardSend p) s fun t =>
        (t.part p).tree = { (s.part p).tree with sent := [(a, true)], freezes := (s.part p).tree.freezes ++ [(a, none)] } ∧
        (t.part p).disp = some d ∧ t.stalls = s.stalls ∧
        ∀ q ∈ (s.part p).childPorts, ∀ m ∈ s.activeOf q, s.ringSheaf m = false → sent t m 1 a))

/-- Spans (12 R326, R327, R334, R335, R344, R345, R349, R350). -/
def Obligations.SpansFormAndFail : Prop :=
  ∀ s : State,
    (∀ (n : Fin 20) (r : FormRecord) (p : Fin 64), (s.sheaf n).state = .active →
      s.joining r.span (sheafPort n) = some p →
      (r.digest ≠ (s.part p).digest → Completes (.spanForm n r) s fun t =>
        (t.part p).span = none ∧ (t.part p).spanState = 0 ∧ (t.part p).job = none) ∧
      (r.digest = (s.part p).digest →
        (∀ h : Nat, r.horizon = some h → (s.part p).isRoot = false → (sheafPort n).val = (s.part p).parent.toNat →
          Completes (.spanForm n r) s fun t => (t.part p).job = none ∧
            (h ≤ 8191 → (t.part p).spanState = 2 ∧ (t.part p).h = h ∧ (t.part p).span = (s.part p).span) ∧
            (8191 < h → (t.part p).spanState = 0 ∧ (t.part p).span = none)) ∧
        (r.horizon = none → ((s.part p).nbs.any fun b => b.port ≠ (sheafPort n).val && b.form.isNone) = true →
          Completes (.spanForm n r) s fun t => (t.part p).spanState = 1 ∧ (t.part p).job = (s.part p).job ∧
            (t.part p).nbs = (s.part p).nbs.map (fun b => if b.port = (sheafPort n).val then { b with form := some r } else b)))) ∧
    (∀ (p : Fin 64) (j : Job), (s.part p).job = some j → j.opc = 0x13 → (s.part p).spanState = 1 →
      j.since + 1000000000000 ≤ s.now → Completes (.spanJoinTimeout p) s fun t =>
        (t.part p).span = none ∧ (t.part p).spanState = 0 ∧ (t.part p).job = none ∧ t.stalls = s.stalls) ∧
    (∀ (n : Fin 20) (r : PostRecord) (p : Fin 64), (s.sheaf n).state = .active → s.spanPart r.span = some p →
      sheafPort n ∈ (s.part p).treePorts → (s.part p).head = false → (s.part p).spanState = 2 →
      (s.cycle < r.start → Completes (.dispatchPost n r) s fun t =>
        (t.part p).queue = (s.part p).queue ++ [⟨none, r.entry.toNat, some r.start⟩] ∧
        (t.part p).disp = (s.part p).disp ∧ (t.part p).spanState = 2) ∧
      (r.start ≤ s.cycle → Completes (.dispatchPost n r) s fun t =>
        (t.part p).spanState = 3 ∧ (t.part p).cause = 5 ∧ (t.part p).origin = (s.part p).rank)) ∧
    (∀ (k : Fin 8) (t0 : Nat), (s.port k).downAt = some t0 → t0 + 100000000 ≤ s.now → s.activeOf k = [] →
      Completes (.moduleLost k) s fun t => (t.port k).downAt = none ∧
        (∀ p : Fin 64, (s.part p).spanState = 2 → k ∈ (s.part p).treePorts →
          (t.part p).spanState = 3 ∧ (t.part p).cause = 1 ∧ (t.part p).lost = some ((s.farOf k).getD 0)) ∧
        ∀ p : Fin 64, k ∉ (s.part p).treePorts → (t.part p).spanState = (s.part p).spanState) ∧
    (∀ (n : Fin 20) (a b : BitVec 13),
      let other := fun e : BitVec 13 × BitVec 13 => !((e.1 = a && e.2 = b) || (e.1 = b && e.2 = a))
      ((∃ e ∈ s.link.lost, other e = false) → exec (.linkLost n a b) s = .next s) ∧
      ((∃ e ∈ s.link.restored, other e = false) → exec (.linkRestored n a b) s = .next s) ∧
      ((∀ e ∈ s.link.lost, other e = true) → Completes (.linkLost n a b) s fun t =>
        t.link.lost = s.link.lost ++ [(a, b)] ∧ t.link.restored = s.link.restored.filter other ∧
        t.link.route = t.link.routes ∧ t.stalls = s.stalls ∧ t.parts = s.parts ∧
        ∀ m : Fin 20, m.val < 18 → (s.sheaf m).state = .active → m ≠ n →
          (t.sheaf m).tx.recs = (s.sheaf m).tx.recs ++ [(0x04, [a.toNat, b.toNat])]) ∧
      ((∀ e ∈ s.link.restored, other e = true) → Completes (.linkRestored n a b) s fun t =>
        t.link.lost = s.link.lost.filter other ∧ t.link.restored = s.link.restored ++ [(a, b)] ∧
        t.link.route = t.link.routes ∧ t.stalls = s.stalls ∧ t.parts = s.parts ∧
        ∀ m : Fin 20, m.val < 18 → (s.sheaf m).state = .active → m ≠ n →
          (t.sheaf m).tx.recs = (s.sheaf m).tx.recs ++ [(0x05, [a.toNat, b.toNat])]))

/-- The ring (13 R358, R362 to R366, R369, R370, R375). -/
def Obligations.RingTurns : Prop :=
  ∀ (s : State),
    let r := s.ring
    (∀ (n : Fin 20) (arg : BitVec 26), s.ringIn n = some 0 → (s.sheaf n).state = .active → r.me ≠ 0 →
      (fld arg 13 12 = 1 → r.state = 0 → r.acceptAt.isSome = true → Completes (.hawker n arg) s fun t =>
        t.ring.state = 1 ∧ t.ring.rev = 0 ∧ t.ring.t0.isSome = true ∧ t.ring.id.toNat = fld arg 25 14) ∧
      (fld arg 25 14 = r.id.toNat →
        (fld arg 13 12 = 0 ∨ fld arg 13 12 = 2 → (r.state = 1 ∨ r.state = 2 ∨ r.state = 3) →
          exec (.hawker n arg) s = .next { s with ring := { r with
            inbox := r.inbox ++ [(r.tapAt s.cycle, fld arg 13 12, fld arg 11 0)],
            markers := r.markers ++ [(r.tapAt s.cycle + r.mine.delay, markerArg r.id (fld arg 13 12) (fld arg 11 0))] } }) ∧
        (fld arg 13 12 = 3 → r.state ≠ 0 → r.state ≠ 5 → Completes (.hawker n arg) s fun t =>
          t.ring.state = 5 ∧ t.ring.held = [] ∧ t.ring.tap = []))) ∧
    (∀ at' kind rev : Nat, r.me ≠ 0 → r.inbox = [(at', kind, rev)] → at' ≤ s.cycle → rev < 4096 →
      (kind = 0 → r.state = 1 → Completes .revolutionBoundary s fun t =>
        t.ring.state = 2 ∧ t.ring.rev.toNat = rev ∧ t.ring.inbox = [] ∧ t.stalls = s.stalls) ∧
      (kind = 2 → s.cycle < at' + r.revLen.toNat → Completes .revolutionBoundary s fun t =>
        t.ring.state = 4 ∧ t.ring.offAt = some (at' + r.revLen.toNat) ∧ t.ring.rev.toNat = rev ∧ t.ring.inbox = [])) ∧
    (∀ (n : Fin 20) (i : Nat) (tag : BitVec 64) (data : Row), s.ringIn n = some i → (s.sheaf n).state = .active →
      (∀ m ∈ r.inbox, s.cycle < m.1) →
      (fld tag 63 62 = 1 → fld tag 61 50 = r.id.toNat → r.state = 3 → Completes (.ringRow n tag data) s fun t =>
        t.ring.held = r.held ++ [⟨s.cycle + r.mine.delay, i, tag, data⟩] ∧ t.ring.state = 3 ∧
        ∀ (p st : Fin 64) (d : Dispatch) (e : Nat), r.part = some p → (s.part p).disp = some d →
          (s.part p).members = [st] → ((s.stl st).tk.window.filter fun x => (s.stl st).tk.frame x = fld tag 49 28) = [e] →
          (s.stl st).tk.first e = fld tag 27 20 → (s.stl st).tk.active = [] → (s.stl st).tk.done = [] →
          (s.stl st).seq.ccs = [] → (r.tap.filter fun x => x.1 = n).length < 4096 →
          let c := ctrIx ((s.stl st).tk.arm e)
          (1 ≤ (s.stl st).seq.tally[c].toNat →
            (t.stl st).seq.tally[c].toNat = (s.stl st).seq.tally[c].toNat - 1 ∧ (t.part p).hkMiss = (s.part p).hkMiss ∧
            ∃ y : DynPkt, t.ring.tap = r.tap ++ [(n, y)] ∧ y.stall = st ∧ y.arr.data = data ∧
              y.arr.row.toNat = (s.stl st).tk.dest e ∧ y.arr.ctr = some ((s.stl st).tk.land e)) ∧
          ((s.stl st).seq.tally[c].toNat = 0 → t.ring.tap = r.tap ∧ (t.part p).hkMiss = satAdd (s.part p).hkMiss 1)) ∧
      (fld tag 63 62 = 2 → fld tag 61 50 = r.id.toNat → r.state = 1 → r.me ≠ 0 → exec (.ringRow n tag data) s =
        .next { s with ring := { r with held := r.held ++ [⟨s.cycle + r.mine.delay, i, tag, data⟩] } }) ∧
      (∀ k : Nat, fld tag 63 62 = 0 → r.state = 3 → r.phase s.cycle (r.offset r.me) = some k →
        (r.frames.get? (k * r.width + i)).isSome = true → (k * r.width + i) / 256 ∉ r.hurt →
        Completes (.ringRow n tag data) s fun t => t.ring.damaged = satAdd r.damaged 1 ∧ t.ring.held = r.held)) ∧
    (∀ h : HeldRow, r.held = [h] → h.due ≤ s.cycle → h.sheaf < r.width → r.state = 3 → Completes .ringRowDepart s fun t =>
      t.ring.held = [] ∧ t.stalls = s.stalls ∧
      (t.sheaf (r.outSheaf h.sheaf)).tx.sched = (s.sheaf (r.outSheaf h.sheaf)).tx.sched ++ [(h.tag, h.data)]) ∧
    (r.me = 0 → r.inbox = [] →
      (∀ a : Nat, r.t0 = none → r.acceptAt = some a → r.state = 0 → s.cycle % 65536 = 0 → a + 131072 ≤ s.cycle →
        Completes .revolutionBoundary s fun t => t.ring.state = 1 ∧ t.ring.t0 = some s.cycle ∧ t.ring.rev = 0) ∧
      (∀ t0 : Nat, r.t0 = some t0 → t0 < s.cycle → (s.cycle - t0) % r.revLen.toNat = 0 →
        (r.state = 1 → r.calOk = some true → Completes .revolutionBoundary s fun t => t.ring.state = 2) ∧
        (r.state = 3 → r.haltReq = true → (∀ p, r.part = some p → (s.part p).dispatching = false) →
          Completes .revolutionBoundary s fun t => t.ring.state = 4 ∧ t.ring.offAt = some (s.cycle + r.revLen.toNat)) ∧
        (∀ c : Nat, r.state = 4 → r.offAt = some c → c ≤ s.cycle →
          Completes .revolutionBoundary s fun t => t.ring.state = 0 ∧ t.ring.held = [])))

/-- Serving (14 R386 to R398, R413, 16 R458, R459). -/
def Obligations.CutsAndChoices : Prop :=
  ∀ (s : State) (p : Fin 64),
    (∀ (k : Fin 16) (v : Word), s.fab.drainTo = none → s.locked (.serve p (0x40 + 8 * k.val)) = false → (∀ c, (s.part p).ctx = some c → c.overflow = []) →
      Completes (.repHead p k v) s fun t =>
        (t.part p).repHead = (s.part p).repHead.set k (BitVec.ofNat 12 (fld v 11 0)) ∧ t.host = s.host ∧
        t.stalls = s.stalls) ∧
    (∀ c : Serving, (s.part p).ctx = some c →
      (∀ v : Word, s.fab.drainTo = none → s.locked (.serve p 0x10) = false →
        (c.state = 1 → fld v 11 0 < c.reqRing.2 → Completes (.reqTail p v) s fun t =>
          (t.part p) = { s.part p with reqTail := BitVec.ofNat 12 (fld v 11 0) } ∧ t.host = s.host ∧ t.stalls = s.stalls) ∧
        (c.reqRing.2 ≤ fld v 11 0 → exec (.reqTail p v) s = .next s)) ∧
      (c.state = 1 → c.stage = 0 → c.slots / 16 ≤ c.outRows →
        (∀ k : Packet, c.closeReq = some k → Completes (.cut p) s fun t =>
          ∀ e : Serving, (t.part p).ctx = some e → e.state = 0 ∧ e.reqs = []) ∧
        (c.closeReq = none → Completes (.cut p) s fun t => ∃ e : Serving, (t.part p).ctx = some e ∧ e.state = 1 ∧
          (e.stage ≠ 4 → e.round = some c.cur) ∧ e.outRows = c.outRows - c.slots / 16 ∧ e.slots = c.slots ∧
          ∀ (i : Nat) (r : Request) (tok : Word), c.reqs = [(i, r)] → r.emits c.tps = true →
            c.outToks.get? i = some (tok, true) → (r.stop = 0xFFFFFFFF ∨ tok ≠ r.stop) → r.emitted + 1 < r.maxNew →
            s.host.wf = true → s.pcieUp = true → c.overflow = [] → c.swapDue = false → (s.part p).reqHead = (s.part p).tailWas →
            (∀ j : Fin 16, (s.part p).adapters[j].job = none ∧ (s.part p).adapters[j].retireJob = none) →
            let ring := c.repRings.getD r.ring (0, 16)
            let tail := (s.part p).repTail[fin 15 r.ring]
            ringNext tail ring.2 ≠ (s.part p).repHead[fin 15 r.ring] →
            let pos := r.pos + r.fed c.tps
            e.reqs = [(i, { r with pos := pos, first := false, last := tok, emitted := r.emitted + 1 })] ∧
            t.host.bytes (ring.1.toNat + 32 * tail.toNat) 32 = wordsBytes [0x01000000, r.tag, tok, BitVec.ofNat 32 pos,
              BitVec.ofNat 32 c.cur, BitVec.ofNat 32 (c.cur / 2 ^ 32), 0, 0] ∧
            (t.part p).repTail[fin 15 r.ring] = ringNext tail ring.2)) ∧
      (c.state = 1 → c.stage = 1 → s.serveWaiting p = false →
        (c.choices ≠ 0 → (s.part p).treePorts ≠ [] → Completes (.admissionRowsLanded p) s fun t =>
          (t.part p).ctx = some { c with stage := 2, acks := (s.part p).treePorts.length } ∧
          (t.part p).newChoice = (s.part p).newChoice ∧ t.stalls = s.stalls ∧ t.fab = s.fab ∧
          ∀ k ∈ (s.part p).treePorts, ∀ m : Fin 20, (s.activeOf k).find? (fun x => !s.ringSheaf x) = some m →
            ∃ y : Nat, (t.sheaf m).tx.recs = (s.sheaf m).tx.recs ++
              List.replicate (y + 1) (0x06, [((s.part p).span.getD 0).toNat, c.round.getD 0, c.choices])) ∧
        ((c.choices = 0 ∨ (s.part p).treePorts = []) → c.blocked = false → (s.part p).holdsPost = false →
          Completes (.admissionRowsLanded p) s fun t => RoundBegins s t p c)) ∧
      (∀ k : Packet, k.part = p → Accepted s k headRing [] → (s.part p).busyP = false → c.state ≠ 0 →
        (c.state = 1 → c.stage = 0 → Completes (.serveClose k) s fun t =>
          (t.part p).ctx = some { c with closeReq := some k } ∧ t.host = s.host ∧ t.stalls = s.stalls) ∧
        ((c.state ≠ 1 ∨ c.stage ≠ 0) → Completes (.serveClose k) s fun t =>
          ∀ e : Serving, (t.part p).ctx = some e → e.state = 0 ∧ e.reqs = []))) ∧
    (∀ (n : Fin 20) (span : BitVec 12) (round : DWord) (count : Word), (s.sheaf n).state = .active → s.spanPart span = some p →
      ((s.part p).head = false → sheafPort n ∈ (s.part p).treePorts →
        Completes (.serveChoice n span round count) s fun t =>
          let on := (s.part p).treePorts.filter (fun k => k ≠ sheafPort n)
          t.part p = { s.part p with newChoice := (s.part p).newChoice + count.toNat, ackWait := on.length, ackTo := some (sheafPort n) } ∧
          t.stalls = s.stalls ∧
          (∀ k ∈ on, ∀ m : Fin 20, (s.activeOf k).find? (fun x => !s.ringSheaf x) = some m →
            ∃ y : Nat, (t.sheaf m).tx.recs =
              (s.sheaf m).tx.recs ++ List.replicate (y + 1) (0x06, [span.toNat, round.toNat, count.toNat])) ∧
          (on = [] → ∀ m : Fin 20, (s.activeOf (sheafPort n)).find? (fun x => !s.ringSheaf x) = some m →
            ∃ kind : Byte, (t.sheaf m).tx.recs = (s.sheaf m).tx.recs ++ [(kind, [span.toNat, round.toNat])])) ∧
      (sheafPort n ∈ (s.part p).treePorts →
        ((s.part p).ctx = none → (s.part p).ackWait ≠ 0 → (s.part p).ackTo ≠ some (sheafPort n) → Completes (.serveChoiceAck n span round) s fun t =>
          (t.part p) = { s.part p with ackWait := (s.part p).ackWait - 1 } ∧ t.stalls = s.stalls) ∧
        ∀ c : Serving, (s.part p).ctx = some c → c.stage = 2 →
          (2 ≤ c.acks → Completes (.serveChoiceAck n span round) s fun t =>
            (t.part p).ctx = some { c with acks := c.acks - 1 } ∧ t.fab = s.fab ∧ t.stalls = s.stalls) ∧
          (c.acks = 1 → c.state = 1 → c.blocked = false → (s.part p).holdsPost = false →
            Completes (.serveChoiceAck n span round) s fun t => RoundBegins s t p c))) ∧
    (∀ q : Part,
      (q.disp.isSome = true → q.foldChoice.choice = satAdd q.choice q.newChoice ∧ q.foldChoice.pendChoice = q.pendChoice) ∧
      (q.disp = none → q.foldChoice.pendChoice = satAdd q.pendChoice q.newChoice ∧ q.foldChoice.choice = q.choice) ∧
      q.foldChoice.newChoice = 0) ∧
    (∀ k : Packet, k.part = p → Accepted s k headRing serveMasks → s.serveBad p (s.serveArgs k) = false →
      (s.part p).busyP = false → (∀ c, (s.part p).ctx = some c → c.state = 0) → Completes (.serveOpen k) s fun t =>
        RoundBegins s t p (s.serveArgs k) ∧ (t.part p).reqTail = 0 ∧ (t.part p).reqHead = 0 ∧
        (t.part p).repHead = Vector.replicate 16 0 ∧ (t.part p).repTail = Vector.replicate 16 0) ∧
    (∀ (f : Fin 4) (d : DynPkt) (l : List DynPkt), s.fab.hubq[f] = d :: l →
      ((s.hubWaits f).isSome = true → s.granWaits 2 d.ready = true → exec (.hubWriteRequest f) s = .next s) ∧
      ((s.hubWaits f = none ∨ s.granWaits 2 d.ready = false) → Completes (.hubWriteRequest f) s fun t =>
      t.fab.hubq[f] = l ∧ t.stalls = s.stalls ∧
      (∀ a : Nat, s.window d.part d.win.toNat d.off 128 true = .ok (0, a) → s.host.wf = true →
        t.host.bytes a 128 = wordsBytes d.arr.data.toList ∧ t.sram = s.sram ∧ t.gran = s.gran) ∧
      (∀ a : Nat, s.window d.part d.win.toNat d.off 128 true = .ok (1, a) → s.sram.wf = true →
        t.sram.bytes a 128 = wordsBytes d.arr.data.toList ∧ t.host = s.host ∧ t.gran = s.gran) ∧
      (∀ a : Nat, s.window d.part d.win.toNat d.off 128 true = .ok (2, a) → s.gran.mem.wf = true →
        s.gran.blockOk (a / 512) = true → a % 128 = 0 →
        t.gran.mem.bytes a 128 = wordsBytes d.arr.data.toList ∧ t.gran.blockOk (a / 512) = true ∧ t.sram = s.sram ∧
        t.host = s.host) ∧
      (∀ n : Nat, s.window d.part d.win.toNat d.off 128 true = .error n →
        t.host = s.host ∧ t.sram = s.sram ∧ t.gran = s.gran ∧
        t.fab.winFaults = (if d.first then satAdd s.fab.winFaults 1 else s.fab.winFaults))))

/-- Swaps and adapters (14 R407 to R412, 15 R434 to R439, 17 R505). -/
def Obligations.SwapsAndAdapters : Prop :=
  ∀ (s : State) (p : Fin 64),
    (∀ (k : Packet) (x : Region) (i v : Image), k.part = p → Accepted s k headRing [0xFFF] → s.gran.avail = true →
      s.gran.dir.get? (fld (k.w 0) 11 0) = some x → (s.part p).image = some i → s.variantIn (fld (k.w 0) 11 0) = some v →
      i.variantBad v = false → mayUse k x = true → (s.part p).busyP = false → Completes (.modelSwap k) s fun t =>
        (t.part p).swap = some (k, BitVec.ofNat 12 (fld (k.w 0) 11 0), if x.trusted (s.part p).keymask then 2 else 1) ∧
        (t.part p).image = some i ∧ t.stalls = s.stalls) ∧
    (∀ (k : Packet) (r : BitVec 12) (i v : Image) (base : Nat), (s.part p).image = some i → s.variantIn r.toNat = some v →
      s.regionBase (some r) = some base → s.gran.avail = true → s.granWaits 3 s.now = false →
      ((s.part p).swap = some (k, r, 2) →
        ((s.checkPass i v base).2 = none → Completes (.swapCheckDone p none) s fun t =>
          (t.part p).swap = some (k, r, 3) ∧ t.gran.swap = (3, r) ∧ (t.part p).image = some i ∧ t.stalls = s.stalls ∧
          (t.part p).ctx = (s.part p).ctx.map (fun c => { c with swapDue := c.state = 1 })) ∧
        (∀ b : Nat, (s.checkPass i v base).2 = none → Completes (.swapCheckDone p (some b)) s fun t =>
          (t.part p).swap = none ∧ t.gran.swap = (0, 0) ∧ (t.part p).image = some i ∧ t.stalls = s.stalls)) ∧
      ((s.part p).swap = some (k, r, 3) → (s.part p).holdsPost = true → (s.part p).disp = none →
        (∀ w ∈ (s.part p).queue, w.start = none) → ((s.swapStage p 4).writePass p i v base).2 = none →
        Completes (.swapWritePassStart p) s fun t => (t.part p).swap = some (k, r, 4) ∧ (t.part p).image = some i ∧
          ∀ e ∈ (s.part p).members.zipIdx, (t.stl e.1).xl.backed = Vector.ofFn (fun n : Fin 16 =>
            v.backedEntry (s.part p).rank.toNat e.2 (v.windows (s.part p).rank.toNat e.2) (some base) n.val)) ∧
      ((s.part p).swap = some (k, r, 4) → Completes (.swapWritePassDone p none) s fun t =>
        (t.part p).swap = none ∧ t.gran.swap = (0, 0) ∧
        (t.part p).image = some { v with placed := i.placed, backing := some r } ∧ t.stalls = s.stalls)) ∧
    (∀ (k : Packet) (i : Fin 16), k.part = p → i = fin 15 (fld (k.w 0) 19 16) →
      (s.part p).adapters[i].job = none → (s.part p).adapters[i].retireJob = none →
      (Accepted s k headRing [0x800F0FFF, 0xFFFFFFFF, 0xFFFFFFFF, 0xFFFFFFFF] →
        firstStatus (s.sourceChecks k (k.w 0) (k.w 3).toNat) = none →
        s.adapterBad p (imageOf (s.sourceBytes (k.w 0) (k.d 1) (k.w 3).toNat) (k.w 3).toNat) = false →
        Completes (.adapterLoad k) s fun t =>
          (∃ n : Nat, (t.part p).adapters[i].job = some (k, n, s.now) ∧ (s.verifiedFor p (k.w 0) = false → n = 0)) ∧
          (t.part p).adapters[i].placed = false ∧
          ((s.part p).open' = true → (t.part p).adapters[i].current = (s.part p).adapters[i].current) ∧
          (t.part p).adapters[i].imgLen = (k.w 3).toNat ∧ t.stalls = s.stalls) ∧
      (Accepted s k headRing [0x000F0000] →
        ((s.part p).open' = true → Completes (.adapterRetire k) s fun t =>
          (t.part p).adapters[i].retireJob = some k ∧ (t.part p).adapters[i].retired = (s.part p).adapters[i].retired ∧
          t.stalls = s.stalls) ∧
        ((s.part p).open' = false → Completes (.adapterRetire k) s fun t =>
          (t.part p).adapters[i].retireJob = none ∧ (t.part p).adapters[i].retired = true ∧ t.stalls = s.stalls))) ∧
    (∀ (i : Fin 16) (k : Packet) (t0 : Nat),
      ((s.part p).adapters[i].job = some (k, 2, t0) → (s.part p).adapters[i].placed = false →
        (s.part p).adapters[i].retireJob = none → (s.sourceGood (k.w 0) (s.part p).adapters[i].imgLen).2 = true →
        ((s.part p).open' = true → Completes (.adapterPlaced p i) s fun t =>
          (t.part p).adapters[i].placed = true ∧ (t.part p).adapters[i].job = some (k, 2, t0) ∧
          (t.part p).adapters[i].current = (s.part p).adapters[i].current) ∧
        ((s.part p).open' = false → Completes (.adapterPlaced p i) s fun t =>
          (t.part p).adapters[i].current = some (nextGen (s.part p).adapters[i].last) ∧
          (t.part p).adapters[i].copy = !(s.part p).adapters[i].copy ∧ (t.part p).adapters[i].job = none ∧
          (t.part p).adapters[i].retired = false)) ∧
      ((s.part p).adapters[i].job = some (k, 1, t0) → t0 + 100000000000 ≤ s.now →
        Completes (.adapterLoadTimeout p i) s fun t =>
          (t.part p).adapters[i] = { (s.part p).adapters[i] with job := none } ∧ t.stalls = s.stalls))

/-- The bus matrix (16 R450, R456, R457, R461 to R464, R466). A fence finds no write to wait for: log 52. -/
def Obligations.LocksAndTimeouts : Prop :=
  ∀ s : State,
    (∀ rq : Requester, exec (.fence rq) s = .next s) ∧
    (∀ (range : LockRange) (limit : Nat),
      (s.fab.lock = none → 1 ≤ limit → limit ≤ 100000 → Completes (.lockAcquire range limit) s fun t =>
        t.fab = { s.fab with lock := some range, lockTo := s.now + limit * 1000000, staged := [], heldWr := [] } ∧
        t.parts = s.parts ∧ t.stalls = s.stalls ∧ t.keys = s.keys) ∧
      (s.fab.lock.isSome = true ∨ limit = 0 ∨ 100000 < limit → exec (.lockAcquire range limit) s = .next s)) ∧
    (∀ (rq : Requester) (off : BitVec 24) (v : Word) (p : Fin 64) (w : Fin 16) (r : Fin 4),
      regAt rq off = some (.hwin p w r) → s.fab.drainTo = none → off.toNat % 4 = 0 → mayWrite rq (.hwin p w r) = true →
      (s.locked (.hwin p w r) = true → rq ≠ .sp → exec (.hwinWrite rq off v) s =
        .next { s with fab := { s.fab with heldWr := s.fab.heldWr ++ [⟨rq, off, v⟩] } }) ∧
      (s.locked (.hwin p w r) = false → (s.part p).dispatching = false → Completes (.hwinWrite rq off v) s fun t =>
        t.part p = { s.part p with hwin := (s.part p).hwin.set w ((s.part p).hwin[w].put r v) } ∧
        (∀ q : Fin 64, q ≠ p → t.part q = s.part q) ∧ t.fab = s.fab ∧ t.stalls = s.stalls) ∧
      (s.locked (.hwin p w r) = false → (s.part p).dispatching = true → Completes (.hwinWrite rq off v) s fun t =>
        t.parts = s.parts ∧ t.stalls = s.stalls ∧ (bit s.fab.badacc 31 = false → fld t.fab.badacc 30 28 = 3 ∧
          fld t.fab.badacc 23 0 = off.toNat ∧ bit t.fab.badacc 31 = true) ∧
        (bit s.fab.badacc 31 = true → t.fab.badacc = s.fab.badacc))) ∧
    (s.fab.lock.isSome = true → s.zeroLock = false → Completes .lockRelease s fun t =>
      t.fab.lock = none ∧ t.fab.staged = [] ∧ t.fab.heldWr = [] ∧
      ∀ (a b : HeldWrite) (p : Fin 64), s.fab.staged = [a] → regAt a.rq a.off = some (.part p 0x18) →
        (s.fab.heldWr = [] → t.part p = { s.part p with account := a.v }) ∧
        (s.fab.heldWr = [b] → regAt b.rq b.off = some (.part p 0x18) → t.part p = { s.part p with account := b.v })) ∧
    (s.fab.lock.isSome = true → s.fab.lockTo ≤ s.now → Completes .lockExpired s fun t =>
      t.fab.lock = none ∧ t.fab.staged = [] ∧ t.fab.heldWr = [] ∧ t.fab.expired = true ∧
      (s.fab.heldWr = [] → t.parts = s.parts ∧ t.stalls = s.stalls ∧ t.keys = s.keys)) ∧
    (s.fab.lock.isSome = true → s.now < s.fab.lockTo → exec .lockExpired s = .next s) ∧
    (∀ (port : Fin 9) (off : BitVec 24), port.val < 5 → ∀ posted : Bool, Completes (.fabricTimeout port posted off) s fun t =>
      t.fab.timeouts = satAdd s.fab.timeouts 1 ∧ t.fab.toldMs = some (s.now / 1000000000) ∧ t.stalls = s.stalls ∧
      t.parts = s.parts ∧
      (s.fab.toldMs ≠ some (s.now / 1000000000) → bit s.fab.badacc 31 = false →
        fld t.fab.badacc 30 28 = 4 ∧ fld t.fab.badacc 27 24 = port.val ∧ fld t.fab.badacc 23 0 = off.toNat) ∧
      (s.fab.toldMs = some (s.now / 1000000000) → t.fab.badacc = s.fab.badacc) ∧
      (posted = false → ∀ e ∈ [((1 : Fin 9), Requester.mp), (2, .sp), (3, .pp), (4, .serving)], e.1 = port →
        .read e.2 0xFFFFFFFF ∈ t.out)) ∧
    (∀ (f : Fin 4) (port : Fin 9) (off : BitVec 24), port.val = 5 + f.val →
      (∀ (d : DynPkt) (l : List DynPkt), s.fab.hubq[f] = d :: l →
        (s.now < d.ready + 1000000000 → exec (.fabricTimeout port true off) s = .next s) ∧
        (d.ready + 1000000000 ≤ s.now → Completes (.fabricTimeout port true off) s fun t =>
        t.fab.hubq[f] = l ∧ t.fab.timeouts = satAdd s.fab.timeouts 1 ∧ t.host = s.host ∧ t.sram = s.sram ∧ t.gran = s.gran)) ∧
      (∀ (id : Nat) (q : FetchReq), s.fab.fetches[f] = [(id, q)] → q.since + 1000000000 ≤ s.now →
        Completes (.fabricTimeout port false off) s fun t => t.fab.fetches[f] = [] ∧
          t.fab.downq[f] = s.fab.downq[f] ++ q.rows.map (fun r => downPkt q r Row.zero 0) ∧
          t.fab.timeouts = satAdd s.fab.timeouts 1 ∧ t.stalls = s.stalls)) ∧
    (∀ t0 : Nat, s.fab.drainTo = some t0 → (t0 ≤ s.now ∨ s.posted = false) → Completes .drainEnd s fun t =>
      (∀ f : Fin 4, t.fab.hubq[f] = []) ∧ t.fab.drainTo = none ∧
      t.fab.drainDrop = satAdd s.fab.drainDrop
        (s.fab.hubq[0].length + s.fab.hubq[1].length + s.fab.hubq[2].length + s.fab.hubq[3].length) ∧
      t.host = s.host ∧ t.sram = s.sram ∧ t.gran = s.gran ∧ t.stalls = s.stalls ∧ t.parts = s.parts)

/-- The Granary and the journal (15 R421 to R425, R428, 17 R499, 18 R531, Table 18.8, 19 R539). -/
def Obligations.GranaryKeepsRegions : Prop :=
  ∀ s : State,
    (∀ k : Packet, (s.func k.fn).fullG = false → s.pwr.roomDirectory = true → s.gran.avail = true →
      (∀ b : Nat, Accepted s k operator [0xF0000FFF, 0xFFFFF, 0x7F] → granSub k = 0 → fld (k.w 1) 19 0 ≠ 0 →
        s.ownerOk (fld (k.w 2) 6 0) = true → s.gran.dir.get? (granId k) = none →
        s.gran.place (1048576 * fld (k.w 1) 19 0) = some b → Completes (.granaryPutCreate k) s fun t =>
          let r : Region := ⟨b, 1048576 * fld (k.w 1) 19 0, BitVec.ofNat 7 (fld (k.w 2) 6 0), 0, none, 0, false⟩
          t.gran = { s.gran with dir := s.gran.dir.set (granId k) r } ∧
          t.pwr.journal.length = s.pwr.journal.length + 1 ∧ t.stalls = s.stalls) ∧
      (∀ r : Region, Accepted s k operator [0xF0000FFF] → granSub k = 1 → s.gran.dir.get? (granId k) = some r → r.pins = 0 →
        Completes (.granaryPutFree k) s fun t =>
          t.gran = { s.gran with dir := s.gran.dir.del (granId k) } ∧ t.stalls = s.stalls)) ∧
    (∀ k : Packet, Accepted s k anyRing copyMasks → (s.func k.fn).fullG = false →
      (s.copyCheck k true = none → Completes (.granaryPutWrite k) s fun t =>
        (t.func k.fn).jobsG = (s.func k.fn).jobsG ++ [⟨k, 0x30, s.now⟩] ∧ t.gran = s.gran ∧ t.host = s.host) ∧
      (s.copyCheck k false = none → Completes (.granaryGetRead k) s fun t =>
        (t.func k.fn).jobsG = (s.func k.fn).jobsG ++ [⟨k, 0x31, s.now⟩] ∧ t.gran = s.gran ∧ t.host = s.host)) ∧
    (∀ (f : Fin 65) (tag : Word) (j : GJob) (r : Region) (glitch : Bool), (s.func f).copying tag = some j →
      (s.granWaits 4 j.since = true → exec (.granaryCopyDone f tag glitch) s = .next s) ∧
      (s.granWaits 4 j.since = false → s.copyCheck j.pkt (j.opc = 0x30) = none → s.gran.dir.get? (granId j.pkt) = some r →
      (j.opc = 0x30 → s.gran.mem.wf = true → s.pwr.roomDirectory = true → r.base % 512 = 0 → (j.pkt.w 5).toNat % 512 = 0 →
        Completes (.granaryCopyDone f tag glitch) s fun t =>
          t.gran.mem.bytes (r.base + j.pkt.d 1) (j.pkt.w 5).toNat = s.host.bytes (j.pkt.d 3) (j.pkt.w 5).toNat ∧
          t.gran.dir.get? (granId j.pkt) = some (r.written (j.pkt.d 1 + (j.pkt.w 5).toNat))) ∧
      (j.opc = 0x31 → s.host.wf = true →
        (∀ n : Nat, n < ceilDiv (j.pkt.w 5).toNat 512 → s.gran.blockOk ((r.base + j.pkt.d 1) / 512 + n) = true) →
        (∀ a : Nat, j.pkt.d 3 ≤ a → a < j.pkt.d 3 + (j.pkt.w 5).toNat →
          let x := (s.func j.pkt.fn).rbase.toNat + 32 * (s.func j.pkt.fn).rtail.toNat
          a < x ∨ x + 32 ≤ a) →
        Completes (.granaryCopyDone f tag glitch) s fun t =>
          t.host.bytes (j.pkt.d 3) (j.pkt.w 5).toNat = s.gran.mem.bytes (r.base + j.pkt.d 1) (j.pkt.w 5).toNat ∧
          t.gran.mem = s.gran.mem ∧ t.gran.dir = s.gran.dir))) ∧
    (∀ (b : Nat) (glitch : Bool), s.gran.avail = true → (s.gran.regionAt (512 * b)).isSome = true →
      (s.granWaits 5 0 = true → exec (.patrolRead b glitch) s = .next s) ∧ (s.granWaits 5 0 = false →
      ((s.gran.blockOk b = true → exec (.patrolRead b glitch) s =
        .next { s with gran := { s.gran with retry := if glitch then satAdd s.gran.retry 1 else s.gran.retry } }) ∧
      (s.gran.blockOk b = false → Completes (.patrolRead b glitch) s fun t =>
        t.gran = { s.gran with err := t.gran.err, badLog := t.gran.badLog } ∧ t.gran.err = satAdd s.gran.err 1 ∧
        t.gran.badLog = (if s.gran.badLog.length < 16 then s.gran.badLog ++ [b] else s.gran.badLog) ∧
        t.stalls = s.stalls)))) ∧
    (∀ ch : Fin 32, s.gran.avail = true →
      (exec (.wck2dqRetrain ch true) s = .next { s with gran := { s.gran with fails := s.gran.fails.set ch 0 } }) ∧
      (s.gran.fails[ch] < 2 → exec (.wck2dqRetrain ch false) s =
        .next { s with gran := { s.gran with fails := s.gran.fails.set ch (s.gran.fails[ch] + 1) } }) ∧
      (2 ≤ s.gran.fails[ch] → Completes (.wck2dqRetrain ch false) s fun t =>
        t.gran.avail = false ∧ t.gran.chans.getLsbD ch.val = false ∧ t.gran.mem = s.gran.mem ∧
        (∀ e ∈ t.gran.dir, e.2.lost = true) ∧ t.gran.dir.map (·.1) = s.gran.dir.map (·.1))) ∧
    (∀ (x : JournalItem) (l : List JournalItem), s.pwr.journal = x :: l → s.waitingSeal = none → s.waitingDir = none →
      Completes .journalWrite s fun t => t.pwr.journal = l ∧ t.stalls = s.stalls ∧ t.parts = s.parts ∧
        (∀ (p : BitVec 6) (ws : List Word), x = .record p ws → s.journal.length < 130048 →
          t.journal = s.journal ++ [ws] ∧ t.journalN = s.journalN + 1 ∧ t.dirFlash = s.dirFlash) ∧
        (∀ (id : Nat) (r : Region), x = .directory id (some r) → t.dirFlash = s.dirFlash.set id r ∧ t.journal = s.journal) ∧
        (∀ id : Nat, x = .directory id none → t.dirFlash = s.dirFlash.del id ∧ t.journal = s.journal)) ∧
    (s.pwr.ticks % 131072 = 0 → Completes .checkpoint s fun t => t.parts = s.parts ∧
      t.pwr.journal = s.pwr.journal ++
        s.existing.map (fun p => .record (BitVec.ofNat 6 p.val) (s.ledgerRecord p kindCheckpoint 0 0))) ∧
    (s.pwr.ticks % 32768 = 0 → Completes .granMibSeconds s fun t => t.stalls = s.stalls ∧
      ∀ p : Fin 64, ((s.part p).exists' = false → t.part p = s.part p) ∧
        ((s.part p).exists' = true → t.part p = (s.count p 15 (s.gran.ownedMib p)).part p))

/-- Denied and malformed packets (17 R480, R481, R484, R485, R494). -/
def Obligations.PacketsAreChecked : Prop :=
  ∀ (s : State) (k : Packet) (c : Instr) (opc : Byte) (r : Rule) (masks : List Word), (c, opc, r, masks) ∈ packetCmds k →
    (s.onTurn opc k = false → exec c s = .next s) ∧
    (s.onTurn opc k = true → CanReply s k →
    let q := s.part k.part
    let refused := fun st : Byte => Completes c s fun t =>
      Replied s t opc k st [] ∧ t.stalls = s.stalls ∧ t.sheaves = s.sheaves ∧ t.ports = s.ports ∧ t.gran = s.gran ∧
      t.ring = s.ring ∧ t.clk = s.clk ∧ t.pwr = s.pwr ∧ t.sram = s.sram ∧
      ∀ p : Fin 64, t.part p = { s.part p with cnt := (t.part p).cnt }
    let head := r.head = true ∧ q.exists' = true ∧ q.head = false
    let gone := r.acts = true ∧ q.exists' = false
    (k.tenant = true → r.tenant = false → refused 0x04) ∧
    ((k.tenant = false ∨ r.tenant = true) → head → refused 0x04) ∧
    ((k.tenant = false ∨ r.tenant = true) → gone → refused 0x03) ∧
    ((k.tenant = false ∨ r.tenant = true) → ¬ head → ¬ gone → k.reserved masks = true → refused 0x03))

/-- Class I, and LEDGER_SEAL (17 R493, R500, Tables 17.7, 17.8). -/
def Obligations.PacketsAnswer : Prop :=
  ∀ (s : State) (k : Packet), CanReply s k →
    let q := s.part k.part
    let lo := BitVec.ofNat 32 s.cycle
    let hi := BitVec.ofNat 32 (s.cycle / 2 ^ 32)
    (Accepted s k anyRing [0xFFFFFFFF] → Completes (.ping k) s fun t =>
      Replied s t 0x01 k 0 [k.w 0, s.sys.fwver] ∧ t.stalls = s.stalls ∧ t.gran = s.gran) ∧
    (Accepted s k anyRing [0xFF] →
      (k.w 0 = 0 → k.tenant = true → Completes (.queryInfo k) s fun t => Replied s t 0x02 k 0 [sysId, s.sys.fwver] ∧
        t.stalls = s.stalls) ∧
      (k.w 0 = 0 → k.tenant = false → Completes (.queryInfo k) s fun t => t.stalls = s.stalls ∧
        Replied s t 0x02 k 0 [sysId, s.sys.fwver, s.nodeWord, BitVec.ofNat 32 s.gran.freeMib, loW s.sys.stallOk, hiW s.sys.stallOk]) ∧
      (k.w 0 = 1 → (k.tenant = true ∨ q.exists' = true) → Completes (.queryInfo k) s fun t => t.stalls = s.stalls ∧
        Replied s t 0x02 k 0 [loW q.stalls, hiW q.stalls, q.spanIdWord, q.rankWord, q.spanStatus,
          pack [(b2n q.image.isSome, 31), (b2n (q.ctx.any fun c => c.state = 1), 30), (b2n q.disp.isSome, 19), (q.dqUsed, 16)]]) ∧
      (1 < (k.w 0).toNat → Completes (.queryInfo k) s fun t => Replied s t 0x02 k 0x03 [] ∧ t.stalls = s.stalls)) ∧
    (Accepted s k anyMember [] →
      (∀ d : Dispatch, q.disp = some d → Completes (.stepStatus k) s fun t => t.stalls = s.stalls ∧
        Replied s t 0x24 k 0 [pack [(1, 30), (q.dqUsed, 27), ((q.lastStat.getD 0).toNat, 0)], q.choice, q.reproNow, s.stepId k.part,
          pack [(min d.reruns 0xFFFF, 16), (d.padOver, 0)],
          BitVec.ofNat 32 (match q.members with | st :: _ => (s.stl st).seq.sched | [] => 0)]) ∧
      (q.disp = none → Completes (.stepStatus k) s fun t => t.stalls = s.stalls ∧
        Replied s t 0x24 k 0 [pack [(if q.lastStat.isSome then 2 else 0, 30), (q.dqUsed, 27), ((q.lastStat.getD 0).toNat, 0)], q.choice,
          q.repro, s.stepId k.part, pack [(q.lastRuns.1.toNat, 16), (q.lastRuns.2.toNat, 0)],
          BitVec.ofNat 32 (match q.members with | st :: _ => (s.stl st).seq.sched | [] => 0)])) ∧
    (∀ n : Fin 20, fld (k.w 0) 4 0 = n.val → Accepted s k operator [0x1F] → Completes (.linkStatus k) s fun t =>
      Replied s t 0x52 k 0 [s.sheafStatus n, (s.sheaf n).latWord, (s.sheaf n).farWord, (s.sheaf n).eqWord,
        (s.port (sheafPort n)).status, s.timebase] ∧ t.sheaves = s.sheaves) ∧
    (∀ r : Region, s.gran.dir.get? (granId k) = some r → Accepted s k anyRing [0xF0000FFF] → granSub k = 1 →
      s.gran.avail = true → mayUse k r = true → (s.func k.fn).fullG = false → Completes (.granaryGetInfo k) s fun t =>
        Replied s t 0x31 k 0 [BitVec.ofNat 32 (r.base / 1048576), BitVec.ofNat 32 (r.size / 1048576), BitVec.ofNat 32 r.length,
          BitVec.ofNat 32 (r.length / 2 ^ 32),
          pack [(b2n r.verified.isSome, 31), (b2n r.lost, 30), (r.owner.toNat, 16), (min r.pins 0xFFFF, 0)]] ∧ t.gran = s.gran) ∧
    (Accepted s k anyMember [0xFFFFFFFF, 0xFFFFFFFF] → k.d 0 % 64 = 0 → ReplyApart s k (k.d 0) 128 →
      Completes (.ledgerRead k) s fun t => Replied s t 0x70 k 0 [lo, hi, 128] ∧
        t.host.bytes (k.d 0) 128 = q.cnt.toList.flatMap (fun c => natBytes 8 c.toNat) ∧ t.stalls = s.stalls) ∧
    (Accepted s k anyMember [0xFFFFFFFF, 0xFFFFFFFF, 0xFFFFFFFF, 0xFFFFFFFF] → k.d 0 % 64 = 0 → (s.func k.fn).fullG = false →
      s.pwr.roomRecord = true →
      let n := satAdd q.sealSeq 1
      let ws := s.ledgerRecord k.part kindSeal (dword (k.w 2) (k.w 3)) n
      q.exists' = true → ReplyApart s k (k.d 0) (wordsBytes ws).length → Completes (.ledgerSeal k) s fun t =>
        Replied s t 0x71 k 0 [lo, hi, 256] ∧ (t.part k.part).sealSeq = n ∧ t.host.bytes (k.d 0) (wordsBytes ws).length = wordsBytes ws ∧
        t.pwr.journal = s.pwr.journal ++ [.record (BitVec.ofNat 6 k.part.val) ws])

/-- A bad ring setup (17 R471). -/
def Obligations.BadRingSetup : Prop :=
  ∀ (s : State) (f : Fin 65) (v : Word),
    let x := s.func f
    let size := fun n : Nat => ∃ e : Nat, 4 ≤ e ∧ e ≤ 12 ∧ n = 2 ^ e
    s.fab.drainTo = none → bit v 31 = true → x.enable = false →
    ¬ (x.cbase.toNat % 4096 = 0 ∧ x.rbase.toNat % 4096 = 0 ∧ size x.csize.toNat ∧ size x.rsize.toNat) →
    Completes (.cmdqEnable f v) s fun t =>
      (t.func f).running = x.running ∧ (x.running = false → (t.func f).running = false) ∧
      (t.func f).error = true ∧ (t.func f).errCode = 1

/-- Rings (17 R472 to R477, R504, 20 R608). -/
def Obligations.RingsRun : Prop :=
  ∀ (s : State) (f : Fin 65) (v : Word),
    let x := s.func f
    (s.fab.drainTo = none → bit v 31 = true → x.enable = false → x.setupOk = true → Completes (.cmdqEnable f v) s fun t =>
      (let y : Func := { x with irq := bit v 30, vec := BitVec.ofNat 5 (fld v 4 0) }
       t.func f = { y with enable := true, running := s.sys.stage = 7, head := 0, tail := 0, rhead := 0, rtail := 0 }) ∧
      (∀ g : Fin 65, g ≠ f → t.func g = s.func g) ∧ t.parts = s.parts) ∧
    (s.fab.drainTo = none → bit v 31 = false → Completes (.cmdqDisable f v) s fun t =>
      (t.func f).enable = false ∧ ((t.func f).running = true ↔ x.running = true ∧ 0 < x.infl) ∧ (t.func f).head = x.head ∧
      (t.func f).infl = x.infl ∧ (t.func f).accepted = x.accepted ∧ t.parts = s.parts) ∧
    (s.fab.drainTo = none → fld v 11 0 < x.csize.toNat → exec (.doorbell f v) s = .next (s.setFunc f { x with tail := BitVec.ofNat 12 (fld v 11 0) })) ∧
    (s.fab.drainTo = none → x.csize.toNat ≤ fld v 11 0 →
      exec (.doorbell f v) s = .next (s.setFunc f { x with error := true, errNew := true, errCode := 2 })) ∧
    (∀ fail : Bool, x.head = x.tail → exec (.packetRead f fail) s = .next s) ∧
    (x.readable = true → x.accepted.any (fun a => classI a.1) = false → s.pwr.mstate.toNat < 2 → s.pcieUp = true →
      (Completes (.packetRead f true) s fun t =>
        (t.func f).error = true ∧ (t.func f).errCode = 3 ∧ (t.func f).enable = false ∧ (t.func f).head = x.head ∧
        (t.func f).accepted = x.accepted) ∧
      let a := x.cbase.toNat + 64 * x.head.toNat
      let w := s.host.word a
      let opc : Byte := BitVec.ofNat 8 (fld w 31 24)
      let k : Packet := ⟨f, BitVec.ofNat 24 (fld w 23 0), s.host.word (a + 4), x.head,
        Vector.ofFn fun i : Fin 14 => s.host.word (a + 8 + 4 * i.val)⟩
      (opcodes.contains opc = true → Completes (.packetRead f false) s fun t =>
        (t.func f).head = ringNext x.head x.csize.toNat ∧ (t.func f).infl = x.infl + 1 ∧
        (t.func f).accepted = x.accepted ++ [(opc, k)] ∧ t.host = s.host) ∧
      (opcodes.contains opc = false → x.orphans.contains k = false → s.host.wf = true →
        Completes (.packetRead f false) s fun t => (t.func f).head = ringNext x.head x.csize.toNat ∧
          (t.func f).infl = x.infl ∧ (t.func f).accepted = x.accepted ∧ (t.func f).rtail = ringNext x.rtail x.rsize.toNat ∧
          t.host.bytes (x.rbase.toNat + 32 * x.rtail.toNat) 32 = wordsBytes (replyWords opc k 0x02 []))) ∧
    (∀ p : Fin 64, f = p.succ → Completes (.functionLevelReset p) s fun t =>
      (let y : Func := { Func.reset with orphans := (t.func f).orphans, accepted := x.accepted, jobsG := x.jobsG }
       t.func f = { y with eseq := x.eseq, events := x.events, eloss := x.eloss }) ∧
      (∀ g : Fin 65, g ≠ f → t.func g = s.func g) ∧ t.parts = s.parts ∧ t.stalls = s.stalls)

/-- Partitions and power (12 R326, R348, 17 R496, R497, 18 R510 to R517, 19 R540, R542). -/
def Obligations.PartitionsBeginAndEnd : Prop :=
  ∀ (s : State) (k : Packet),
    let p := k.part
    let q := s.part p
    (Accepted s k operator [0xFFFFFFFF, 0xFFFFFFFF, 0x80000FFF] → s.createCheck k false = none →
      (s.pwr.cellReady = true → s.fab.lock = none → Completes (.partCreate k) s fun t =>
        let mask := (createArgs k).1
        (t.part p).state = 1 ∧ (t.part p).stalls = mask ∧ (t.part p).depot = (createArgs k).2.1 ∧
        (t.part p).hubPages = (createArgs k).2.2 ∧ s.freePages (createArgs k).2.2 = some (t.part p).hubBase ∧
        t.createSeq = s.createSeq + 1 ∧ (t.part p).createSeq = BitVec.ofNat 64 (s.createSeq + 1) ∧ (t.part p).account = 0 ∧
        (t.part p).keymask = 0 ∧ (t.part p).zero = some (s.cycle + 12288, false) ∧ t.fab.lock = some (.partition p) ∧
        ∀ st : Fin 64, (mask.getLsbD st.val = true → (t.stl st).clearing = some (s.cycle + 12288) ∧ (t.stl st).power = .s1) ∧
          (mask.getLsbD st.val = false → t.stl st = s.stl st)) ∧
      (s.pwr.cellReady = false ∨ s.fab.lock.isSome = true → Completes (.partCreate k) s fun t => t.part p = { q with job := (t.part p).job } ∧
        t.stalls = s.stalls ∧ ∃ j : Job, (t.part p).job = some j ∧ j.pkt = k ∧ j.opc = 0x10 ∧ j.phase = 0)) ∧
    (Accepted s k operatorPart [] →
      (q.ending = false → s.fab.lock = none → Completes (.partDestroy k) s fun t => (t.part p).state = 3 ∧ (t.part p).queue = [] ∧
        (∃ j : Job, (t.part p).job = some j ∧ j.pkt = k ∧ j.opc = 0x11) ∧
        (q.disp = none → q.spanState ≠ 2 → s.hubPending p = false →
          (t.part p).zero = some (s.cycle + 12288, true) ∧ t.fab.lock = some (.partition p))) ∧
      (q.ending = false → s.fab.lock.isSome = true → Completes (.partDestroy k) s fun t =>
        (t.part p).state = q.state ∧ (t.part p).disp = q.disp ∧ t.fab.lock = s.fab.lock ∧
        ∃ j : Job, (t.part p).job = some j ∧ j.pkt = k ∧ j.opc = 0x11) ∧
      (q.ending = true → CanReply s k → Completes (.partDestroy k) s fun t =>
        Replied s t 0x11 k 0x01 [] ∧ (t.part p).state = q.state ∧ (t.part p).job = q.job ∧ t.stalls = s.stalls) ∧
      (q.span.isSome = true → q.busyP = false → (q.spanState = 2 → q.dispatching = false) → Completes (.spanLeave k) s fun t =>
        (t.part p).span = none ∧ (t.part p).spanState = 0 ∧ (t.part p).image = none ∧ (t.part p).state = q.state)) ∧
    (∀ (t0 : Nat) (destroy : Bool), q.zero = some (t0, destroy) →
      (s.cycle < t0 → exec (.zeroizationDone p) s = .next s) ∧
      (t0 ≤ s.cycle → s.pwr.roomRecord = true → s.fab.lock = some (.partition p) → s.fab.staged = [] → s.fab.heldWr = [] →
        s.pwr.toM2 = false → Completes (.zeroizationDone p) s fun t =>
          t.fab.lock = none ∧ (t.part p).zero = none ∧ (t.part p).job = none ∧ (t.part p).image = none ∧
          (∀ st ∈ q.members, (t.stl st).pad.mem = [] ∧ (t.stl st).pad.poison = [] ∧ (t.stl st).clearing = none) ∧
          (∀ a : Nat, 4096 * q.hubBase ≤ a → a < 4096 * q.hubBase + 4096 * q.hubPages → t.sram.rd a = 0) ∧
          (destroy = false → (t.part p).state = 2 ∧ (t.part p).stalls = q.stalls ∧ (t.part p).sealSeq = 0) ∧
          (destroy = true → (t.part p).state = 0 ∧ (t.part p).stalls = 0 ∧ (t.part p).close = s.ledgerRecord p kindClose 0 0 ∧
            ∀ st ∈ q.members, (t.stl st).power = .s3))) ∧
    (let id : BitVec 12 := BitVec.ofNat 12 (fld (k.w 0) 27 16)
      let own := memberAt s.host (k.d 2) 0
      Accepted s k operatorPart [0x0FFF3FFF, 0x1FFF1FFF, 0xFFFFFFFF, 0xFFFFFFFF] → fld (k.w 0) 13 0 = 1 →
      fld (k.w 1) 12 0 = 0 → fld (k.w 1) 28 16 = 0 → id ≠ 0 → q.busyP = false → q.span = none →
      (∀ x : Fin 64, (s.part x).span ≠ some id) → q.depot = false → s.link.node = some own.node →
      (∀ x : Nat, x < 6 → own.nb.getD x 0xFFFF = 0xFFFF) → Completes (.spanJoin k) s fun t =>
        (t.part p).span = some id ∧ (t.part p).spanState = 2 ∧ (t.part p).h = 64 ∧ (t.part p).rank = 0 ∧
        (t.part p).sizeM1 = 0 ∧ (t.part p).isRoot = true ∧ (t.part p).job = none ∧ t.link.estab = true ∧ t.stalls = s.stalls) ∧
    (Accepted s k operator [0x80000003] → s.jobPower = none →
      (bit (k.w 0) 31 = true → fld (k.w 0) 1 0 = 2 → q.exists' = true → q.dispatching = false → Completes (.powerState k) s fun t =>
        ∀ st : Fin 64, (st ∈ q.members → (t.stl st).power = (if (s.stl st).power = .s3 then .s3 else .s2) ∧
          (t.stl st).pad = (s.stl st).pad) ∧ (st ∉ q.members → t.stl st = s.stl st)) ∧
      (bit (k.w 0) 31 = false → fld (k.w 0) 1 0 = 2 → (∀ x : Fin 64, (s.part x).state = 0 ∧ (s.part x).dispatching = false ∧ (s.part x).ending = false) →
        Completes (.powerState k) s fun t => t.pwr.mstate = 2 ∧ t.pwr.toM2 = false ∧ ∀ n : Fin 20, (t.sheaf n).state = .disabled)) ∧
    (Accepted s k operator [0x3F] → fld (k.w 0) 5 0 ≤ 32 → s.clk.job = none → Completes (.freqSet k) s fun t =>
      t.clk.ceil = BitVec.ofNat 6 (fld (k.w 0) 5 0) ∧ t.clk.job = some (k, s.now) ∧ t.clk.fcode = s.clk.fcode ∧ t.stalls = s.stalls)

/-- Loads, dispatches and link commands (17 R486 to R488, R495, R498, R502, 12 R334, 18 R524 to R526, 11 R310). -/
def Obligations.LoadsAndDispatchesBegin : Prop :=
  ∀ (s : State) (k : Packet),
    let p := k.part
    let q := s.part p
    let w := k.w 0
    let len := (k.w 3).toNat
    let i := imageOf (s.sourceBytes w (k.d 1) len) len
    (Accepted s k anyMember [0xCFFF0FFF, 0xFFFFFFFF, 0xFFFFFFFF, 0xFFFFFFFF, 0xFFFFFFFF, 0xFFFFFFFF] →
      firstStatus (s.sourceChecks k w len ++ s.backChecks k len) = none → i.streamed = false → s.imageBad p i = false →
      k.d 4 = 0 → q.dispatching = false → q.busyP = false → q.open' = false → s.imageShort p i = false → q.depot = false →
      Completes (.imageLoad k) s fun t => t.stalls = s.stalls ∧ (t.part p).image = q.image ∧
        (t.part p).job = some ⟨k, 0x20, if s.verifiedFor p w then 2 else 1, s.now, some i, false, none⟩) ∧
    (Accepted s k anyMember [0x80000FFF, 0xFFFFFFFF, 0xFFFFFFFF, 0xFFFFFFFF] → firstStatus (s.sourceChecks k w len) = none →
      (s.func k.fn).fullG = false → Completes (.imageVerify k) s fun t =>
        (t.func k.fn).jobsG = (s.func k.fn).jobsG ++ [⟨k, 0x21, s.now⟩] ∧ t.stalls = s.stalls ∧ t.gran = s.gran) ∧
    (∀ (j : Job) (x : Image), q.job = some j → j.opc = 0x20 → j.img = some x → q.depot = false →
      (j.phase = 1 → Completes (.verificationDone p) s fun t => t.stalls = s.stalls ∧ (t.part p).image = q.image ∧
        let y := if bit (j.pkt.w 0) 31 then { x with bytes := s.sourceBytes (j.pkt.w 0) (j.pkt.d 1) x.length } else x
        (t.part p).job = (if (s.verify q.keymask y).isSome then some { j with phase := 2 } else none)) ∧
      (j.phase = 2 → s.imageShort p x = false → j.ring = none → bit (j.pkt.w 0) 31 = false → bit (j.pkt.w 0) 30 = false →
        Completes (.placementDone p) s fun t =>
          (∃ y : Image, (t.part p).image = some y ∧ y.bytes = x.bytes ∧ y.length = x.length ∧ y.backing = none) ∧
          (t.part p).job = none ∧
          ∀ e ∈ q.members.zipIdx, (t.stl e.1).xl.win = x.windows q.rank.toNat e.2 ∧ (t.stl e.1).xl.spanId = q.span ∧
            (t.stl e.1).ca.valid = false ∧ (t.stl e.1).ca.acc = [] ∧
            ∀ n : Fin 256, (t.stl e.1).ca.scale[n] = (x.table q.rank.toNat e.2 tyScale).word (4 * n.val))) ∧
    (CanReply s k → q.loadVerifying = none → q.swap = none → q.adapterVerifying = none → s.verifying p = some k →
      firstStatus (s.sourceChecks k w len) = none → (s.sourceGood w len).2 = true → Completes (.verificationDone p) s fun t =>
        (let ok := (s.verify q.keymask i).isSome
         Replied s t 0x21 k (if ok then 0 else 0x0C) (if ok then digestWords ((i.sig.map i.digest).getD []) else [])) ∧
        (t.func k.fn).jobsG = (s.func k.fn).jobsG.eraseP fun j => j.pkt = k && j.opc = 0x21) ∧
    (∀ x : Image, Accepted s k headRing [0xF] → q.image = some x → fld w 3 0 < x.entries.length → q.spanState ≠ 3 →
      q.loading = false →
      (q.dispatching = false → q.holdsPost = false → q.sizeM1 = 0 → s.awake p = true → Completes (.dispatch k) s fun t =>
        (t.part p).queue = [⟨some k, fld w 3 0, some (s.cycle + 1024)⟩] ∧ (t.part p).disp = none ∧ t.stalls = s.stalls) ∧
      (q.dispatching = false → q.holdsPost = false → q.sizeM1 ≠ 0 → Completes (.dispatch k) s fun t =>
        let start := ceilDiv (s.cycle + 131072) 65536 * 65536
        (t.part p).queue = [⟨some k, fld w 3 0, some start⟩] ∧ (t.part p).disp = none ∧
        ∀ y ∈ q.treePorts, ∀ m : Fin 20, (s.activeOf y).find? (fun n => !s.ringSheaf n) = some m →
          ∃ c : Nat, (t.sheaf m).tx.recs =
            (s.sheaf m).tx.recs ++ List.replicate (c + 1) (0x03, [(q.span.getD 0).toNat, fld w 3 0, start])) ∧
      (q.dispatching = true → q.dqUsed < 4 → Completes (.dispatch k) s fun t =>
        (t.part p).queue = q.queue ++ [⟨some k, fld w 3 0, none⟩] ∧ (t.part p).disp = q.disp) ∧
      (q.dispatching = true → 4 ≤ q.dqUsed → CanReply s k → Completes (.dispatch k) s fun t =>
        Replied s t 0x22 k 0x01 [] ∧ (t.part p).queue = q.queue ∧ (t.part p).disp = q.disp ∧ t.stalls = s.stalls)) ∧
    (Accepted s k headRing [1] → q.halt = none →
      (q.queue = [] → q.ended = [] → (bit w 0 = false ∨ q.disp = none) → CanReply s k → Completes (.halt k) s fun t =>
        Replied s t 0x23 k 0 [] ∧ (t.part p).disp = q.disp ∧ (t.part p).halt = none ∧ t.stalls = s.stalls) ∧
      (∀ (x : Packet) (n : Nat), q.queue = [⟨some x, n, none⟩] → Completes (.halt k) s fun t =>
        (t.part p).queue = [] ∧ (t.part p).ended = q.ended ++ [⟨x, 0x06, []⟩] ∧
        (t.part p).halt = some (k, 8 + b2n (bit w 0 && q.disp.isSome)) ∧ t.stalls = s.stalls) ∧
      (∀ d : Dispatch, q.disp = some d → bit w 0 = true → Completes (.halt k) s fun t =>
        ∃ (e : Dispatch) (y : Stop), (t.part p).disp = some e ∧ e.stop = some y ∧ y.endAt ≤ s.cycle + q.horizon)) ∧
    (let port : Fin 8 := fin 7 (fld w 2 0)
      let mask : BitVec 3 := BitVec.ofNat 3 (fld w 6 4)
      let x := s.port port
      let pre : Option (Fin 6) := if fld w 11 8 = 0 then none else some (fin 5 (fld w 11 8 - 1))
      let sent := fun (t : State) (kind : BitVec 3) => ∀ m ∈ s.activeOf port,
        let e : BitVec 4 × BitVec 26 := (9, s.me ++ kind ++ mask ++ (0 : BitVec 7))
        (t.sheaf m).tx.syms = (s.sheaf m).tx.syms ++ [e, e]
      x.job = none → mask ≠ 0 →
      (Accepted s k operator [0xF77] → fld w 11 8 ≤ 6 → mask &&& ~~~x.keep = 0 →
        ((∀ n ∈ namedSheaves port mask, (s.sheaf n).state ≠ .active) → Completes (.linkTrain k) s fun t =>
          (t.port port).job = some ⟨1, mask, pre, 0, s.now, none, true, false, some (k, 0)⟩ ∧
          ∀ n ∈ namedSheaves port mask, (s.sheaf n).state = .failed → (t.sheaf n).state = .detect ∧ (t.sheaf n).preset = pre) ∧
        ((∃ n ∈ namedSheaves port mask, (s.sheaf n).state = .active) → Completes (.linkTrain k) s fun t =>
          (t.port port).job = some ⟨1, mask, pre, 1, s.now, none, false, false, some (k, 0)⟩ ∧ sent t 1)) ∧
      (Accepted s k operator [0x77] → port.val < 6 → (namedSheaves port (x.keep &&& ~~~mask)).any s.slotted = false →
        Completes (.linkWidth k) s fun t => (t.port port).job = some ⟨2, mask, none, 1, s.now, none, false, false, some (k, 0)⟩ ∧
          (∀ n : Fin 20, (t.sheaf n).state = (s.sheaf n).state) ∧ sent t 2)) ∧
    (∀ n : Fin 20, fld w 4 0 = n.val → 18 ≤ n.val → Accepted s k operator [0xFF00001F, 0xFFFF] → fld w 31 24 = 1 →
      1 ≤ fld (k.w 1) 15 0 → fld (k.w 1) 15 0 ≤ 60000 → s.jobDiag = none → s.ringSheaf n = false → (s.sheaf n).state ≠ .active →
      Completes (.auxLoopback k) s fun t => t.jobDiag = some (k, n, s.now, 0) ∧ (t.sheaf n).state = .blind ∧
        t.stalls = s.stalls) ∧
    (∀ (n : Fin 20) (t0 t1 : Nat), s.jobDiag = some (k, n, t0, t1) →
      (t1 ≠ 0 → t1 ≤ s.now → Completes .loopbackDurationEnd s fun t => t.jobDiag = none ∧ (t.sheaf n).state = .disabled) ∧
      (t1 = 0 → t0 + 10000000000 ≤ s.now → CanReply s k → Completes .loopbackLockTimeout s fun t =>
        t.jobDiag = none ∧ (t.sheaf n).state = .disabled ∧ ((s.sheaf n).state ≠ .active → Replied s t 0x7F k 0x07 [])))

/-- The frequency agreement (19 R546 to R559, R565, R566, 17 R496). A demand set no more than DIST µs before the
decision is not in force at the boundary (`State.inForce`). -/
def Obligations.FrequencyAgreed : Prop :=
  ∀ s : State,
    (s.pwr.brake = false → Completes .brakeAssert s fun t =>
      t.pwr.brake = true ∧ t.demand = 0 ∧ t.reasons.getLsbD 1 = true ∧ t.clk.fcode = s.clk.fcode ∧ t.stalls = s.stalls ∧
      t.parts = s.parts ∧ Reported s t 0x6003 t.freqWord 0 ∧
      ∀ n : Fin 20, s.link.parent = some n →
        (s.clk.sent = some t.subtree → t.sheaves = s.sheaves) ∧
        (s.clk.sent ≠ some t.subtree → t.clk.sent = some t.subtree ∧
          (t.sheaf n).tx.recs = (s.sheaf n).tx.recs ++ [(0x07, demandWords s.me t.subtree.1 t.subtree.2)])) ∧
    (s.pwr.brake = true → Completes .brakeRelease s fun t =>
      t.pwr.brake = false ∧ t.reasons.getLsbD 1 = false ∧ t.clk.fcode = s.clk.fcode ∧ t.stalls = s.stalls ∧
      t.parts = s.parts ∧ Reported s t 0x6004 t.freqWord 0) ∧
    (∀ (n : Fin 20) (node : BitVec 13) (f : BitVec 6) (r : BitVec 5), (s.sheaf n).state = .active → s.link.parent ≠ some n →
      Completes (.freqDemand n node f r) s fun t =>
        (node, f, r, sheafPort n) ∈ t.clk.kids ∧ (∀ k ∈ s.clk.kids, k.1 ≠ node → k ∈ t.clk.kids) ∧ t.subtree.1.toNat ≤ f.toNat ∧
        t.demand = s.demand ∧ t.clk.fcode = s.clk.fcode ∧ t.stalls = s.stalls ∧ t.parts = s.parts ∧
        ∀ m : Fin 20, s.link.parent = some m →
          (t.sheaf m).tx.recs = (s.sheaf m).tx.recs ++ (0x07, demandWords node f r) ::
            (if s.clk.sent = some t.subtree then [] else [(0x07, demandWords s.me t.subtree.1 t.subtree.2)])) ∧
    (let e := s.cycle / 65536 + 1
     let arg := epochArg e s.subtree.1
     let told (t : State) (a : BitVec 26) : Prop := ∀ m : Fin 20,
       (t.sheaf m).tx.syms = (s.sheaf m).tx.syms ++ (if m ∈ s.timingKids then [(5, a)] else [])
     (s.link.parent = none → s.cycle % 65536 = 32768 → Completes .epochDecision s fun t =>
        t.clk.next = some (BitVec.ofNat 20 e, s.subtree.1) ∧ t.clk.copyAt = some (s.cycle + 1024, arg) ∧
        t.clk.fcode = s.clk.fcode ∧ told t arg) ∧
     (∀ a : BitVec 26, s.link.parent = none → s.cycle % 65536 ≠ 32768 → s.clk.copyAt = some (s.cycle, a) →
        Completes .epochDecision s fun t => t.clk.copyAt = none ∧ t.clk.next = s.clk.next ∧ told t a) ∧
     (s.cycle % 65536 ≠ 32768 → (∀ a : BitVec 26, s.clk.copyAt ≠ some (s.cycle, a)) → exec .epochDecision s = .next s) ∧
     (s.link.parent.isSome = true → exec .epochDecision s = .next s)) ∧
    (∀ (n m : Fin 20) (arg : BitVec 26), s.link.parent = some m → (s.sheaf n).state = .active →
      (s.sheaf n).far.map (·.1) = (s.sheaf m).far.map (·.1) → Completes (.epoch n arg) s fun t =>
        t.clk.next = some (BitVec.ofNat 20 (fld arg 25 6), BitVec.ofNat 6 (fld arg 5 0)) ∧ t.clk.fcode = s.clk.fcode ∧
        (n = m → ∀ c : Fin 20,
          (t.sheaf c).tx.syms = (s.sheaf c).tx.syms ++ (if c ∈ s.timingKids then [(5, arg)] else [])) ∧
        (n ≠ m → t.sheaves = s.sheaves)) ∧
    (let e := s.cycle / 65536
     let num : BitVec 20 := BitVec.ofNat 20 (e + 1)
     s.cycle % 65536 = 49152 → s.link.parent.isSome = true →
     ((∀ f : BitVec 6, s.clk.next ≠ some (num, f)) → s.clk.missFor ≠ some e → Completes .epochMissed s fun t =>
        t.clk.missed = satAdd s.clk.missed 1 ∧ t.clk.missFor = some e ∧ t.clk.fcode = s.clk.fcode ∧
        Reported s t 0x6007 (num.setWidth 32) 0) ∧
     (s.clk.missFor = some e → exec .epochMissed s = .next s)) ∧
    (let e := s.cycle / 65536
     (s.cycle % 65536 = 0 → s.clk.epoch ≠ e → Completes .epochBoundary s fun t =>
        t.clk.epoch = e ∧
        (∀ f : BitVec 6, s.clk.next = some (BitVec.ofNat 20 e, f) →
          t.clk.fcode = f ∧ t.sys.dbgOn = (s.debugTaken.1 && decide (f.toNat ≤ 4))) ∧
        ((∀ f : BitVec 6, s.clk.next ≠ some (BitVec.ofNat 20 e, f)) →
          t.clk.fcode = s.clk.fcode ∧ t.sys.dbgOn = s.sys.dbgOn ∧ t.clk.job = s.clk.job) ∧
        t.telem.energy = s.telem.energy ∧ t.telem.eMark = s.telem.energy ∧ t.pwr.dip = Vector.replicate 4 0 ∧
        (∀ p : Fin 64, (t.part p).epochRun = 0) ∧
        (∀ st : Fin 64, t.stl st = { s.stl st with units := 0, actPrev := (s.stl st).act, act := none }) ∧
        ∀ (k : Packet) (t0 : Nat) (f : BitVec 6), s.clk.job = some (k, t0) → s.clk.next = some (BitVec.ofNat 20 e, f) →
          (s.inForce t0 = true → t.clk.job = none ∧ (CanReply s k → Replied s t 0x60 k 0
            [t.clk.fcode.setWidth 32, BitVec.ofNat 32 s.cycle, BitVec.ofNat 32 (s.cycle / 2 ^ 32)])) ∧
          (s.inForce t0 = false → t.clk.job = s.clk.job)) ∧
     (s.clk.epoch = e → exec .epochBoundary s = .next s)) ∧
    (∀ (f : Fin 4) (t0 : Nat), s.pwr.guardTo[f] = some t0 →
      (s.now < t0 → exec (.guardBandEnd f) s = .next s) ∧
      (t0 ≤ s.now → Completes (.guardBandEnd f) s fun t =>
        t = { s with pwr := { s.pwr with guardTo := s.pwr.guardTo.set f none } })) ∧
    (∀ k : Vector Half 4,
      (s.cycle % 256 ≠ 0 → exec (.skewTrim k) s = .next s) ∧
      (s.cycle % 256 = 0 → Completes (.skewTrim k) s fun t =>
        t.clk.skew = k ∧ t.stalls = s.stalls ∧
        (∃ tr : Vector Half 4, .trim tr ∈ t.out ∧ ∀ b : Fin 4,
          (0 < k[b].toInt → tr[b].toInt = -1) ∧ (k[b].toInt < 0 → tr[b].toInt = 1) ∧ (k[b].toInt = 0 → tr[b].toInt = 0)) ∧
        (∀ b : Fin 4, (120 < k[b].toInt ∨ k[b].toInt < -120) →
          Reported s t 0x6006 (BitVec.ofNat 32 b.val) (BitVec.ofInt 32 k[b].toInt)) ∧
        ((∀ b : Fin 4, -120 ≤ k[b].toInt ∧ k[b].toInt ≤ 120) → t.clk.alarms = s.clk.alarms ∧ t.funcs = s.funcs)))

/-- Power, telemetry and loss (19 R535 to R545, R558, R560 to R563, R568 to R576). -/
def Obligations.PowerAndLoss : Prop :=
  ∀ s : State,
    (let go (t : State) : Prop := t.stalls = s.stalls ∧ t.telem.seq = s.telem.seq ∧ t.telem.energy = s.telem.energy ∧
        (s.telem.pos = none → t.telem.pos = s.telem.entryFrom 0 ∧ t.telem.missed = s.telem.missed) ∧
        (s.telem.pos.isSome = true → t.telem.pos = s.telem.pos ∧ t.telem.missed = satAdd s.telem.missed 1)
     let due := s.telem.trigAt + s.telem.period.toNat * 1000000
     (∀ v : Word, (bit v 0 = true → Completes (.trigger v) s go) ∧ (bit v 0 = false → exec (.trigger v) s = .next s)) ∧
     (s.telem.run = true → due ≤ s.now → Completes .telemPeriodTrigger s fun t => go t ∧ t.telem.trigAt = s.now) ∧
     (s.telem.run = false ∨ s.now < due → exec .telemPeriodTrigger s = .next s)) ∧
    (∀ (code : BitVec 12) (dip : Option Nat) (e i m : Nat) (ch : Fin 24), s.telem.pos = some (e, i) →
      let w := s.telem.seq.toList.getD e 0
      seqCh w = ch.val → s.telem.mode = some (w &&& 0x1F310000, m) → s.sampleDue = true →
      (ch.val = 16 → CellSteady s (BitVec.ofNat 16 (Config.cellMilliVolt code.toNat))) → Completes (.adcSample code dip) s fun t =>
        t.telem.sampleAt = some s.now ∧ t.telem.mode = some (w &&& 0x1F310000, m + 1) ∧
        t.telem.pos = (if i + 1 < seqCount w then some (e, i + 1) else s.telem.entryFrom (e + 1)) ∧ t.stalls = s.stalls ∧
        (2 ≤ m → t.telem.result[ch] = ⟨true, code, code⟩ ∧
          (∀ (r : Fin 10) (v : Option (Fin 24)), railOf ch.val = some (r, v) →
            t.telem.eAt[r] = s.now ∧ t.telem.held = s.telem.held ∧
            t.telem.energy[r] = BitVec.ofNat 64 (s.telem.energy[r].toNat + Config.sampleEnergy r.val code.toNat
              (match v with | some c => (s.telem.result[c]).good.toNat | none => 0) ((s.now - s.telem.eAt[r]) / 1000))) ∧
          (∀ (f : Fin 4) (d : Nat), ch.val = 4 + f.val → dip = some d → 100 < d →
            t.pwr.guardTo[f] = some (s.now + 2000000000) ∧ t.pwr.droops = satAdd s.pwr.droops 1 ∧
            ∃ mv : Word, Reported s t 0x6005 (BitVec.ofNat 32 f.val) mv) ∧
          (ch.val = 16 → t.pwr.cell = BitVec.ofNat 16 (Config.cellMilliVolt code.toNat)) ∧
          (∀ n : Fin 5, ch.val = 19 + n.val → t.pwr.temps[n] = Config.celsius code.toNat)) ∧
        (m < 2 → t.telem.result[ch] = ⟨false, (s.telem.result[ch]).good, code⟩ ∧ t.telem.energy = s.telem.energy ∧
          t.pwr = s.pwr ∧ ((railOf ch.val).isSome = true → t.telem.held = satAdd s.telem.held 1))) ∧
    (∀ (code : BitVec 12) (dip : Option Nat), s.sampleDue = false → exec (.adcSample code dip) s = .next s) ∧
    (∀ (st : Fin 64) (t0 : Nat), (s.stl st).wake = some t0 →
      (s.now < t0 → exec (.stallWakeDone st) s = .next s) ∧
      (t0 ≤ s.now → (s.stl st).power = .s2 → Completes (.stallWakeDone st) s fun t =>
        (t.stl st).power = .s1 ∧ (t.stl st).wake = none ∧ (t.stl st).pad = (s.stl st).pad ∧
        (t.stl st).seq.store = (s.stl st).seq.store ∧ (t.stl st).seq.tally = (s.stl st).seq.tally ∧
        (t.stl st).seq.keys = Vector.replicate 16 ⟨0, 0⟩ ∧ (t.stl st).ca.acc = [] ∧
        ∀ o : Fin 64, o ≠ st → t.stl o = s.stl o) ∧
      (∀ p : Fin 64, t0 ≤ s.now → (s.stl st).power = .s3 → s.owner st = some p → Completes (.stallWakeDone st) s fun t =>
        (t.stl st).power = .s1 ∧ (t.stl st).wake = none ∧ (t.stl st).pad.mem = [] ∧ (t.stl st).rt = (s.stl st).rt ∧
        (t.stl st).pad.scrubRow = (s.stl st).pad.scrubRow ∧ (t.stl st).pad.passes = (s.stl st).pad.passes ∧
        (t.part p).image = none ∧ (t.part p).fresh = true)) ∧
    (∀ t0 : Nat, s.pwr.wake = some t0 → Completes .moduleWakeDone s fun t =>
      t.pwr.mstate = 1 ∧ t.pwr.wake = none ∧ t.chain.attn = s.chain.attn ||| 0x40 ∧ t.parts = s.parts ∧ t.stalls = s.stalls) ∧
    (∀ (ch : Fin 24) (deg : Nat),
      (19 ≤ ch.val → 115 ≤ deg → s.pwr.mstate.toNat < 2 → s.pwr.toM2 = false → Completes (.thermalTrip ch deg) s fun t =>
        t.pwr.thermal = true ∧ Reported s t 0x6008 (BitVec.ofNat 32 ch.val) (BitVec.ofNat 32 deg) ∧
        ((∃ p : Fin 64, (s.part p).state ≠ 0) → t.pwr.toM2 = true ∧ t.pwr.mstate = s.pwr.mstate) ∧
        ((∀ p : Fin 64, (s.part p).state = 0 ∧ (s.part p).ending = false) → t.pwr.mstate = 2 ∧ ∀ n : Fin 20, (t.sheaf n).state = .disabled)) ∧
      ((ch.val < 19 ∨ deg < 115) → exec (.thermalTrip ch deg) s = .next s)) ∧
    (let recs := (s.pwr.journal.filter JournalItem.isRecord).take 64 ++
        s.existing.map (fun p => JournalItem.record (BitVec.ofNat 6 p.val) (s.ledgerRecord p kindLoss 0 0)) ++
        (s.pwr.journal.filter (fun j => !j.isRecord)).take 32
     (s.pwr.valid = false → exec .busbarLoss s = .next s) ∧
     (s.pwr.valid = true → Completes .busbarLoss s fun t =>
        t.pwr.valid = false ∧ t.pwr.backup = true ∧ t.pwr.lossTick = BitVec.ofNat 64 s.pwr.ticks ∧ t.pwr.flushN = 0 ∧
        t.pwr.journal = [] ∧ t.pwr.mstate = 2 ∧ t.pwr.ticks = s.pwr.ticks ∧
        (recs ≠ [] → t.pwr.flush = some recs ∧ t.pwr.flushOut = 0) ∧
        (recs = [] → t.pwr.flush = none ∧ t.pwr.flushOut = 1) ∧
        t.stalls = Vector.replicate 64 .reset ∧ t.sheaves = Vector.replicate 20 .reset ∧ t.gran.mem = [] ∧ t.sram = [] ∧
        (∀ p : Fin 64, (t.part p).state = 0) ∧
        ((∀ p : Fin 64, (s.part p).spanState ≠ 2) → t.flash = s.flash ∧ t.journal = s.journal ∧ t.dirFlash = s.dirFlash ∧
          t.host = s.host ∧ ∀ p : Fin 64, (t.part p).cnt = (s.part p).cnt ∧ (t.part p).close = (s.part p).close)) ∧
     (∀ f : IsoFrame, f.crcOk = true → f.loss = true → s.pwr.valid = true → Completes (.isoStatusFrame f) s fun t =>
        t.pwr.valid = false ∧ t.pwr.lossTick = BitVec.ofNat 64 s.pwr.ticks)) ∧
    (∀ (mv : Nat) (ok : Bool) (j : JournalItem) (l : List JournalItem), s.pwr.flush = some (j :: l) →
      CellSteady s (BitVec.ofNat 16 mv) → Completes (.flushRecord mv ok) s fun t => t.pwr.cell = BitVec.ofNat 16 mv ∧ t.stalls = s.stalls ∧
        (mv < 6000 → t.pwr.flush = none ∧ t.pwr.flushOut = 2 ∧ t.journal = s.journal ∧ t.dirFlash = s.dirFlash) ∧
        (6000 ≤ mv → ok = false → t.pwr.flush = s.pwr.flush ∧ t.journal = s.journal ∧ t.dirFlash = s.dirFlash) ∧
        (6000 ≤ mv → ok = true → t.pwr.flushN = s.pwr.flushN + 1 ∧
          (l ≠ [] → t.pwr.flush = some l) ∧ (l = [] → t.pwr.flush = none ∧ t.pwr.flushOut = 1) ∧
          (∀ (p : BitVec 6) (ws : List Word), j = .record p ws →
            t.journal.getLast? = some ws ∧ t.journalN = s.journalN + 1 ∧ t.dirFlash = s.dirFlash) ∧
          (∀ (d : Nat) (r : Region), j = .directory d (some r) → t.dirFlash = s.dirFlash.set d r ∧ t.journal = s.journal) ∧
          (∀ d : Nat, j = .directory d none → t.dirFlash = s.dirFlash.del d ∧ t.journal = s.journal))) ∧
    (s.pwr.valid = false →
      (s.pwr.mstate ≠ 3 → Completes .busbarValid s fun t => t.pwr.valid = true ∧ t.pwr.backup = false ∧
        t.pwr.flush = s.pwr.flush ∧
        (s.pwr.flush.isSome = true → t.pwr.returned = true ∧ t.sys = s.sys) ∧
        (s.pwr.flush = none → t.sys.request = some (2, 5))) ∧
      (Completes .cellOff s fun t => t.pwr.mstate = 3 ∧ t.pwr.flush = none ∧ t.sys.request = none ∧ t.pwr.aonLost = true ∧ t.pwr.cell = 5000 ∧
        t.pwr.flushOut = (if s.pwr.flush.isSome then 2 else s.pwr.flushOut) ∧ t.journal = s.journal)) ∧
    (∀ (mv : Half) (ready : Bool),
      (ready ≠ decide (15500 ≤ mv.toNat) → exec (.cellReadyChange ready mv) s = .next s) ∧
      (ready = decide (15500 ≤ mv.toNat) → CellSteady s mv → Completes (.cellReadyChange ready mv) s fun t =>
        t.pwr.cellReady = ready ∧ t.pwr.cell = mv ∧ t.parts = s.parts ∧ t.stalls = s.stalls ∧
        (ready = false → s.pwr.cellReady = true → s.pwr.valid = true → Reported s t 0x600A (mv.setWidth 32) 0))) ∧
    (∀ f : IsoFrame, f.loss = false → f.crcOk = true → Completes (.isoStatusFrame f) s fun t =>
      t = { s with pwr := { s.pwr with isoOk := true, isoLimit := false, isoAt := s.now, inVolt := f.volt,
                                       wattSum := s.pwr.wattSum + f.watts.toNat, wattN := s.pwr.wattN + 1 } }) ∧
    (s.pwr.isoLimit = false →
      (s.now < s.pwr.isoAt + 50000000 → exec .isoLinkLost s = .next s) ∧
      (s.pwr.isoAt + 50000000 ≤ s.now → Completes .isoLinkLost s fun t => t.pwr.isoOk = false ∧ t.pwr.limitNow ≤ 1000 ∧
        Reported s t 0x600B 0 0))

/-- The management chain (20 R586 to R599, Tables 20.3 to 20.5). -/
def Obligations.ChainAnswers : Prop :=
  ∀ (s : State) (f : ChainFrame),
    let s1 := { s with chain := { s.chain with frames := satAdd s.chain.frames 1 } }
    (∀ c ∈ chainCmds f,
      ((s.pwr.mstate = 3 ∨ (f.dst ≠ 0xFF ∧ s.chain.addr ≠ some f.dst)) → exec c s = .next (s.emit (.chain f))) ∧
      (s.pwr.mstate ≠ 3 → f.dst ≠ 0xFF → s.chain.addr = some f.dst → frameOk f = false → Completes c s fun t =>
        t.chain.crcErr = satAdd s.chain.crcErr 1 ∧ t.out = s.out ∧ t.sys = s.sys ∧ t.pwr = s.pwr ∧ t.stalls = s.stalls ∧
        (s.chain.crcErr = 0 → Reported s t 0x8003 0 0))) ∧
    (∀ a : Byte, ToAll s f → f.cmd = 0x01 → f.payload = [a] →
      (a ≠ 0 → a ≠ 0xFF → Completes (.addrAssign f) s fun t => t.chain.addr = some a ∧
        .chain (freshCrc { f with payload := [a + 1] } true) ∈ t.out ∧ Reported s t 0x8001 (a.setWidth 32) 0) ∧
      (a = 0xFF → Completes (.addrAssign f) s fun t => t.chain.addr = s.chain.addr ∧ t.chain.overflow = true ∧
        .chain (freshCrc f true) ∈ t.out ∧ Reported s t 0x8004 0 0)) ∧
    (∀ off n : Nat, ToMe s f → f.cmd = 0x02 → off < 2 ^ 24 → n < 256 → f.payload = natBytes 3 off ++ [BitVec.ofNat 8 n] →
      (1 ≤ n → n ≤ 32 → s.moduleState ≠ 2 → Completes (.chainRead f) s fun t =>
        ChainReplied t f 0 (wordsBytes (s1.chainWords off n).2)) ∧
      (∀ r : Reg, n = 1 → s.moduleState = 2 → regAt .chain (BitVec.ofNat 24 off) = some r → r.inM2 = false →
        Completes (.chainRead f) s fun t => ChainReplied t f 0x05 [] ∧ t.stalls = s.stalls) ∧
      ((n = 0 ∨ 32 < n) → Completes (.chainRead f) s fun t => ChainReplied t f 0x03 [] ∧ t.stalls = s.stalls)) ∧
    (∀ (off : Nat) (w : Word), ToMe s f → f.cmd = 0x03 → off < 2 ^ 24 → f.payload = natBytes 3 off ++ wordBytes w →
      (off = 0x50004 → 500 ≤ fld w 11 0 → fld w 11 0 ≤ 2200 → Completes (.chainWrite f) s fun t =>
        t.pwr.limit.toNat = fld w 11 0 ∧ ChainReplied t f 0 [] ∧ t.stalls = s.stalls ∧ t.sys = s.sys) ∧
      (off = 0x53008 → Completes (.chainWrite f) s fun t =>
        t.chain.mask = w.setWidth 8 ∧ ChainReplied t f 0 [] ∧ t.pwr = s.pwr ∧ t.stalls = s.stalls ∧ t.sys = s.sys) ∧
      (s1.chainMay off = false → Completes (.chainWrite f) s fun t =>
        ChainReplied t f 0x04 [] ∧ t.pwr = s.pwr ∧ t.sys = s.sys ∧ t.stalls = s.stalls ∧ t.parts = s.parts)) ∧
    (∀ (node : BitVec 13) (v : Word), ToMe s f → f.cmd = 0x04 → f.payload = natBytes 2 node.toNat ++ natBytes 4 v.toNat →
      let torus := v &&& 0x800F80FF
      let (x, y, z) := nodeXyz node
      let (a, b, c) := torusSize torus
      s.moduleState < 2 → (s.link.node ≠ some node ∨ s.link.torus ≠ torus) → bit v 31 = true →
      (x < a → y < b → z < c → s.existing = [] → (∀ p : Fin 64, (s.part p).spanState ≠ 2) → Completes (.setNode f) s fun t =>
        t.link.node = some node ∧ t.link.torus = torus ∧ ChainReplied t f 0 [] ∧
        ∀ n : Fin 20, (t.sheaf n).state = (if s.keeps n then .detect else .disabled)) ∧
      (x < a → y < b → z < c → s.existing ≠ [] → Completes (.setNode f) s fun t =>
        t.link = s.link ∧ t.sheaves = s.sheaves ∧ ChainReplied t f 0x01 []) ∧
      ((a ≤ x ∨ b ≤ y ∨ c ≤ z) → Completes (.setNode f) s fun t =>
        t.link = s.link ∧ t.sheaves = s.sheaves ∧ ChainReplied t f 0x03 [])) ∧
    (ToMe s f → f.cmd = 0x05 → f.payload = [] →
      (s.moduleState = 2 → 3 ≤ s.sys.stage.toNat → s.pwr.wake = none → Completes (.wake f) s fun t =>
        t.pwr.wake = some (s.now + 30000000000) ∧ ChainReplied t f 0 []) ∧
      (s.moduleState < 2 → Completes (.wake f) s fun t => t.pwr = s.pwr ∧ ChainReplied t f 0 [])) ∧
    (ToMe s f → f.cmd = 0x06 → s.sys.request = none →
      (f.payload = [1] → Completes (.reset f) s fun t => t.sys.request = some (1, 2) ∧ t.fab.draining = true ∧
        t.fab.drainTo = some (s.now + 10000000) ∧ ChainReplied t f 0 [] ∧ t.stalls = s.stalls) ∧
      (f.payload = [2] → Completes (.reset f) s fun t => t.sys.request = some (2, 2) ∧ ChainReplied t f 0 [] ∧
        t.stalls = s.stalls)) ∧
    (∀ a : Byte, ToAll s f → f.cmd = 0x07 → f.payload.length = 32 → s.chain.addr = some a →
      let i := a.toNat / 8
      (s.chain.attn &&& s.chain.mask ≠ 0 → Completes (.attnPoll f) s fun t => t.chain = s.chain ∧
        .chain (freshCrc { f with
          payload := f.payload.set i (f.payload.getD i 0 ||| BitVec.ofNat 8 (2 ^ (a.toNat % 8))) } true) ∈ t.out) ∧
      (s.chain.attn &&& s.chain.mask = 0 → Completes (.attnPoll f) s fun t => t.chain = s.chain ∧
        .chain (freshCrc f true) ∈ t.out)) ∧
    (∀ m : Byte, ToMe s f → f.cmd = 0x08 → f.payload = [m] → Completes (.attnAck f) s fun t =>
      t.chain.attn = s.chain.attn &&& ~~~(m &&& ~~~s.chain.attnNew) ∧ t.chain.mask = s.chain.mask ∧ ChainReplied t f 0 []) ∧
    (∀ (a : Nat) (bs : List Byte), ToMe s f → f.cmd = 0x10 → f.payload = natBytes 4 a ++ bs → 4 ≤ bs.length → bs.length ≤ 124 →
      bs.length % 4 = 0 → a % 4 = 0 → a + bs.length ≤ 0x4000000 → s.flash.wf = true →
      (s.flashArea a ≠ none → s.flashArea (a + bs.length - 1) = s.flashArea a →
        (a % 65536 = 0 ∨ ∀ i : Nat, i < bs.length → s.flash.rd (a + i) = 0) → Completes (.flashWrite f) s fun t =>
          ChainReplied t f 0 [] ∧ t.stalls = s.stalls ∧ t.journal = s.journal ∧
          (∀ i : Nat, i < bs.length → t.flash.rd (a + i) ^^^ 0xFF = bs.getD i 0) ∧
          ∀ x : Nat, (x < a ∨ a + bs.length ≤ x) →
            t.flash.rd x = (if a % 65536 = 0 ∧ a ≤ x ∧ x < a + 65536 then 0 else s.flash.rd x)) ∧
      (s.flashArea a = none → Completes (.flashWrite f) s fun t => t.flash = s.flash ∧ ChainReplied t f 0x04 [])) ∧
    (∀ a n : Nat, ToMe s f → f.cmd = 0x11 → f.payload = natBytes 4 a ++ [BitVec.ofNat 8 n] → 4 ≤ n → n ≤ 124 →
      a + n ≤ 0x1810000 → Completes (.flashRead f) s fun t => t.flash = s.flash ∧
        ChainReplied t f 0 ((List.range n).map (fun i => s.flash.rd (a + i) ^^^ 0xFF))) ∧
    (ToMe s f → s.moduleState = 1 →
      (f.cmd = 0x12 → s.keys.owner = none → s.existing = [] → (ecPoint f.payload).isSome = true →
        Completes (.enrollOwner f) s fun t => t.chain.staged = some f.payload ∧ t.keys = s.keys ∧ ChainReplied t f 0 []) ∧
      (∀ k : List Byte, f.cmd = 0x13 → s.keys.owner = none → s.chain.staged = some k →
        (f.payload = (sha384 k).take 8 → Completes (.enrollCommit f) s fun t =>
          t.keys.owner = some k ∧ t.keys.block = s.keys.block ∧ t.chain.staged = none ∧ ChainReplied t f 0 []) ∧
        (f.payload ≠ (sha384 k).take 8 → Completes (.enrollCommit f) s fun t =>
          t.keys = s.keys ∧ t.chain.staged = some k ∧ ChainReplied t f 0x03 [])) ∧
      (s.keys.owner.isSome = true →
        (f.cmd = 0x12 → Completes (.enrollOwner f) s fun t => t.keys = s.keys ∧ ChainReplied t f 0x04 []) ∧
        (f.cmd = 0x13 → Completes (.enrollCommit f) s fun t => t.keys = s.keys ∧ ChainReplied t f 0x04 []))) ∧
    (ToMe s f → chainCodes.contains f.cmd = false → Completes (.chainFrameForward f) s fun t =>
      ChainReplied t f 0x02 [] ∧ t.sys = s.sys ∧ t.pwr = s.pwr ∧ t.stalls = s.stalls) ∧
    (s.pwr.mstate ≠ 3 →
      (s.chain.attn &&& s.chain.mask ≠ 0 → s.chain.stuck = false →
        (∀ t0 : Nat, s.chain.pulse = some t0 → t0 + 1000000000000 ≤ s.now) → Completes .attnPulse s fun t =>
          t.chain = { s.chain with pulse := some s.now } ∧ .attn ∈ t.out ∧ t.driving = true) ∧
      (s.chain.attn &&& s.chain.mask = 0 → exec .attnPulse s = .next s) ∧
      (s.chain.stuck = false → s.chain.stuckExt = false → Completes .attnStuck s fun t =>
        t.driving = false ∧ t.chain.stuck = s.driving ∧ t.chain.stuckExt = !s.driving ∧ Reported s t 0x8002 t.chainStatus 0))

/-- Resets and bring-up (20 R600 to R611, Tables 20.7, 20.8). -/
def Obligations.ResetsAndBoot : Prop :=
  ∀ s : State,
    (s.pwr.mstate ≠ 3 → s.sys.request = none →
      let asked (kind : BitVec 2) (src : BitVec 4) (t : State) : Prop := t.sys.request = some (kind, src) ∧
        t.stalls = s.stalls ∧ t.parts = s.parts ∧
        (kind = 1 → t.fab.draining = true ∧ t.fab.drainTo = some (s.now + 10000000)) ∧
        (kind = 2 → s.pwr.valid = true → ∀ p ∈ s.existing,
          .record (BitVec.ofNat 6 p.val) (s.ledgerRecord p kindCheckpoint 0 0) ∈ t.pwr.journal)
      (∀ us : Nat, 10 ≤ us → us < 1000000 → Completes (.modResetN true us) s (asked 1 1)) ∧
      (∀ us : Nat, 1000000 ≤ us → Completes (.modResetN false us) s (asked 2 1)) ∧
      (∀ v : Word, s.fab.drainTo = none → fld v 31 16 = 0x5253 →
        (fld v 1 0 = 1 → Completes (.sysResetWarm v) s (asked 1 3)) ∧
        (fld v 1 0 = 2 → Completes (.sysResetCold v) s (asked 2 3))) ∧
      Completes .watchdog s (asked 1 4)) ∧
    (∀ v : Word, s.fab.drainTo = none → fld v 31 16 ≠ 0x5253 →
      exec (.sysResetWarm v) s = .next s ∧ exec (.sysResetCold v) s = .next s) ∧
    (∀ v : Word, s.fab.drainTo.isSome = true →
      let wait : State := { s with fab := { s.fab with atLink := s.fab.atLink ++ [(0, 0x24, some v)] } }
      (fld v 1 0 = 1 → exec (.sysResetWarm v) s = .next wait) ∧ (fld v 1 0 = 2 → exec (.sysResetCold v) s = .next wait)) ∧
    (∀ (l : Bool) (us : Nat), us < 2 → exec (.modResetN l us) s = .next s) ∧
    (∀ src : BitVec 4, s.sys.request = some (1, src) → s.pwr.flush = none →
      (s.fab.drainTo.isSome = true → exec .warmReset s = .next s) ∧
      (s.fab.drainTo = none → Completes .warmReset s fun t =>
        t.sys.cause = (3, src) ∧ t.sys.stage = 3 ∧ t.sys.request = none ∧
        (∀ st : Fin 64, (t.stl st).pad.mem = [] ∧ (t.stl st).pad.poison = [] ∧ (t.stl st).seq = .reset ∧ (t.stl st).ops = [] ∧
          (t.stl st).rt = .reset) ∧
        (∀ p : Fin 64, (t.part p).state = 0) ∧
        (∀ f : Fin 65, (t.func f).running = false ∧ (t.func f).infl = 0 ∧ (t.func f).accepted = [] ∧ (t.func f).jobsG = []) ∧
        (∀ n : Fin 20, (t.sheaf n).state = .disabled ∧ (t.sheaf n).eq = (s.sheaf n).eq) ∧
        ((∀ p : Fin 64, (s.part p).spanState ≠ 2) →
          t.sys.boot = s.sys.boot ∧ t.cycle = s.cycle ∧ t.pwr.ticks = s.pwr.ticks ∧ t.gran.mem = s.gran.mem ∧
          t.host = s.host ∧ t.flash = s.flash ∧ t.keys = s.keys ∧ t.telem = s.telem ∧ t.link.node = s.link.node ∧
          t.link.torus = s.link.torus ∧ t.createSeq = s.createSeq ∧
          t.sys.fwver = s.sys.fwver ∧ t.chain.addr = s.chain.addr ∧ t.fab.atLink = s.fab.atLink ∧
          t.numVfs = s.numVfs ∧
          (∀ f : Fin 65, (t.func f).enable = (s.func f).enable ∧ (t.func f).cbase = (s.func f).cbase ∧ (t.func f).csize = (s.func f).csize ∧
            (t.func f).rbase = (s.func f).rbase ∧ (t.func f).rsize = (s.func f).rsize ∧ (t.func f).head = (s.func f).head ∧
            (t.func f).tail = (s.func f).tail ∧ (t.func f).rhead = (s.func f).rhead ∧ (t.func f).rtail = (s.func f).rtail ∧
            (t.func f).eenable = (s.func f).eenable ∧ (t.func f).etail = (s.func f).etail) ∧
          (∀ st : Fin 64, (t.stl st).pad.scrubRow = (s.stl st).pad.scrubRow ∧ (t.stl st).pad.passes = (s.stl st).pad.passes) ∧
          (∀ p : Fin 64, (t.part p).cnt = (s.part p).cnt ∧ (t.part p).margin = (s.part p).margin) ∧
          ∀ p ∈ s.existing, (t.part p).close = s.ledgerRecord p kindClose 0 0 ∧
            .record (BitVec.ofNat 6 p.val) (s.ledgerRecord p kindClose 0 0) ∈ t.pwr.journal))) ∧
    (∀ src : BitVec 4, s.sys.request = some (2, src) → s.pwr.flush = none →
      (src = 5 ∨ s.pwr.journal.any JournalItem.isRecord = false) → Completes .coldReset s fun t =>
        t.sys.cause = (2, src) ∧ t.sys.stage = 1 ∧ t.sys.request = none ∧ t.sys.boot = s.sys.boot + 1 ∧
        t.stalls = Vector.replicate 64 .reset ∧ t.funcs = Vector.replicate 65 .reset ∧ t.link.node = none ∧
        t.gran.mem = s.gran.mem ∧ t.host = s.host ∧ t.flash = s.flash ∧ t.journal = s.journal ∧
        t.pwr.ticks = s.pwr.ticks ∧ t.pwr.lossTick = s.pwr.lossTick ∧ t.pwr.journal = s.pwr.journal ∧ t.cycle = s.cycle ∧
        ∀ p : Fin 64, t.part p = { Part.reset with close := (s.part p).close }) ∧
    (s.pwr.mstate = 3 → Completes .powerOnReset s fun t =>
      t.pwr.ticks = 0 ∧ t.pwr.mstate = 2 ∧ t.sys.stage = 1 ∧ t.sys.boot = s.sys.boot + 1 ∧ t.gran.mem = [] ∧
      t.stalls = Vector.replicate 64 .reset ∧ t.host = s.host ∧ t.flash = s.flash ∧ t.journal = s.journal ∧
      ∀ p : Fin 64, t.part p = { Part.reset with close := (s.part p).close }) ∧
    (s.pwr.mstate ≠ 3 → exec .powerOnReset s = .next s) ∧
    (Completes .pcieReset s fun t => t.chain.perstN = false ∧ t.numVfs = 0 ∧ t.stalls = s.stalls ∧
      (∀ f : Fin 65, (t.func f).enable = false ∧ (t.func f).rtail = 0) ∧
      (s.existing ≠ [] → t.chain.attn &&& 0x20 = 0x20) ∧
      ∀ (p : Fin 64) (c : Serving), (s.part p).ctx = some c → c.state = 1 →
        ∃ d : Serving, (t.part p).ctx = some d ∧ d.state = 2 ∧ d.status = 0x06) ∧
    (∀ n : Option (BitVec 7),
      ((s.sys.stage.toNat < 4 ∨ s.sys.stage = 15 ∨ 2 ≤ s.pwr.mstate.toNat) → Completes (.pcieConfigAccess n) s fun t =>
        .config false ∈ t.out ∧ t.numVfs = s.numVfs) ∧
      (4 ≤ s.sys.stage.toNat → s.sys.stage ≠ 15 → s.pwr.mstate.toNat < 2 → Completes (.pcieConfigAccess n) s fun t =>
        .config true ∈ t.out ∧ t.chain.perstN = true ∧ t.numVfs = pcieVfs s n)) ∧
    (∀ r : BootReport, s.pwr.mstate ≠ 3 → s.pwr.flush = none →
      (s.sys.stage = 1 → Completes (.bootStageDone r) s fun t => t.sys.stage = 2 ∧ t.pwr = s.pwr) ∧
      (s.sys.stage = 2 → r.railFault = false → Completes (.bootStageDone r) s fun t => t.sys.stage = 3 ∧ t.pwr.mstate = 1) ∧
      (s.sys.stage = 2 → r.railFault = true → Completes (.bootStageDone r) s fun t => t.sys.stage = 15 ∧ t.sys.fail = 2 ∧
        t.chain.attn &&& 1 = 1) ∧
      (s.sys.stage = 3 → s.sys.warmBoot = true → Completes (.bootStageDone r) s fun t =>
        t.sys.stage = 4 ∧ t.sys.bank = s.sys.bank ∧ t.sys.stemAt = s.now) ∧
      (∀ a b : Word, s.sys.stage = 3 → s.sys.warmBoot = false → r.verA = some a → r.verB = some b →
        (b ≤ a → r.fullA = true → Completes (.bootStageDone r) s fun t => t.sys.stage = 4 ∧ t.sys.bank = false) ∧
        (a < b → r.fullB = true → Completes (.bootStageDone r) s fun t => t.sys.stage = 4 ∧ t.sys.bank = true) ∧
        (a < b → r.fullB = false → r.fullA = true → Completes (.bootStageDone r) s fun t =>
          t.sys.stage = 4 ∧ t.sys.bank = false ∧ Reported s t 0x7010 0 0) ∧
        (r.fullA = false → r.fullB = false → Completes (.bootStageDone r) s fun t => t.sys.stage = 15 ∧ t.sys.fail = 1)) ∧
      (s.sys.stage = 4 → Completes (.bootStageDone r) s fun t => t.sys.stage = 5 ∧ t.stalls = s.stalls) ∧
      (s.sys.stage = 5 → s.sys.warmBoot = false → Completes (.bootStageDone r) s fun t => t.sys.stage = 6 ∧
        t.sys.stallOk &&& ~~~r.stallOk = 0 ∧ t.gran.avail = decide (r.channels = 0xFFFFFFFF)) ∧
      (s.sys.stage = 5 → s.sys.warmBoot = true → Completes (.bootStageDone r) s fun t => t.sys.stage = 7 ∧
        t.sys.stallOk = s.sys.stallOk ∧ t.gran = s.gran) ∧
      (s.sys.stage = 6 → Completes (.bootStageDone r) s fun t => t.sys.stage = 7 ∧ t.telem.run = true ∧ t.telem.period = 600 ∧
        t.telem.seq = telemDefault ∧ fld t.sys.fwver 31 24 = 3 ∧
        ∀ f : Fin 65, (t.func f).running = ((s.func f).enable && (s.func f).setupOk)) ∧
      (7 ≤ s.sys.stage.toNat → exec (.bootStageDone r) s = .next s)) ∧
    (∀ k : Fin 4, s.sys.stage = 4 → s.sys.stemUp[k] = false →
      (s.now < s.sys.stemAt + 3000000000 → exec (.stemPortDown k) s = .next s) ∧
      (s.sys.stemAt + 3000000000 ≤ s.now → Completes (.stemPortDown k) s fun t =>
        (∀ st : Fin 64, t.sys.stallOk.getLsbD st.val = (s.sys.stallOk.getLsbD st.val && decide (st.val / 16 ≠ k.val))) ∧
        Reported s t 0x300B (BitVec.ofNat 32 k.val) 0))

/-- Event rings (21 R616 to R622) and the test port (20 R584). The order of the boundary cells is the model's choice (log
15). -/
def Obligations.EventsAndTestPort : Prop :=
  ∀ s : State,
    (∀ (f : Fin 65) (v : Word),
      let x := s.func f
      (bit v 31 = true → x.eenable = false → s.fab.drainTo = none →
        (x.eventOk = true → f.val ≠ 0 → Completes (.eringEnable f v) s fun t => t.host = s.host ∧
          t.func f = { x with eenable := true, etail := 0, ehead := 0, eirq := bit v 30, evec := BitVec.ofNat 5 (fld v 4 0) }) ∧
        (x.eventOk = true → f.val = 0 → s.pcieUp = true → Completes (.eringEnable f v) s fun t =>
          (t.func f).eenable = true ∧ (t.func f).eirq = bit v 30 ∧ t.evBuf = [] ∧ t.evOver = 0 ∧
          (t.func f).eseq = x.eseq + BitVec.ofNat 32 (s.evBuf.length + s.evOver) ∧
          (0 < s.evOver → (t.func f).eloss = true)) ∧
        (x.eventOk = false → Completes (.eringEnable f v) s fun t =>
          (t.func f).eenable = false ∧ (t.func f).error = true ∧ (t.func f).errCode = 5 ∧ t.host = s.host)) ∧
      (∀ t0 : Nat, bit v 31 = true → x.eenable = false → s.fab.drainTo = some t0 → exec (.eringEnable f v) s = .next
        { s with fab := { s.fab with atLink := s.fab.atLink ++ [(f, 0x104C, some v)] } }) ∧
      ((bit v 31 = false ∨ x.eenable = true) → exec (.eringEnable f v) s = .next s)) ∧
    (∀ (f : Fin 65) (e : Event) (l : List Event),
      let x := s.func f
      x.events = e :: l →
      (x.eenable = true → x.eventFull = false → s.pcieUp = true → s.host.wf = true →
        Completes (.eventEntryWrite f false) s fun t =>
          let a := x.ebase.toNat + 32 * x.etail.toNat
          t.host.bytes a 32 = wordsBytes
            [pack [(e.code.toNat, 16), (b2n x.eloss, 15), (b2n e.modul, 14), (e.part.toNat, 0)], x.eseq, loW e.cycle,
              hiW e.cycle, loW e.ticks, hiW e.ticks, e.arg0, e.arg1] ∧
          (∀ b : Nat, (b < a ∨ a + 32 ≤ b) → t.host.rd b = s.host.rd b) ∧
          t.func f = { x with events := l, eseq := x.eseq + 1, eloss := false, etail := ringNext x.etail x.esize.toNat } ∧
          (x.eirq = true → .msix f x.evec ∈ t.out)) ∧
      (x.eventFull = true → ∀ b : Bool, Completes (.eventEntryWrite f b) s fun t => t.host = s.host ∧
        t.func f = { x with events := l, eseq := x.eseq + 1, elost := satAdd x.elost 1, eloss := true }) ∧
      (x.eenable = true → x.eventFull = false → Completes (.eventEntryWrite f true) s fun t => t.host = s.host ∧
        (t.func f).eenable = false ∧ (t.func f).error = true ∧ (t.func f).errCode = 6 ∧ (t.func f).events = l)) ∧
    (∀ (f : Fin 65) (b : Bool), (s.func f).events = [] → exec (.eventEntryWrite f b) s = .next s) ∧
    (∀ b : Bool, Completes (.bypass b) s fun t => .tdo 0 ∈ t.out ∧
      t = { s with out := s.out ++ [.tdo 0],
                   chain := { s.chain with jtag := 0, extest := false, jdr := BitVec.ofNat 32 (b2n b) } }) ∧
    (Completes .idcode s fun t => ∃ w : Word, .tdo w ∈ t.out ∧ bit w 0 = true ∧ fld w 11 1 = 0x5E3 ∧ fld w 27 12 = 0x0A08 ∧
      fld w 31 28 = Config.stepping.toNat ∧ t.chain = { s.chain with jtag := 1, extest := false, jdr := w }) ∧
    (let pins (w : Word) : Prop := bit w 0 = s.chain.perstN ∧ bit w 2 = s.chain.brakeN ∧ bit w 3 = s.chain.modResetN ∧
        bit w 4 = false ∧ (s.driving = true → bit w 1 = false)
     (∀ c : BitVec 6, Completes (.samplePreload c) s fun t => ∃ w : Word, .tdo w ∈ t.out ∧ pins w ∧
        t.chain = { s.chain with jtag := 2, extest := false, jdr := w, cells := c }) ∧
     (s.chain.modResetN = false → Completes .extest s fun t => ∃ w : Word, .tdo w ∈ t.out ∧ pins w ∧
        t.chain = { s.chain with jtag := 3, extest := true, jdr := w }) ∧
     (s.chain.modResetN = true → Completes .extest s fun t => .tdo 0 ∈ t.out ∧
        t.chain = { s.chain with jtag := 0, extest := false, jdr := 0 }))
end

