-- ==== Sys2Proof/Laws/Mem.lean ====
section
/-! SUPPORT. The laws of sparse memories: every operation keeps the canonical form, a read after a write to the same
place gives what was written, and a write leaves every other place alone. -/

namespace Sys2Proof.Machine

theorem rising_bound {α : Type} (b : Nat) (t : Tab α) (h : Tab.rising (some b) t = true) :
    ∀ e ∈ t, b < e.1 := by
  induction t generalizing b with
  | nil => simp
  | cons x l ih =>
    obtain ⟨k, v⟩ := x
    simp only [Tab.rising, Bool.and_eq_true, decide_eq_true_eq] at h
    intro e he
    rcases List.mem_cons.1 he with rfl | he
    · exact h.1
    · exact Nat.lt_trans h.1 (ih k h.2 e he)

theorem rising_mono {α : Type} (a b : Nat) (t : Tab α) (hab : a ≤ b) (h : Tab.rising (some b) t = true) :
    Tab.rising (some a) t = true := by
  cases t with
  | nil => rfl
  | cons x l =>
    simp only [Tab.rising, Bool.and_eq_true, decide_eq_true_eq] at h ⊢
    exact ⟨Nat.lt_of_le_of_lt hab h.1, h.2⟩

theorem rising_none {α : Type} (b : Nat) (t : Tab α) (h : Tab.rising (some b) t = true) :
    Tab.rising none t = true := by
  cases t with
  | nil => rfl
  | cons x l => simp only [Tab.rising, Bool.and_eq_true, Bool.true_and] at h ⊢; exact h.2

/-- A table without some of its entries still rises. -/
theorem rising_filter {α : Type} (p : Nat × α → Bool) (lo : Option Nat) (t : Tab α) (h : Tab.rising lo t = true) :
    Tab.rising lo (t.filter p) = true := by
  induction t generalizing lo with
  | nil => cases lo <;> rfl
  | cons x l ih =>
    obtain ⟨k, v⟩ := x
    have hk : Tab.rising (some k) l = true := by
      cases lo <;> simp only [Tab.rising, Bool.and_eq_true, Bool.true_and] at h <;> first | exact h.2 | exact h
    by_cases hp : p (k, v) = true
    · rw [List.filter_cons_of_pos hp]
      cases lo with
      | none => simpa [Tab.rising] using ih (some k) hk
      | some b =>
        simp only [Tab.rising, Bool.and_eq_true] at h ⊢
        exact ⟨h.1, ih (some k) hk⟩
    · rw [List.filter_cons_of_neg hp]
      cases lo with
      | none => exact rising_none k _ (ih (some k) hk)
      | some b =>
        simp only [Tab.rising, Bool.and_eq_true, decide_eq_true_eq] at h
        exact rising_mono b k _ (Nat.le_of_lt h.1) (ih (some k) hk)

theorem rising_set {α : Type} (lo : Option Nat) (t : Tab α) (a : Nat) (v : α)
    (hlo : ∀ b, lo = some b → b < a) (h : Tab.rising lo t = true) : Tab.rising lo (t.set a v) = true := by
  induction t generalizing lo with
  | nil =>
    cases lo with
    | none => rfl
    | some b => simpa [Tab.set, Tab.rising] using hlo b rfl
  | cons x l ih =>
    obtain ⟨k, w⟩ := x
    have hk : Tab.rising (some k) l = true := by
      cases lo <;> simp only [Tab.rising, Bool.and_eq_true, Bool.true_and] at h <;> first | exact h.2 | exact h
    simp only [Tab.set]
    split
    · next ha =>
      cases lo with
      | none => simp [Tab.rising, hk, ha]
      | some b => simp [Tab.rising, hk, ha, hlo b rfl]
    · next ha =>
      split
      · next hka =>
        cases lo with
        | none => simpa [Tab.rising, ← hka] using hk
        | some b => simpa [Tab.rising, ← hka] using ⟨by have := hlo b rfl; omega, hk⟩
      · next hka =>
        have hlt : k < a := by omega
        have := ih (some k) (fun b hb => by cases hb; exact hlt) hk
        cases lo with
        | none => simpa [Tab.rising] using this
        | some b =>
          simp only [Tab.rising, Bool.and_eq_true] at h ⊢
          exact ⟨h.1, this⟩

/-- The canonical form as two facts. -/
theorem wf_iff (m : Mem) : m.wf = true ↔ Tab.rising none m = true ∧ ∀ e ∈ m, e.2 ≠ 0 := by
  simp [Mem.wf, List.all_eq_true]

theorem mem_set {α : Type} (t : Tab α) (a : Nat) (v : α) (e : Nat × α) (h : e ∈ t.set a v) : e = (a, v) ∨ e ∈ t := by
  induction t with
  | nil => simpa [Tab.set] using h
  | cons x l ih =>
    obtain ⟨k, w⟩ := x
    simp only [Tab.set] at h
    split at h
    · rcases List.mem_cons.1 h with h | h
      · exact .inl h
      · exact .inr h
    · split at h
      · rcases List.mem_cons.1 h with h | h
        · exact .inl h
        · exact .inr (List.mem_cons_of_mem _ h)
      · rcases List.mem_cons.1 h with h | h
        · exact .inr (h ▸ List.mem_cons_self)
        · rcases ih h with h | h
          · exact .inl h
          · exact .inr (List.mem_cons_of_mem _ h)

theorem nil_wf : Mem.wf [] = true := rfl

/-- Part of a canonical memory is canonical. -/
theorem filter_wf (m : Mem) (p : Host.Cell → Bool) (h : m.wf = true) : Mem.wf (m.filter p) = true := by
  rw [wf_iff] at h ⊢
  exact ⟨rising_filter p none m h.1, fun e he => h.2 e (List.mem_filter.1 he).1⟩

/-- One byte written keeps the canonical form. -/
theorem wr_wf (m : Mem) (a : Nat) (b : Byte) (h : m.wf = true) : (m.wr a b).wf = true := by
  unfold Mem.wr
  split
  · exact filter_wf m _ h
  · next hb =>
    rw [wf_iff] at h ⊢
    refine ⟨rising_set none m a b (by simp) h.1, fun e he => ?_⟩
    rcases mem_set m a b e he with rfl | he
    · exact hb
    · exact h.2 e he

/-- Bytes written in a row keep it. -/
theorem put_wf (l : List Byte) (m : Mem) (a : Nat) (h : m.wf = true) : (m.put a l).wf = true := by
  induction l generalizing m a with
  | nil => exact h
  | cons b l ih => exact ih _ _ (wr_wf m a b h)

theorem putWord_wf (m : Mem) (a : Nat) (w : Word) (h : m.wf = true) : (m.putWord a w).wf = true := put_wf _ m a h

theorem zero_wf (m : Mem) (a n : Nat) (h : m.wf = true) : (m.zero a n).wf = true := filter_wf m _ h

/-- A masked row written keeps it. -/
theorem putRow_wf (m : Mem) (a : Nat) (r : Row) (mask : Word) (h : m.wf = true) : (m.putRow a r mask).wf = true := by
  unfold Mem.putRow
  have : ∀ (l : List (Fin 32)) (m : Mem), m.wf = true → (l.foldl
      (fun m i => if mask.getLsbD i.val then m.putWord (a + 4 * i.val) r[i] else m) m).wf = true := by
    intro l
    induction l with
    | nil => exact fun _ h => h
    | cons i l ih =>
      intro m h
      rw [List.foldl_cons]
      apply ih
      split
      · exact putWord_wf m _ _ h
      · exact h
  exact this _ m h

/-- A copy into a canonical memory leaves it canonical. -/
theorem copy_wf (dst src : Mem) (a n b : Nat) (h : dst.wf = true) : (dst.copy src a n b).wf = true := by
  unfold Mem.copy
  have : ∀ (l : List Host.Cell) (m : Mem), m.wf = true → (l.foldl (fun m e => m.wr e.1 e.2) m).wf = true := by
    intro l
    induction l with
    | nil => exact fun _ h => h
    | cons e l ih => intro m h; rw [List.foldl_cons]; exact ih _ (wr_wf m _ _ h)
  exact this _ _ (zero_wf dst b n h)

/-! Read after write. -/

theorem get_of_low {α : Type} (t : Tab α) (a b : Nat) (hb : Tab.rising (some b) t = true) (h : a ≤ b) :
    t.get? a = none := by
  cases t with
  | nil => rfl
  | cons x l =>
    simp only [Tab.rising, Bool.and_eq_true, decide_eq_true_eq] at hb
    have : a < x.1 := by omega
    simp [Tab.get?, this]

theorem get_set_self {α : Type} (t : Tab α) (a : Nat) (v : α) : (t.set a v).get? a = some v := by
  induction t with
  | nil => simp [Tab.set, Tab.get?]
  | cons x l ih =>
    obtain ⟨k, w⟩ := x
    simp only [Tab.set]
    split
    · simp [Tab.get?]
    · split
      · simp [Tab.get?]
      · next h1 h2 => simp [Tab.get?, h1, h2, ih]

theorem get_set_ne {α : Type} (t : Tab α) (a b : Nat) (v : α) (hb : b ≠ a) : (t.set a v).get? b = t.get? b := by
  induction t with
  | nil =>
    simp only [Tab.set, Tab.get?]
    split
    · rfl
    · simp [Ne.symm hb]
  | cons x l ih =>
    obtain ⟨k, w⟩ := x
    simp only [Tab.set]
    split
    · next hak =>
      by_cases hba : b < a
      · have : b < k := by omega
        simp [Tab.get?, hba, this]
      · simp [Tab.get?, hba, Ne.symm hb]
    · split
      · next hka => subst hka; simp only [Tab.get?]; split <;> simp [Ne.symm hb]
      · simp only [Tab.get?]
        split
        · rfl
        · split
          · rfl
          · exact ih

theorem get_del_self {α : Type} (t : Tab α) (a : Nat) : (t.del a).get? a = none := by
  unfold Tab.del
  induction t with
  | nil => rfl
  | cons x l ih =>
    obtain ⟨k, w⟩ := x
    by_cases hk : k = a
    · simpa [hk] using ih
    · rw [List.filter_cons_of_pos (by simpa using hk)]
      simp only [Tab.get?]
      split
      · rfl
      · simpa [hk] using ih

theorem get_del_ne {α : Type} (lo : Option Nat) (t : Tab α) (a b : Nat) (hb : b ≠ a) (h : Tab.rising lo t = true) :
    (t.del a).get? b = t.get? b := by
  unfold Tab.del
  induction t generalizing lo with
  | nil => rfl
  | cons x l ih =>
    obtain ⟨k, w⟩ := x
    have hk : Tab.rising (some k) l = true := by
      cases lo <;> simp only [Tab.rising, Bool.and_eq_true, Bool.true_and] at h <;> first | exact h.2 | exact h
    by_cases hka : k = a
    · subst hka
      simp only [Tab.get?, Ne.symm hb, ite_false]
      rw [List.filter_cons_of_neg (by simp)]
      rw [ih (some k) hk]
      split
      · next hlt => exact get_of_low l b k hk (Nat.le_of_lt hlt)
      · rfl
    · rw [List.filter_cons_of_pos (by simpa using hka)]
      simp only [Tab.get?]
      rw [ih (some k) hk]

/-- A byte reads as it was written. -/
@[simp] theorem rd_wr_self (m : Mem) (a : Nat) (b : Byte) : (m.wr a b).rd a = b := by
  unfold Mem.wr Mem.rd Tab.getD
  split
  · next h => rw [get_del_self]; simp [h]
  · rw [get_set_self]; rfl

/-- Every other byte reads as before. -/
theorem rd_wr_ne (m : Mem) (a c : Nat) (b : Byte) (h : m.wf = true) (hc : c ≠ a) : (m.wr a b).rd c = m.rd c := by
  unfold Mem.wr Mem.rd Tab.getD
  split
  · rw [get_del_ne none m a c hc ((wf_iff m).1 h).1]
  · rw [get_set_ne _ _ _ _ hc]

/-- Bytes outside a written run read as before. -/
theorem rd_put_out (l : List Byte) (m : Mem) (a c : Nat) (h : m.wf = true) (hc : c < a ∨ a + l.length ≤ c) :
    (m.put a l).rd c = m.rd c := by
  induction l generalizing m a with
  | nil => rfl
  | cons b l ih =>
    have hl : a + l.length + 1 ≤ c ∨ c < a := by simp only [List.length_cons] at hc; omega
    simp only [Mem.put]
    rw [ih _ _ (wr_wf m a b h) (by omega), rd_wr_ne m a c b h (by omega)]

/-- Byte i of a written run reads as written. -/
theorem rd_put_in (l : List Byte) (m : Mem) (a i : Nat) (h : m.wf = true) (hi : i < l.length) :
    (m.put a l).rd (a + i) = l[i] := by
  induction l generalizing m a i with
  | nil => simp at hi
  | cons b l ih =>
    simp only [Mem.put]
    cases i with
    | zero => rw [Nat.add_zero, rd_put_out l _ _ _ (wr_wf m a b h) (by omega)]; simp
    | succ i =>
      have : a + (i + 1) = a + 1 + i := by omega
      rw [this, ih _ _ _ (wr_wf m a b h) (by simpa using hi)]
      rfl

/-- The bytes of a written run. -/
theorem bytes_put (l : List Byte) (m : Mem) (a : Nat) (h : m.wf = true) : (m.put a l).bytes a l.length = l := by
  have gen : ∀ (n i : Nat), i + n = l.length → Mem.bytes (m.put a l) (a + i) n = l.drop i := by
    intro n
    induction n with
    | zero => intro i hi; simp [Mem.bytes, List.drop_of_length_le (by omega : l.length ≤ i)]
    | succ n ih =>
      intro i hi
      have hlt : i < l.length := by omega
      rw [Mem.bytes, rd_put_in l m a i h hlt, Nat.add_assoc, ih (i + 1) (by omega)]
      exact (List.drop_eq_getElem_cons hlt).symm
  simpa using gen l.length 0 (by omega)

end Sys2Proof.Machine
end

