-- ==== Sys2Proof/Laws/State.lean ====
section
/-! SUPPORT. What every update of State leaves alone, one lemma for each field and update, each true by definition; and
what the accessors read after an update. -/

namespace Sys2Proof.Machine

/-! Stalls: setting or modifying one. -/

@[simp] theorem setStl_pending (s : State) (i : Fin 64) (x : Stall) : (s.setStl i x).pending = s.pending := rfl
@[simp] theorem modStl_pending (s : State) (i : Fin 64) (f : Stall → Stall) : (s.modStl i f).pending = s.pending := rfl
@[simp] theorem setStl_cycle (s : State) (i : Fin 64) (x : Stall) : (s.setStl i x).cycle = s.cycle := rfl
@[simp] theorem modStl_cycle (s : State) (i : Fin 64) (f : Stall → Stall) : (s.modStl i f).cycle = s.cycle := rfl
@[simp] theorem setStl_now (s : State) (i : Fin 64) (x : Stall) : (s.setStl i x).now = s.now := rfl
@[simp] theorem modStl_now (s : State) (i : Fin 64) (f : Stall → Stall) : (s.modStl i f).now = s.now := rfl
@[simp] theorem setStl_frac (s : State) (i : Fin 64) (x : Stall) : (s.setStl i x).frac = s.frac := rfl
@[simp] theorem modStl_frac (s : State) (i : Fin 64) (f : Stall → Stall) : (s.modStl i f).frac = s.frac := rfl
@[simp] theorem setStl_parts (s : State) (i : Fin 64) (x : Stall) : (s.setStl i x).parts = s.parts := rfl
@[simp] theorem modStl_parts (s : State) (i : Fin 64) (f : Stall → Stall) : (s.modStl i f).parts = s.parts := rfl
@[simp] theorem setStl_funcs (s : State) (i : Fin 64) (x : Stall) : (s.setStl i x).funcs = s.funcs := rfl
@[simp] theorem modStl_funcs (s : State) (i : Fin 64) (f : Stall → Stall) : (s.modStl i f).funcs = s.funcs := rfl
@[simp] theorem setStl_sheaves (s : State) (i : Fin 64) (x : Stall) : (s.setStl i x).sheaves = s.sheaves := rfl
@[simp] theorem modStl_sheaves (s : State) (i : Fin 64) (f : Stall → Stall) : (s.modStl i f).sheaves = s.sheaves := rfl
@[simp] theorem setStl_ports (s : State) (i : Fin 64) (x : Stall) : (s.setStl i x).ports = s.ports := rfl
@[simp] theorem modStl_ports (s : State) (i : Fin 64) (f : Stall → Stall) : (s.modStl i f).ports = s.ports := rfl
@[simp] theorem setStl_link (s : State) (i : Fin 64) (x : Stall) : (s.setStl i x).link = s.link := rfl
@[simp] theorem modStl_link (s : State) (i : Fin 64) (f : Stall → Stall) : (s.modStl i f).link = s.link := rfl
@[simp] theorem setStl_ring (s : State) (i : Fin 64) (x : Stall) : (s.setStl i x).ring = s.ring := rfl
@[simp] theorem modStl_ring (s : State) (i : Fin 64) (f : Stall → Stall) : (s.modStl i f).ring = s.ring := rfl
@[simp] theorem setStl_fab (s : State) (i : Fin 64) (x : Stall) : (s.setStl i x).fab = s.fab := rfl
@[simp] theorem modStl_fab (s : State) (i : Fin 64) (f : Stall → Stall) : (s.modStl i f).fab = s.fab := rfl
@[simp] theorem setStl_gran (s : State) (i : Fin 64) (x : Stall) : (s.setStl i x).gran = s.gran := rfl
@[simp] theorem modStl_gran (s : State) (i : Fin 64) (f : Stall → Stall) : (s.modStl i f).gran = s.gran := rfl
@[simp] theorem setStl_pwr (s : State) (i : Fin 64) (x : Stall) : (s.setStl i x).pwr = s.pwr := rfl
@[simp] theorem modStl_pwr (s : State) (i : Fin 64) (f : Stall → Stall) : (s.modStl i f).pwr = s.pwr := rfl
@[simp] theorem setStl_clk (s : State) (i : Fin 64) (x : Stall) : (s.setStl i x).clk = s.clk := rfl
@[simp] theorem modStl_clk (s : State) (i : Fin 64) (f : Stall → Stall) : (s.modStl i f).clk = s.clk := rfl
@[simp] theorem setStl_telem (s : State) (i : Fin 64) (x : Stall) : (s.setStl i x).telem = s.telem := rfl
@[simp] theorem modStl_telem (s : State) (i : Fin 64) (f : Stall → Stall) : (s.modStl i f).telem = s.telem := rfl
@[simp] theorem setStl_sys (s : State) (i : Fin 64) (x : Stall) : (s.setStl i x).sys = s.sys := rfl
@[simp] theorem modStl_sys (s : State) (i : Fin 64) (f : Stall → Stall) : (s.modStl i f).sys = s.sys := rfl
@[simp] theorem setStl_chain (s : State) (i : Fin 64) (x : Stall) : (s.setStl i x).chain = s.chain := rfl
@[simp] theorem modStl_chain (s : State) (i : Fin 64) (f : Stall → Stall) : (s.modStl i f).chain = s.chain := rfl
@[simp] theorem setStl_keys (s : State) (i : Fin 64) (x : Stall) : (s.setStl i x).keys = s.keys := rfl
@[simp] theorem modStl_keys (s : State) (i : Fin 64) (f : Stall → Stall) : (s.modStl i f).keys = s.keys := rfl
@[simp] theorem setStl_flights (s : State) (i : Fin 64) (x : Stall) : (s.setStl i x).flights = s.flights := rfl
@[simp] theorem modStl_flights (s : State) (i : Fin 64) (f : Stall → Stall) : (s.modStl i f).flights = s.flights := rfl
@[simp] theorem setStl_sram (s : State) (i : Fin 64) (x : Stall) : (s.setStl i x).sram = s.sram := rfl
@[simp] theorem modStl_sram (s : State) (i : Fin 64) (f : Stall → Stall) : (s.modStl i f).sram = s.sram := rfl
@[simp] theorem setStl_host (s : State) (i : Fin 64) (x : Stall) : (s.setStl i x).host = s.host := rfl
@[simp] theorem modStl_host (s : State) (i : Fin 64) (f : Stall → Stall) : (s.modStl i f).host = s.host := rfl
@[simp] theorem setStl_flash (s : State) (i : Fin 64) (x : Stall) : (s.setStl i x).flash = s.flash := rfl
@[simp] theorem modStl_flash (s : State) (i : Fin 64) (f : Stall → Stall) : (s.modStl i f).flash = s.flash := rfl
@[simp] theorem setStl_journal (s : State) (i : Fin 64) (x : Stall) : (s.setStl i x).journal = s.journal := rfl
@[simp] theorem modStl_journal (s : State) (i : Fin 64) (f : Stall → Stall) : (s.modStl i f).journal = s.journal := rfl
@[simp] theorem setStl_journalN (s : State) (i : Fin 64) (x : Stall) : (s.setStl i x).journalN = s.journalN := rfl
@[simp] theorem modStl_journalN (s : State) (i : Fin 64) (f : Stall → Stall) : (s.modStl i f).journalN = s.journalN := rfl
@[simp] theorem setStl_dirFlash (s : State) (i : Fin 64) (x : Stall) : (s.setStl i x).dirFlash = s.dirFlash := rfl
@[simp] theorem modStl_dirFlash (s : State) (i : Fin 64) (f : Stall → Stall) : (s.modStl i f).dirFlash = s.dirFlash := rfl
@[simp] theorem setStl_jflags (s : State) (i : Fin 64) (x : Stall) : (s.setStl i x).jflags = s.jflags := rfl
@[simp] theorem modStl_jflags (s : State) (i : Fin 64) (f : Stall → Stall) : (s.modStl i f).jflags = s.jflags := rfl
@[simp] theorem setStl_createSeq (s : State) (i : Fin 64) (x : Stall) : (s.setStl i x).createSeq = s.createSeq := rfl
@[simp] theorem modStl_createSeq (s : State) (i : Fin 64) (f : Stall → Stall) : (s.modStl i f).createSeq = s.createSeq := rfl
@[simp] theorem setStl_latch (s : State) (i : Fin 64) (x : Stall) : (s.setStl i x).latch = s.latch := rfl
@[simp] theorem modStl_latch (s : State) (i : Fin 64) (f : Stall → Stall) : (s.modStl i f).latch = s.latch := rfl
@[simp] theorem setStl_evBuf (s : State) (i : Fin 64) (x : Stall) : (s.setStl i x).evBuf = s.evBuf := rfl
@[simp] theorem modStl_evBuf (s : State) (i : Fin 64) (f : Stall → Stall) : (s.modStl i f).evBuf = s.evBuf := rfl
@[simp] theorem setStl_evOver (s : State) (i : Fin 64) (x : Stall) : (s.setStl i x).evOver = s.evOver := rfl
@[simp] theorem modStl_evOver (s : State) (i : Fin 64) (f : Stall → Stall) : (s.modStl i f).evOver = s.evOver := rfl
@[simp] theorem setStl_lockWas (s : State) (i : Fin 64) (x : Stall) : (s.setStl i x).lockWas = s.lockWas := rfl
@[simp] theorem modStl_lockWas (s : State) (i : Fin 64) (f : Stall → Stall) : (s.modStl i f).lockWas = s.lockWas := rfl
@[simp] theorem setStl_numVfs (s : State) (i : Fin 64) (x : Stall) : (s.setStl i x).numVfs = s.numVfs := rfl
@[simp] theorem modStl_numVfs (s : State) (i : Fin 64) (f : Stall → Stall) : (s.modStl i f).numVfs = s.numVfs := rfl
@[simp] theorem setStl_jobPower (s : State) (i : Fin 64) (x : Stall) : (s.setStl i x).jobPower = s.jobPower := rfl
@[simp] theorem modStl_jobPower (s : State) (i : Fin 64) (f : Stall → Stall) : (s.modStl i f).jobPower = s.jobPower := rfl
@[simp] theorem setStl_jobDiag (s : State) (i : Fin 64) (x : Stall) : (s.setStl i x).jobDiag = s.jobDiag := rfl
@[simp] theorem modStl_jobDiag (s : State) (i : Fin 64) (f : Stall → Stall) : (s.modStl i f).jobDiag = s.jobDiag := rfl
@[simp] theorem setStl_freeCtr (s : State) (i : Fin 64) (x : Stall) : (s.setStl i x).freeCtr = s.freeCtr := rfl
@[simp] theorem modStl_freeCtr (s : State) (i : Fin 64) (f : Stall → Stall) : (s.modStl i f).freeCtr = s.freeCtr := rfl
@[simp] theorem setStl_out (s : State) (i : Fin 64) (x : Stall) : (s.setStl i x).out = s.out := rfl
@[simp] theorem modStl_out (s : State) (i : Fin 64) (f : Stall → Stall) : (s.modStl i f).out = s.out := rfl
@[simp] theorem part_setStl (s : State) (i : Fin 64) (x : Stall) (j : Fin 64) : (s.setStl i x).part j = s.part j := rfl
@[simp] theorem part_modStl (s : State) (i : Fin 64) (f : Stall → Stall) (j : Fin 64) : (s.modStl i f).part j = s.part j := rfl
@[simp] theorem func_setStl (s : State) (i : Fin 64) (x : Stall) (j : Fin 65) : (s.setStl i x).func j = s.func j := rfl
@[simp] theorem func_modStl (s : State) (i : Fin 64) (f : Stall → Stall) (j : Fin 65) : (s.modStl i f).func j = s.func j := rfl
@[simp] theorem sheaf_setStl (s : State) (i : Fin 64) (x : Stall) (j : Fin 20) : (s.setStl i x).sheaf j = s.sheaf j := rfl
@[simp] theorem sheaf_modStl (s : State) (i : Fin 64) (f : Stall → Stall) (j : Fin 20) : (s.modStl i f).sheaf j = s.sheaf j := rfl
@[simp] theorem port_setStl (s : State) (i : Fin 64) (x : Stall) (j : Fin 8) : (s.setStl i x).port j = s.port j := rfl
@[simp] theorem port_modStl (s : State) (i : Fin 64) (f : Stall → Stall) (j : Fin 8) : (s.modStl i f).port j = s.port j := rfl
@[simp] theorem stl_setStl_self (s : State) (i : Fin 64) (x : Stall) : (s.setStl i x).stl i = x := by
  simp [State.stl, State.setStl]
theorem stl_setStl (s : State) (i j : Fin 64) (x : Stall) : (s.setStl i x).stl j = if i = j then x else s.stl j := by
  simp [State.stl, State.setStl, Vector.getElem_set, Fin.ext_iff]
@[simp] theorem stl_setStl_ne (s : State) (i j : Fin 64) (x : Stall) (h : j ≠ i) : (s.setStl i x).stl j = s.stl j := by
  rw [stl_setStl, if_neg (Ne.symm h)]
@[simp] theorem stl_modStl_self (s : State) (i : Fin 64) (f : Stall → Stall) : (s.modStl i f).stl i = f (s.stl i) :=
  stl_setStl_self s i _
theorem stl_modStl (s : State) (i j : Fin 64) (f : Stall → Stall) : (s.modStl i f).stl j = if i = j then f (s.stl i) else s.stl j :=
  stl_setStl s i j _
@[simp] theorem stl_modStl_ne (s : State) (i j : Fin 64) (f : Stall → Stall) (h : j ≠ i) : (s.modStl i f).stl j = s.stl j :=
  stl_setStl_ne s i j _ h

/-! Parts: setting or modifying one. -/

@[simp] theorem setPart_pending (s : State) (i : Fin 64) (x : Part) : (s.setPart i x).pending = s.pending := rfl
@[simp] theorem modPart_pending (s : State) (i : Fin 64) (f : Part → Part) : (s.modPart i f).pending = s.pending := rfl
@[simp] theorem setPart_cycle (s : State) (i : Fin 64) (x : Part) : (s.setPart i x).cycle = s.cycle := rfl
@[simp] theorem modPart_cycle (s : State) (i : Fin 64) (f : Part → Part) : (s.modPart i f).cycle = s.cycle := rfl
@[simp] theorem setPart_now (s : State) (i : Fin 64) (x : Part) : (s.setPart i x).now = s.now := rfl
@[simp] theorem modPart_now (s : State) (i : Fin 64) (f : Part → Part) : (s.modPart i f).now = s.now := rfl
@[simp] theorem setPart_frac (s : State) (i : Fin 64) (x : Part) : (s.setPart i x).frac = s.frac := rfl
@[simp] theorem modPart_frac (s : State) (i : Fin 64) (f : Part → Part) : (s.modPart i f).frac = s.frac := rfl
@[simp] theorem setPart_stalls (s : State) (i : Fin 64) (x : Part) : (s.setPart i x).stalls = s.stalls := rfl
@[simp] theorem modPart_stalls (s : State) (i : Fin 64) (f : Part → Part) : (s.modPart i f).stalls = s.stalls := rfl
@[simp] theorem setPart_funcs (s : State) (i : Fin 64) (x : Part) : (s.setPart i x).funcs = s.funcs := rfl
@[simp] theorem modPart_funcs (s : State) (i : Fin 64) (f : Part → Part) : (s.modPart i f).funcs = s.funcs := rfl
@[simp] theorem setPart_sheaves (s : State) (i : Fin 64) (x : Part) : (s.setPart i x).sheaves = s.sheaves := rfl
@[simp] theorem modPart_sheaves (s : State) (i : Fin 64) (f : Part → Part) : (s.modPart i f).sheaves = s.sheaves := rfl
@[simp] theorem setPart_ports (s : State) (i : Fin 64) (x : Part) : (s.setPart i x).ports = s.ports := rfl
@[simp] theorem modPart_ports (s : State) (i : Fin 64) (f : Part → Part) : (s.modPart i f).ports = s.ports := rfl
@[simp] theorem setPart_link (s : State) (i : Fin 64) (x : Part) : (s.setPart i x).link = s.link := rfl
@[simp] theorem modPart_link (s : State) (i : Fin 64) (f : Part → Part) : (s.modPart i f).link = s.link := rfl
@[simp] theorem setPart_ring (s : State) (i : Fin 64) (x : Part) : (s.setPart i x).ring = s.ring := rfl
@[simp] theorem modPart_ring (s : State) (i : Fin 64) (f : Part → Part) : (s.modPart i f).ring = s.ring := rfl
@[simp] theorem setPart_fab (s : State) (i : Fin 64) (x : Part) : (s.setPart i x).fab = s.fab := rfl
@[simp] theorem modPart_fab (s : State) (i : Fin 64) (f : Part → Part) : (s.modPart i f).fab = s.fab := rfl
@[simp] theorem setPart_gran (s : State) (i : Fin 64) (x : Part) : (s.setPart i x).gran = s.gran := rfl
@[simp] theorem modPart_gran (s : State) (i : Fin 64) (f : Part → Part) : (s.modPart i f).gran = s.gran := rfl
@[simp] theorem setPart_pwr (s : State) (i : Fin 64) (x : Part) : (s.setPart i x).pwr = s.pwr := rfl
@[simp] theorem modPart_pwr (s : State) (i : Fin 64) (f : Part → Part) : (s.modPart i f).pwr = s.pwr := rfl
@[simp] theorem setPart_clk (s : State) (i : Fin 64) (x : Part) : (s.setPart i x).clk = s.clk := rfl
@[simp] theorem modPart_clk (s : State) (i : Fin 64) (f : Part → Part) : (s.modPart i f).clk = s.clk := rfl
@[simp] theorem setPart_telem (s : State) (i : Fin 64) (x : Part) : (s.setPart i x).telem = s.telem := rfl
@[simp] theorem modPart_telem (s : State) (i : Fin 64) (f : Part → Part) : (s.modPart i f).telem = s.telem := rfl
@[simp] theorem setPart_sys (s : State) (i : Fin 64) (x : Part) : (s.setPart i x).sys = s.sys := rfl
@[simp] theorem modPart_sys (s : State) (i : Fin 64) (f : Part → Part) : (s.modPart i f).sys = s.sys := rfl
@[simp] theorem setPart_chain (s : State) (i : Fin 64) (x : Part) : (s.setPart i x).chain = s.chain := rfl
@[simp] theorem modPart_chain (s : State) (i : Fin 64) (f : Part → Part) : (s.modPart i f).chain = s.chain := rfl
@[simp] theorem setPart_keys (s : State) (i : Fin 64) (x : Part) : (s.setPart i x).keys = s.keys := rfl
@[simp] theorem modPart_keys (s : State) (i : Fin 64) (f : Part → Part) : (s.modPart i f).keys = s.keys := rfl
@[simp] theorem setPart_flights (s : State) (i : Fin 64) (x : Part) : (s.setPart i x).flights = s.flights := rfl
@[simp] theorem modPart_flights (s : State) (i : Fin 64) (f : Part → Part) : (s.modPart i f).flights = s.flights := rfl
@[simp] theorem setPart_sram (s : State) (i : Fin 64) (x : Part) : (s.setPart i x).sram = s.sram := rfl
@[simp] theorem modPart_sram (s : State) (i : Fin 64) (f : Part → Part) : (s.modPart i f).sram = s.sram := rfl
@[simp] theorem setPart_host (s : State) (i : Fin 64) (x : Part) : (s.setPart i x).host = s.host := rfl
@[simp] theorem modPart_host (s : State) (i : Fin 64) (f : Part → Part) : (s.modPart i f).host = s.host := rfl
@[simp] theorem setPart_flash (s : State) (i : Fin 64) (x : Part) : (s.setPart i x).flash = s.flash := rfl
@[simp] theorem modPart_flash (s : State) (i : Fin 64) (f : Part → Part) : (s.modPart i f).flash = s.flash := rfl
@[simp] theorem setPart_journal (s : State) (i : Fin 64) (x : Part) : (s.setPart i x).journal = s.journal := rfl
@[simp] theorem modPart_journal (s : State) (i : Fin 64) (f : Part → Part) : (s.modPart i f).journal = s.journal := rfl
@[simp] theorem setPart_journalN (s : State) (i : Fin 64) (x : Part) : (s.setPart i x).journalN = s.journalN := rfl
@[simp] theorem modPart_journalN (s : State) (i : Fin 64) (f : Part → Part) : (s.modPart i f).journalN = s.journalN := rfl
@[simp] theorem setPart_dirFlash (s : State) (i : Fin 64) (x : Part) : (s.setPart i x).dirFlash = s.dirFlash := rfl
@[simp] theorem modPart_dirFlash (s : State) (i : Fin 64) (f : Part → Part) : (s.modPart i f).dirFlash = s.dirFlash := rfl
@[simp] theorem setPart_jflags (s : State) (i : Fin 64) (x : Part) : (s.setPart i x).jflags = s.jflags := rfl
@[simp] theorem modPart_jflags (s : State) (i : Fin 64) (f : Part → Part) : (s.modPart i f).jflags = s.jflags := rfl
@[simp] theorem setPart_createSeq (s : State) (i : Fin 64) (x : Part) : (s.setPart i x).createSeq = s.createSeq := rfl
@[simp] theorem modPart_createSeq (s : State) (i : Fin 64) (f : Part → Part) : (s.modPart i f).createSeq = s.createSeq := rfl
@[simp] theorem setPart_latch (s : State) (i : Fin 64) (x : Part) : (s.setPart i x).latch = s.latch := rfl
@[simp] theorem modPart_latch (s : State) (i : Fin 64) (f : Part → Part) : (s.modPart i f).latch = s.latch := rfl
@[simp] theorem setPart_evBuf (s : State) (i : Fin 64) (x : Part) : (s.setPart i x).evBuf = s.evBuf := rfl
@[simp] theorem modPart_evBuf (s : State) (i : Fin 64) (f : Part → Part) : (s.modPart i f).evBuf = s.evBuf := rfl
@[simp] theorem setPart_evOver (s : State) (i : Fin 64) (x : Part) : (s.setPart i x).evOver = s.evOver := rfl
@[simp] theorem modPart_evOver (s : State) (i : Fin 64) (f : Part → Part) : (s.modPart i f).evOver = s.evOver := rfl
@[simp] theorem setPart_lockWas (s : State) (i : Fin 64) (x : Part) : (s.setPart i x).lockWas = s.lockWas := rfl
@[simp] theorem modPart_lockWas (s : State) (i : Fin 64) (f : Part → Part) : (s.modPart i f).lockWas = s.lockWas := rfl
@[simp] theorem setPart_numVfs (s : State) (i : Fin 64) (x : Part) : (s.setPart i x).numVfs = s.numVfs := rfl
@[simp] theorem modPart_numVfs (s : State) (i : Fin 64) (f : Part → Part) : (s.modPart i f).numVfs = s.numVfs := rfl
@[simp] theorem setPart_jobPower (s : State) (i : Fin 64) (x : Part) : (s.setPart i x).jobPower = s.jobPower := rfl
@[simp] theorem modPart_jobPower (s : State) (i : Fin 64) (f : Part → Part) : (s.modPart i f).jobPower = s.jobPower := rfl
@[simp] theorem setPart_jobDiag (s : State) (i : Fin 64) (x : Part) : (s.setPart i x).jobDiag = s.jobDiag := rfl
@[simp] theorem modPart_jobDiag (s : State) (i : Fin 64) (f : Part → Part) : (s.modPart i f).jobDiag = s.jobDiag := rfl
@[simp] theorem setPart_freeCtr (s : State) (i : Fin 64) (x : Part) : (s.setPart i x).freeCtr = s.freeCtr := rfl
@[simp] theorem modPart_freeCtr (s : State) (i : Fin 64) (f : Part → Part) : (s.modPart i f).freeCtr = s.freeCtr := rfl
@[simp] theorem setPart_out (s : State) (i : Fin 64) (x : Part) : (s.setPart i x).out = s.out := rfl
@[simp] theorem modPart_out (s : State) (i : Fin 64) (f : Part → Part) : (s.modPart i f).out = s.out := rfl
@[simp] theorem stl_setPart (s : State) (i : Fin 64) (x : Part) (j : Fin 64) : (s.setPart i x).stl j = s.stl j := rfl
@[simp] theorem stl_modPart (s : State) (i : Fin 64) (f : Part → Part) (j : Fin 64) : (s.modPart i f).stl j = s.stl j := rfl
@[simp] theorem func_setPart (s : State) (i : Fin 64) (x : Part) (j : Fin 65) : (s.setPart i x).func j = s.func j := rfl
@[simp] theorem func_modPart (s : State) (i : Fin 64) (f : Part → Part) (j : Fin 65) : (s.modPart i f).func j = s.func j := rfl
@[simp] theorem sheaf_setPart (s : State) (i : Fin 64) (x : Part) (j : Fin 20) : (s.setPart i x).sheaf j = s.sheaf j := rfl
@[simp] theorem sheaf_modPart (s : State) (i : Fin 64) (f : Part → Part) (j : Fin 20) : (s.modPart i f).sheaf j = s.sheaf j := rfl
@[simp] theorem port_setPart (s : State) (i : Fin 64) (x : Part) (j : Fin 8) : (s.setPart i x).port j = s.port j := rfl
@[simp] theorem port_modPart (s : State) (i : Fin 64) (f : Part → Part) (j : Fin 8) : (s.modPart i f).port j = s.port j := rfl
@[simp] theorem part_setPart_self (s : State) (i : Fin 64) (x : Part) : (s.setPart i x).part i = x := by
  simp [State.part, State.setPart]
theorem part_setPart (s : State) (i j : Fin 64) (x : Part) : (s.setPart i x).part j = if i = j then x else s.part j := by
  simp [State.part, State.setPart, Vector.getElem_set, Fin.ext_iff]
@[simp] theorem part_setPart_ne (s : State) (i j : Fin 64) (x : Part) (h : j ≠ i) : (s.setPart i x).part j = s.part j := by
  rw [part_setPart, if_neg (Ne.symm h)]
@[simp] theorem part_modPart_self (s : State) (i : Fin 64) (f : Part → Part) : (s.modPart i f).part i = f (s.part i) :=
  part_setPart_self s i _
theorem part_modPart (s : State) (i j : Fin 64) (f : Part → Part) : (s.modPart i f).part j = if i = j then f (s.part i) else s.part j :=
  part_setPart s i j _
@[simp] theorem part_modPart_ne (s : State) (i j : Fin 64) (f : Part → Part) (h : j ≠ i) : (s.modPart i f).part j = s.part j :=
  part_setPart_ne s i j _ h

/-! Funcs: setting or modifying one. -/

@[simp] theorem setFunc_pending (s : State) (i : Fin 65) (x : Func) : (s.setFunc i x).pending = s.pending := rfl
@[simp] theorem modFunc_pending (s : State) (i : Fin 65) (f : Func → Func) : (s.modFunc i f).pending = s.pending := rfl
@[simp] theorem setFunc_cycle (s : State) (i : Fin 65) (x : Func) : (s.setFunc i x).cycle = s.cycle := rfl
@[simp] theorem modFunc_cycle (s : State) (i : Fin 65) (f : Func → Func) : (s.modFunc i f).cycle = s.cycle := rfl
@[simp] theorem setFunc_now (s : State) (i : Fin 65) (x : Func) : (s.setFunc i x).now = s.now := rfl
@[simp] theorem modFunc_now (s : State) (i : Fin 65) (f : Func → Func) : (s.modFunc i f).now = s.now := rfl
@[simp] theorem setFunc_frac (s : State) (i : Fin 65) (x : Func) : (s.setFunc i x).frac = s.frac := rfl
@[simp] theorem modFunc_frac (s : State) (i : Fin 65) (f : Func → Func) : (s.modFunc i f).frac = s.frac := rfl
@[simp] theorem setFunc_stalls (s : State) (i : Fin 65) (x : Func) : (s.setFunc i x).stalls = s.stalls := rfl
@[simp] theorem modFunc_stalls (s : State) (i : Fin 65) (f : Func → Func) : (s.modFunc i f).stalls = s.stalls := rfl
@[simp] theorem setFunc_parts (s : State) (i : Fin 65) (x : Func) : (s.setFunc i x).parts = s.parts := rfl
@[simp] theorem modFunc_parts (s : State) (i : Fin 65) (f : Func → Func) : (s.modFunc i f).parts = s.parts := rfl
@[simp] theorem setFunc_sheaves (s : State) (i : Fin 65) (x : Func) : (s.setFunc i x).sheaves = s.sheaves := rfl
@[simp] theorem modFunc_sheaves (s : State) (i : Fin 65) (f : Func → Func) : (s.modFunc i f).sheaves = s.sheaves := rfl
@[simp] theorem setFunc_ports (s : State) (i : Fin 65) (x : Func) : (s.setFunc i x).ports = s.ports := rfl
@[simp] theorem modFunc_ports (s : State) (i : Fin 65) (f : Func → Func) : (s.modFunc i f).ports = s.ports := rfl
@[simp] theorem setFunc_link (s : State) (i : Fin 65) (x : Func) : (s.setFunc i x).link = s.link := rfl
@[simp] theorem modFunc_link (s : State) (i : Fin 65) (f : Func → Func) : (s.modFunc i f).link = s.link := rfl
@[simp] theorem setFunc_ring (s : State) (i : Fin 65) (x : Func) : (s.setFunc i x).ring = s.ring := rfl
@[simp] theorem modFunc_ring (s : State) (i : Fin 65) (f : Func → Func) : (s.modFunc i f).ring = s.ring := rfl
@[simp] theorem setFunc_fab (s : State) (i : Fin 65) (x : Func) : (s.setFunc i x).fab = s.fab := rfl
@[simp] theorem modFunc_fab (s : State) (i : Fin 65) (f : Func → Func) : (s.modFunc i f).fab = s.fab := rfl
@[simp] theorem setFunc_gran (s : State) (i : Fin 65) (x : Func) : (s.setFunc i x).gran = s.gran := rfl
@[simp] theorem modFunc_gran (s : State) (i : Fin 65) (f : Func → Func) : (s.modFunc i f).gran = s.gran := rfl
@[simp] theorem setFunc_pwr (s : State) (i : Fin 65) (x : Func) : (s.setFunc i x).pwr = s.pwr := rfl
@[simp] theorem modFunc_pwr (s : State) (i : Fin 65) (f : Func → Func) : (s.modFunc i f).pwr = s.pwr := rfl
@[simp] theorem setFunc_clk (s : State) (i : Fin 65) (x : Func) : (s.setFunc i x).clk = s.clk := rfl
@[simp] theorem modFunc_clk (s : State) (i : Fin 65) (f : Func → Func) : (s.modFunc i f).clk = s.clk := rfl
@[simp] theorem setFunc_telem (s : State) (i : Fin 65) (x : Func) : (s.setFunc i x).telem = s.telem := rfl
@[simp] theorem modFunc_telem (s : State) (i : Fin 65) (f : Func → Func) : (s.modFunc i f).telem = s.telem := rfl
@[simp] theorem setFunc_sys (s : State) (i : Fin 65) (x : Func) : (s.setFunc i x).sys = s.sys := rfl
@[simp] theorem modFunc_sys (s : State) (i : Fin 65) (f : Func → Func) : (s.modFunc i f).sys = s.sys := rfl
@[simp] theorem setFunc_chain (s : State) (i : Fin 65) (x : Func) : (s.setFunc i x).chain = s.chain := rfl
@[simp] theorem modFunc_chain (s : State) (i : Fin 65) (f : Func → Func) : (s.modFunc i f).chain = s.chain := rfl
@[simp] theorem setFunc_keys (s : State) (i : Fin 65) (x : Func) : (s.setFunc i x).keys = s.keys := rfl
@[simp] theorem modFunc_keys (s : State) (i : Fin 65) (f : Func → Func) : (s.modFunc i f).keys = s.keys := rfl
@[simp] theorem setFunc_flights (s : State) (i : Fin 65) (x : Func) : (s.setFunc i x).flights = s.flights := rfl
@[simp] theorem modFunc_flights (s : State) (i : Fin 65) (f : Func → Func) : (s.modFunc i f).flights = s.flights := rfl
@[simp] theorem setFunc_sram (s : State) (i : Fin 65) (x : Func) : (s.setFunc i x).sram = s.sram := rfl
@[simp] theorem modFunc_sram (s : State) (i : Fin 65) (f : Func → Func) : (s.modFunc i f).sram = s.sram := rfl
@[simp] theorem setFunc_host (s : State) (i : Fin 65) (x : Func) : (s.setFunc i x).host = s.host := rfl
@[simp] theorem modFunc_host (s : State) (i : Fin 65) (f : Func → Func) : (s.modFunc i f).host = s.host := rfl
@[simp] theorem setFunc_flash (s : State) (i : Fin 65) (x : Func) : (s.setFunc i x).flash = s.flash := rfl
@[simp] theorem modFunc_flash (s : State) (i : Fin 65) (f : Func → Func) : (s.modFunc i f).flash = s.flash := rfl
@[simp] theorem setFunc_journal (s : State) (i : Fin 65) (x : Func) : (s.setFunc i x).journal = s.journal := rfl
@[simp] theorem modFunc_journal (s : State) (i : Fin 65) (f : Func → Func) : (s.modFunc i f).journal = s.journal := rfl
@[simp] theorem setFunc_journalN (s : State) (i : Fin 65) (x : Func) : (s.setFunc i x).journalN = s.journalN := rfl
@[simp] theorem modFunc_journalN (s : State) (i : Fin 65) (f : Func → Func) : (s.modFunc i f).journalN = s.journalN := rfl
@[simp] theorem setFunc_dirFlash (s : State) (i : Fin 65) (x : Func) : (s.setFunc i x).dirFlash = s.dirFlash := rfl
@[simp] theorem modFunc_dirFlash (s : State) (i : Fin 65) (f : Func → Func) : (s.modFunc i f).dirFlash = s.dirFlash := rfl
@[simp] theorem setFunc_jflags (s : State) (i : Fin 65) (x : Func) : (s.setFunc i x).jflags = s.jflags := rfl
@[simp] theorem modFunc_jflags (s : State) (i : Fin 65) (f : Func → Func) : (s.modFunc i f).jflags = s.jflags := rfl
@[simp] theorem setFunc_createSeq (s : State) (i : Fin 65) (x : Func) : (s.setFunc i x).createSeq = s.createSeq := rfl
@[simp] theorem modFunc_createSeq (s : State) (i : Fin 65) (f : Func → Func) : (s.modFunc i f).createSeq = s.createSeq := rfl
@[simp] theorem setFunc_latch (s : State) (i : Fin 65) (x : Func) : (s.setFunc i x).latch = s.latch := rfl
@[simp] theorem modFunc_latch (s : State) (i : Fin 65) (f : Func → Func) : (s.modFunc i f).latch = s.latch := rfl
@[simp] theorem setFunc_evBuf (s : State) (i : Fin 65) (x : Func) : (s.setFunc i x).evBuf = s.evBuf := rfl
@[simp] theorem modFunc_evBuf (s : State) (i : Fin 65) (f : Func → Func) : (s.modFunc i f).evBuf = s.evBuf := rfl
@[simp] theorem setFunc_evOver (s : State) (i : Fin 65) (x : Func) : (s.setFunc i x).evOver = s.evOver := rfl
@[simp] theorem modFunc_evOver (s : State) (i : Fin 65) (f : Func → Func) : (s.modFunc i f).evOver = s.evOver := rfl
@[simp] theorem setFunc_lockWas (s : State) (i : Fin 65) (x : Func) : (s.setFunc i x).lockWas = s.lockWas := rfl
@[simp] theorem modFunc_lockWas (s : State) (i : Fin 65) (f : Func → Func) : (s.modFunc i f).lockWas = s.lockWas := rfl
@[simp] theorem setFunc_numVfs (s : State) (i : Fin 65) (x : Func) : (s.setFunc i x).numVfs = s.numVfs := rfl
@[simp] theorem modFunc_numVfs (s : State) (i : Fin 65) (f : Func → Func) : (s.modFunc i f).numVfs = s.numVfs := rfl
@[simp] theorem setFunc_jobPower (s : State) (i : Fin 65) (x : Func) : (s.setFunc i x).jobPower = s.jobPower := rfl
@[simp] theorem modFunc_jobPower (s : State) (i : Fin 65) (f : Func → Func) : (s.modFunc i f).jobPower = s.jobPower := rfl
@[simp] theorem setFunc_jobDiag (s : State) (i : Fin 65) (x : Func) : (s.setFunc i x).jobDiag = s.jobDiag := rfl
@[simp] theorem modFunc_jobDiag (s : State) (i : Fin 65) (f : Func → Func) : (s.modFunc i f).jobDiag = s.jobDiag := rfl
@[simp] theorem setFunc_freeCtr (s : State) (i : Fin 65) (x : Func) : (s.setFunc i x).freeCtr = s.freeCtr := rfl
@[simp] theorem modFunc_freeCtr (s : State) (i : Fin 65) (f : Func → Func) : (s.modFunc i f).freeCtr = s.freeCtr := rfl
@[simp] theorem setFunc_out (s : State) (i : Fin 65) (x : Func) : (s.setFunc i x).out = s.out := rfl
@[simp] theorem modFunc_out (s : State) (i : Fin 65) (f : Func → Func) : (s.modFunc i f).out = s.out := rfl
@[simp] theorem stl_setFunc (s : State) (i : Fin 65) (x : Func) (j : Fin 64) : (s.setFunc i x).stl j = s.stl j := rfl
@[simp] theorem stl_modFunc (s : State) (i : Fin 65) (f : Func → Func) (j : Fin 64) : (s.modFunc i f).stl j = s.stl j := rfl
@[simp] theorem part_setFunc (s : State) (i : Fin 65) (x : Func) (j : Fin 64) : (s.setFunc i x).part j = s.part j := rfl
@[simp] theorem part_modFunc (s : State) (i : Fin 65) (f : Func → Func) (j : Fin 64) : (s.modFunc i f).part j = s.part j := rfl
@[simp] theorem sheaf_setFunc (s : State) (i : Fin 65) (x : Func) (j : Fin 20) : (s.setFunc i x).sheaf j = s.sheaf j := rfl
@[simp] theorem sheaf_modFunc (s : State) (i : Fin 65) (f : Func → Func) (j : Fin 20) : (s.modFunc i f).sheaf j = s.sheaf j := rfl
@[simp] theorem port_setFunc (s : State) (i : Fin 65) (x : Func) (j : Fin 8) : (s.setFunc i x).port j = s.port j := rfl
@[simp] theorem port_modFunc (s : State) (i : Fin 65) (f : Func → Func) (j : Fin 8) : (s.modFunc i f).port j = s.port j := rfl
@[simp] theorem func_setFunc_self (s : State) (i : Fin 65) (x : Func) : (s.setFunc i x).func i = x := by
  simp [State.func, State.setFunc]
theorem func_setFunc (s : State) (i j : Fin 65) (x : Func) : (s.setFunc i x).func j = if i = j then x else s.func j := by
  simp [State.func, State.setFunc, Vector.getElem_set, Fin.ext_iff]
@[simp] theorem func_setFunc_ne (s : State) (i j : Fin 65) (x : Func) (h : j ≠ i) : (s.setFunc i x).func j = s.func j := by
  rw [func_setFunc, if_neg (Ne.symm h)]
@[simp] theorem func_modFunc_self (s : State) (i : Fin 65) (f : Func → Func) : (s.modFunc i f).func i = f (s.func i) :=
  func_setFunc_self s i _
theorem func_modFunc (s : State) (i j : Fin 65) (f : Func → Func) : (s.modFunc i f).func j = if i = j then f (s.func i) else s.func j :=
  func_setFunc s i j _
@[simp] theorem func_modFunc_ne (s : State) (i j : Fin 65) (f : Func → Func) (h : j ≠ i) : (s.modFunc i f).func j = s.func j :=
  func_setFunc_ne s i j _ h

/-! Sheafs: setting or modifying one. -/

@[simp] theorem setSheaf_pending (s : State) (i : Fin 20) (x : Sheaf) : (s.setSheaf i x).pending = s.pending := rfl
@[simp] theorem modSheaf_pending (s : State) (i : Fin 20) (f : Sheaf → Sheaf) : (s.modSheaf i f).pending = s.pending := rfl
@[simp] theorem setSheaf_cycle (s : State) (i : Fin 20) (x : Sheaf) : (s.setSheaf i x).cycle = s.cycle := rfl
@[simp] theorem modSheaf_cycle (s : State) (i : Fin 20) (f : Sheaf → Sheaf) : (s.modSheaf i f).cycle = s.cycle := rfl
@[simp] theorem setSheaf_now (s : State) (i : Fin 20) (x : Sheaf) : (s.setSheaf i x).now = s.now := rfl
@[simp] theorem modSheaf_now (s : State) (i : Fin 20) (f : Sheaf → Sheaf) : (s.modSheaf i f).now = s.now := rfl
@[simp] theorem setSheaf_frac (s : State) (i : Fin 20) (x : Sheaf) : (s.setSheaf i x).frac = s.frac := rfl
@[simp] theorem modSheaf_frac (s : State) (i : Fin 20) (f : Sheaf → Sheaf) : (s.modSheaf i f).frac = s.frac := rfl
@[simp] theorem setSheaf_stalls (s : State) (i : Fin 20) (x : Sheaf) : (s.setSheaf i x).stalls = s.stalls := rfl
@[simp] theorem modSheaf_stalls (s : State) (i : Fin 20) (f : Sheaf → Sheaf) : (s.modSheaf i f).stalls = s.stalls := rfl
@[simp] theorem setSheaf_parts (s : State) (i : Fin 20) (x : Sheaf) : (s.setSheaf i x).parts = s.parts := rfl
@[simp] theorem modSheaf_parts (s : State) (i : Fin 20) (f : Sheaf → Sheaf) : (s.modSheaf i f).parts = s.parts := rfl
@[simp] theorem setSheaf_funcs (s : State) (i : Fin 20) (x : Sheaf) : (s.setSheaf i x).funcs = s.funcs := rfl
@[simp] theorem modSheaf_funcs (s : State) (i : Fin 20) (f : Sheaf → Sheaf) : (s.modSheaf i f).funcs = s.funcs := rfl
@[simp] theorem setSheaf_ports (s : State) (i : Fin 20) (x : Sheaf) : (s.setSheaf i x).ports = s.ports := rfl
@[simp] theorem modSheaf_ports (s : State) (i : Fin 20) (f : Sheaf → Sheaf) : (s.modSheaf i f).ports = s.ports := rfl
@[simp] theorem setSheaf_link (s : State) (i : Fin 20) (x : Sheaf) : (s.setSheaf i x).link = s.link := rfl
@[simp] theorem modSheaf_link (s : State) (i : Fin 20) (f : Sheaf → Sheaf) : (s.modSheaf i f).link = s.link := rfl
@[simp] theorem setSheaf_ring (s : State) (i : Fin 20) (x : Sheaf) : (s.setSheaf i x).ring = s.ring := rfl
@[simp] theorem modSheaf_ring (s : State) (i : Fin 20) (f : Sheaf → Sheaf) : (s.modSheaf i f).ring = s.ring := rfl
@[simp] theorem setSheaf_fab (s : State) (i : Fin 20) (x : Sheaf) : (s.setSheaf i x).fab = s.fab := rfl
@[simp] theorem modSheaf_fab (s : State) (i : Fin 20) (f : Sheaf → Sheaf) : (s.modSheaf i f).fab = s.fab := rfl
@[simp] theorem setSheaf_gran (s : State) (i : Fin 20) (x : Sheaf) : (s.setSheaf i x).gran = s.gran := rfl
@[simp] theorem modSheaf_gran (s : State) (i : Fin 20) (f : Sheaf → Sheaf) : (s.modSheaf i f).gran = s.gran := rfl
@[simp] theorem setSheaf_pwr (s : State) (i : Fin 20) (x : Sheaf) : (s.setSheaf i x).pwr = s.pwr := rfl
@[simp] theorem modSheaf_pwr (s : State) (i : Fin 20) (f : Sheaf → Sheaf) : (s.modSheaf i f).pwr = s.pwr := rfl
@[simp] theorem setSheaf_clk (s : State) (i : Fin 20) (x : Sheaf) : (s.setSheaf i x).clk = s.clk := rfl
@[simp] theorem modSheaf_clk (s : State) (i : Fin 20) (f : Sheaf → Sheaf) : (s.modSheaf i f).clk = s.clk := rfl
@[simp] theorem setSheaf_telem (s : State) (i : Fin 20) (x : Sheaf) : (s.setSheaf i x).telem = s.telem := rfl
@[simp] theorem modSheaf_telem (s : State) (i : Fin 20) (f : Sheaf → Sheaf) : (s.modSheaf i f).telem = s.telem := rfl
@[simp] theorem setSheaf_sys (s : State) (i : Fin 20) (x : Sheaf) : (s.setSheaf i x).sys = s.sys := rfl
@[simp] theorem modSheaf_sys (s : State) (i : Fin 20) (f : Sheaf → Sheaf) : (s.modSheaf i f).sys = s.sys := rfl
@[simp] theorem setSheaf_chain (s : State) (i : Fin 20) (x : Sheaf) : (s.setSheaf i x).chain = s.chain := rfl
@[simp] theorem modSheaf_chain (s : State) (i : Fin 20) (f : Sheaf → Sheaf) : (s.modSheaf i f).chain = s.chain := rfl
@[simp] theorem setSheaf_keys (s : State) (i : Fin 20) (x : Sheaf) : (s.setSheaf i x).keys = s.keys := rfl
@[simp] theorem modSheaf_keys (s : State) (i : Fin 20) (f : Sheaf → Sheaf) : (s.modSheaf i f).keys = s.keys := rfl
@[simp] theorem setSheaf_flights (s : State) (i : Fin 20) (x : Sheaf) : (s.setSheaf i x).flights = s.flights := rfl
@[simp] theorem modSheaf_flights (s : State) (i : Fin 20) (f : Sheaf → Sheaf) : (s.modSheaf i f).flights = s.flights := rfl
@[simp] theorem setSheaf_sram (s : State) (i : Fin 20) (x : Sheaf) : (s.setSheaf i x).sram = s.sram := rfl
@[simp] theorem modSheaf_sram (s : State) (i : Fin 20) (f : Sheaf → Sheaf) : (s.modSheaf i f).sram = s.sram := rfl
@[simp] theorem setSheaf_host (s : State) (i : Fin 20) (x : Sheaf) : (s.setSheaf i x).host = s.host := rfl
@[simp] theorem modSheaf_host (s : State) (i : Fin 20) (f : Sheaf → Sheaf) : (s.modSheaf i f).host = s.host := rfl
@[simp] theorem setSheaf_flash (s : State) (i : Fin 20) (x : Sheaf) : (s.setSheaf i x).flash = s.flash := rfl
@[simp] theorem modSheaf_flash (s : State) (i : Fin 20) (f : Sheaf → Sheaf) : (s.modSheaf i f).flash = s.flash := rfl
@[simp] theorem setSheaf_journal (s : State) (i : Fin 20) (x : Sheaf) : (s.setSheaf i x).journal = s.journal := rfl
@[simp] theorem modSheaf_journal (s : State) (i : Fin 20) (f : Sheaf → Sheaf) : (s.modSheaf i f).journal = s.journal := rfl
@[simp] theorem setSheaf_journalN (s : State) (i : Fin 20) (x : Sheaf) : (s.setSheaf i x).journalN = s.journalN := rfl
@[simp] theorem modSheaf_journalN (s : State) (i : Fin 20) (f : Sheaf → Sheaf) : (s.modSheaf i f).journalN = s.journalN := rfl
@[simp] theorem setSheaf_dirFlash (s : State) (i : Fin 20) (x : Sheaf) : (s.setSheaf i x).dirFlash = s.dirFlash := rfl
@[simp] theorem modSheaf_dirFlash (s : State) (i : Fin 20) (f : Sheaf → Sheaf) : (s.modSheaf i f).dirFlash = s.dirFlash := rfl
@[simp] theorem setSheaf_jflags (s : State) (i : Fin 20) (x : Sheaf) : (s.setSheaf i x).jflags = s.jflags := rfl
@[simp] theorem modSheaf_jflags (s : State) (i : Fin 20) (f : Sheaf → Sheaf) : (s.modSheaf i f).jflags = s.jflags := rfl
@[simp] theorem setSheaf_createSeq (s : State) (i : Fin 20) (x : Sheaf) : (s.setSheaf i x).createSeq = s.createSeq := rfl
@[simp] theorem modSheaf_createSeq (s : State) (i : Fin 20) (f : Sheaf → Sheaf) : (s.modSheaf i f).createSeq = s.createSeq := rfl
@[simp] theorem setSheaf_latch (s : State) (i : Fin 20) (x : Sheaf) : (s.setSheaf i x).latch = s.latch := rfl
@[simp] theorem modSheaf_latch (s : State) (i : Fin 20) (f : Sheaf → Sheaf) : (s.modSheaf i f).latch = s.latch := rfl
@[simp] theorem setSheaf_evBuf (s : State) (i : Fin 20) (x : Sheaf) : (s.setSheaf i x).evBuf = s.evBuf := rfl
@[simp] theorem modSheaf_evBuf (s : State) (i : Fin 20) (f : Sheaf → Sheaf) : (s.modSheaf i f).evBuf = s.evBuf := rfl
@[simp] theorem setSheaf_evOver (s : State) (i : Fin 20) (x : Sheaf) : (s.setSheaf i x).evOver = s.evOver := rfl
@[simp] theorem modSheaf_evOver (s : State) (i : Fin 20) (f : Sheaf → Sheaf) : (s.modSheaf i f).evOver = s.evOver := rfl
@[simp] theorem setSheaf_lockWas (s : State) (i : Fin 20) (x : Sheaf) : (s.setSheaf i x).lockWas = s.lockWas := rfl
@[simp] theorem modSheaf_lockWas (s : State) (i : Fin 20) (f : Sheaf → Sheaf) : (s.modSheaf i f).lockWas = s.lockWas := rfl
@[simp] theorem setSheaf_numVfs (s : State) (i : Fin 20) (x : Sheaf) : (s.setSheaf i x).numVfs = s.numVfs := rfl
@[simp] theorem modSheaf_numVfs (s : State) (i : Fin 20) (f : Sheaf → Sheaf) : (s.modSheaf i f).numVfs = s.numVfs := rfl
@[simp] theorem setSheaf_jobPower (s : State) (i : Fin 20) (x : Sheaf) : (s.setSheaf i x).jobPower = s.jobPower := rfl
@[simp] theorem modSheaf_jobPower (s : State) (i : Fin 20) (f : Sheaf → Sheaf) : (s.modSheaf i f).jobPower = s.jobPower := rfl
@[simp] theorem setSheaf_jobDiag (s : State) (i : Fin 20) (x : Sheaf) : (s.setSheaf i x).jobDiag = s.jobDiag := rfl
@[simp] theorem modSheaf_jobDiag (s : State) (i : Fin 20) (f : Sheaf → Sheaf) : (s.modSheaf i f).jobDiag = s.jobDiag := rfl
@[simp] theorem setSheaf_freeCtr (s : State) (i : Fin 20) (x : Sheaf) : (s.setSheaf i x).freeCtr = s.freeCtr := rfl
@[simp] theorem modSheaf_freeCtr (s : State) (i : Fin 20) (f : Sheaf → Sheaf) : (s.modSheaf i f).freeCtr = s.freeCtr := rfl
@[simp] theorem setSheaf_out (s : State) (i : Fin 20) (x : Sheaf) : (s.setSheaf i x).out = s.out := rfl
@[simp] theorem modSheaf_out (s : State) (i : Fin 20) (f : Sheaf → Sheaf) : (s.modSheaf i f).out = s.out := rfl
@[simp] theorem stl_setSheaf (s : State) (i : Fin 20) (x : Sheaf) (j : Fin 64) : (s.setSheaf i x).stl j = s.stl j := rfl
@[simp] theorem stl_modSheaf (s : State) (i : Fin 20) (f : Sheaf → Sheaf) (j : Fin 64) : (s.modSheaf i f).stl j = s.stl j := rfl
@[simp] theorem part_setSheaf (s : State) (i : Fin 20) (x : Sheaf) (j : Fin 64) : (s.setSheaf i x).part j = s.part j := rfl
@[simp] theorem part_modSheaf (s : State) (i : Fin 20) (f : Sheaf → Sheaf) (j : Fin 64) : (s.modSheaf i f).part j = s.part j := rfl
@[simp] theorem func_setSheaf (s : State) (i : Fin 20) (x : Sheaf) (j : Fin 65) : (s.setSheaf i x).func j = s.func j := rfl
@[simp] theorem func_modSheaf (s : State) (i : Fin 20) (f : Sheaf → Sheaf) (j : Fin 65) : (s.modSheaf i f).func j = s.func j := rfl
@[simp] theorem port_setSheaf (s : State) (i : Fin 20) (x : Sheaf) (j : Fin 8) : (s.setSheaf i x).port j = s.port j := rfl
@[simp] theorem port_modSheaf (s : State) (i : Fin 20) (f : Sheaf → Sheaf) (j : Fin 8) : (s.modSheaf i f).port j = s.port j := rfl
@[simp] theorem sheaf_setSheaf_self (s : State) (i : Fin 20) (x : Sheaf) : (s.setSheaf i x).sheaf i = x := by
  simp [State.sheaf, State.setSheaf]
theorem sheaf_setSheaf (s : State) (i j : Fin 20) (x : Sheaf) : (s.setSheaf i x).sheaf j = if i = j then x else s.sheaf j := by
  simp [State.sheaf, State.setSheaf, Vector.getElem_set, Fin.ext_iff]
@[simp] theorem sheaf_setSheaf_ne (s : State) (i j : Fin 20) (x : Sheaf) (h : j ≠ i) : (s.setSheaf i x).sheaf j = s.sheaf j := by
  rw [sheaf_setSheaf, if_neg (Ne.symm h)]
@[simp] theorem sheaf_modSheaf_self (s : State) (i : Fin 20) (f : Sheaf → Sheaf) : (s.modSheaf i f).sheaf i = f (s.sheaf i) :=
  sheaf_setSheaf_self s i _
theorem sheaf_modSheaf (s : State) (i j : Fin 20) (f : Sheaf → Sheaf) : (s.modSheaf i f).sheaf j = if i = j then f (s.sheaf i) else s.sheaf j :=
  sheaf_setSheaf s i j _
@[simp] theorem sheaf_modSheaf_ne (s : State) (i j : Fin 20) (f : Sheaf → Sheaf) (h : j ≠ i) : (s.modSheaf i f).sheaf j = s.sheaf j :=
  sheaf_setSheaf_ne s i j _ h

/-! Ports: setting or modifying one. -/

@[simp] theorem setPort_pending (s : State) (i : Fin 8) (x : Port) : (s.setPort i x).pending = s.pending := rfl
@[simp] theorem modPort_pending (s : State) (i : Fin 8) (f : Port → Port) : (s.modPort i f).pending = s.pending := rfl
@[simp] theorem setPort_cycle (s : State) (i : Fin 8) (x : Port) : (s.setPort i x).cycle = s.cycle := rfl
@[simp] theorem modPort_cycle (s : State) (i : Fin 8) (f : Port → Port) : (s.modPort i f).cycle = s.cycle := rfl
@[simp] theorem setPort_now (s : State) (i : Fin 8) (x : Port) : (s.setPort i x).now = s.now := rfl
@[simp] theorem modPort_now (s : State) (i : Fin 8) (f : Port → Port) : (s.modPort i f).now = s.now := rfl
@[simp] theorem setPort_frac (s : State) (i : Fin 8) (x : Port) : (s.setPort i x).frac = s.frac := rfl
@[simp] theorem modPort_frac (s : State) (i : Fin 8) (f : Port → Port) : (s.modPort i f).frac = s.frac := rfl
@[simp] theorem setPort_stalls (s : State) (i : Fin 8) (x : Port) : (s.setPort i x).stalls = s.stalls := rfl
@[simp] theorem modPort_stalls (s : State) (i : Fin 8) (f : Port → Port) : (s.modPort i f).stalls = s.stalls := rfl
@[simp] theorem setPort_parts (s : State) (i : Fin 8) (x : Port) : (s.setPort i x).parts = s.parts := rfl
@[simp] theorem modPort_parts (s : State) (i : Fin 8) (f : Port → Port) : (s.modPort i f).parts = s.parts := rfl
@[simp] theorem setPort_funcs (s : State) (i : Fin 8) (x : Port) : (s.setPort i x).funcs = s.funcs := rfl
@[simp] theorem modPort_funcs (s : State) (i : Fin 8) (f : Port → Port) : (s.modPort i f).funcs = s.funcs := rfl
@[simp] theorem setPort_sheaves (s : State) (i : Fin 8) (x : Port) : (s.setPort i x).sheaves = s.sheaves := rfl
@[simp] theorem modPort_sheaves (s : State) (i : Fin 8) (f : Port → Port) : (s.modPort i f).sheaves = s.sheaves := rfl
@[simp] theorem setPort_link (s : State) (i : Fin 8) (x : Port) : (s.setPort i x).link = s.link := rfl
@[simp] theorem modPort_link (s : State) (i : Fin 8) (f : Port → Port) : (s.modPort i f).link = s.link := rfl
@[simp] theorem setPort_ring (s : State) (i : Fin 8) (x : Port) : (s.setPort i x).ring = s.ring := rfl
@[simp] theorem modPort_ring (s : State) (i : Fin 8) (f : Port → Port) : (s.modPort i f).ring = s.ring := rfl
@[simp] theorem setPort_fab (s : State) (i : Fin 8) (x : Port) : (s.setPort i x).fab = s.fab := rfl
@[simp] theorem modPort_fab (s : State) (i : Fin 8) (f : Port → Port) : (s.modPort i f).fab = s.fab := rfl
@[simp] theorem setPort_gran (s : State) (i : Fin 8) (x : Port) : (s.setPort i x).gran = s.gran := rfl
@[simp] theorem modPort_gran (s : State) (i : Fin 8) (f : Port → Port) : (s.modPort i f).gran = s.gran := rfl
@[simp] theorem setPort_pwr (s : State) (i : Fin 8) (x : Port) : (s.setPort i x).pwr = s.pwr := rfl
@[simp] theorem modPort_pwr (s : State) (i : Fin 8) (f : Port → Port) : (s.modPort i f).pwr = s.pwr := rfl
@[simp] theorem setPort_clk (s : State) (i : Fin 8) (x : Port) : (s.setPort i x).clk = s.clk := rfl
@[simp] theorem modPort_clk (s : State) (i : Fin 8) (f : Port → Port) : (s.modPort i f).clk = s.clk := rfl
@[simp] theorem setPort_telem (s : State) (i : Fin 8) (x : Port) : (s.setPort i x).telem = s.telem := rfl
@[simp] theorem modPort_telem (s : State) (i : Fin 8) (f : Port → Port) : (s.modPort i f).telem = s.telem := rfl
@[simp] theorem setPort_sys (s : State) (i : Fin 8) (x : Port) : (s.setPort i x).sys = s.sys := rfl
@[simp] theorem modPort_sys (s : State) (i : Fin 8) (f : Port → Port) : (s.modPort i f).sys = s.sys := rfl
@[simp] theorem setPort_chain (s : State) (i : Fin 8) (x : Port) : (s.setPort i x).chain = s.chain := rfl
@[simp] theorem modPort_chain (s : State) (i : Fin 8) (f : Port → Port) : (s.modPort i f).chain = s.chain := rfl
@[simp] theorem setPort_keys (s : State) (i : Fin 8) (x : Port) : (s.setPort i x).keys = s.keys := rfl
@[simp] theorem modPort_keys (s : State) (i : Fin 8) (f : Port → Port) : (s.modPort i f).keys = s.keys := rfl
@[simp] theorem setPort_flights (s : State) (i : Fin 8) (x : Port) : (s.setPort i x).flights = s.flights := rfl
@[simp] theorem modPort_flights (s : State) (i : Fin 8) (f : Port → Port) : (s.modPort i f).flights = s.flights := rfl
@[simp] theorem setPort_sram (s : State) (i : Fin 8) (x : Port) : (s.setPort i x).sram = s.sram := rfl
@[simp] theorem modPort_sram (s : State) (i : Fin 8) (f : Port → Port) : (s.modPort i f).sram = s.sram := rfl
@[simp] theorem setPort_host (s : State) (i : Fin 8) (x : Port) : (s.setPort i x).host = s.host := rfl
@[simp] theorem modPort_host (s : State) (i : Fin 8) (f : Port → Port) : (s.modPort i f).host = s.host := rfl
@[simp] theorem setPort_flash (s : State) (i : Fin 8) (x : Port) : (s.setPort i x).flash = s.flash := rfl
@[simp] theorem modPort_flash (s : State) (i : Fin 8) (f : Port → Port) : (s.modPort i f).flash = s.flash := rfl
@[simp] theorem setPort_journal (s : State) (i : Fin 8) (x : Port) : (s.setPort i x).journal = s.journal := rfl
@[simp] theorem modPort_journal (s : State) (i : Fin 8) (f : Port → Port) : (s.modPort i f).journal = s.journal := rfl
@[simp] theorem setPort_journalN (s : State) (i : Fin 8) (x : Port) : (s.setPort i x).journalN = s.journalN := rfl
@[simp] theorem modPort_journalN (s : State) (i : Fin 8) (f : Port → Port) : (s.modPort i f).journalN = s.journalN := rfl
@[simp] theorem setPort_dirFlash (s : State) (i : Fin 8) (x : Port) : (s.setPort i x).dirFlash = s.dirFlash := rfl
@[simp] theorem modPort_dirFlash (s : State) (i : Fin 8) (f : Port → Port) : (s.modPort i f).dirFlash = s.dirFlash := rfl
@[simp] theorem setPort_jflags (s : State) (i : Fin 8) (x : Port) : (s.setPort i x).jflags = s.jflags := rfl
@[simp] theorem modPort_jflags (s : State) (i : Fin 8) (f : Port → Port) : (s.modPort i f).jflags = s.jflags := rfl
@[simp] theorem setPort_createSeq (s : State) (i : Fin 8) (x : Port) : (s.setPort i x).createSeq = s.createSeq := rfl
@[simp] theorem modPort_createSeq (s : State) (i : Fin 8) (f : Port → Port) : (s.modPort i f).createSeq = s.createSeq := rfl
@[simp] theorem setPort_latch (s : State) (i : Fin 8) (x : Port) : (s.setPort i x).latch = s.latch := rfl
@[simp] theorem modPort_latch (s : State) (i : Fin 8) (f : Port → Port) : (s.modPort i f).latch = s.latch := rfl
@[simp] theorem setPort_evBuf (s : State) (i : Fin 8) (x : Port) : (s.setPort i x).evBuf = s.evBuf := rfl
@[simp] theorem modPort_evBuf (s : State) (i : Fin 8) (f : Port → Port) : (s.modPort i f).evBuf = s.evBuf := rfl
@[simp] theorem setPort_evOver (s : State) (i : Fin 8) (x : Port) : (s.setPort i x).evOver = s.evOver := rfl
@[simp] theorem modPort_evOver (s : State) (i : Fin 8) (f : Port → Port) : (s.modPort i f).evOver = s.evOver := rfl
@[simp] theorem setPort_lockWas (s : State) (i : Fin 8) (x : Port) : (s.setPort i x).lockWas = s.lockWas := rfl
@[simp] theorem modPort_lockWas (s : State) (i : Fin 8) (f : Port → Port) : (s.modPort i f).lockWas = s.lockWas := rfl
@[simp] theorem setPort_numVfs (s : State) (i : Fin 8) (x : Port) : (s.setPort i x).numVfs = s.numVfs := rfl
@[simp] theorem modPort_numVfs (s : State) (i : Fin 8) (f : Port → Port) : (s.modPort i f).numVfs = s.numVfs := rfl
@[simp] theorem setPort_jobPower (s : State) (i : Fin 8) (x : Port) : (s.setPort i x).jobPower = s.jobPower := rfl
@[simp] theorem modPort_jobPower (s : State) (i : Fin 8) (f : Port → Port) : (s.modPort i f).jobPower = s.jobPower := rfl
@[simp] theorem setPort_jobDiag (s : State) (i : Fin 8) (x : Port) : (s.setPort i x).jobDiag = s.jobDiag := rfl
@[simp] theorem modPort_jobDiag (s : State) (i : Fin 8) (f : Port → Port) : (s.modPort i f).jobDiag = s.jobDiag := rfl
@[simp] theorem setPort_freeCtr (s : State) (i : Fin 8) (x : Port) : (s.setPort i x).freeCtr = s.freeCtr := rfl
@[simp] theorem modPort_freeCtr (s : State) (i : Fin 8) (f : Port → Port) : (s.modPort i f).freeCtr = s.freeCtr := rfl
@[simp] theorem setPort_out (s : State) (i : Fin 8) (x : Port) : (s.setPort i x).out = s.out := rfl
@[simp] theorem modPort_out (s : State) (i : Fin 8) (f : Port → Port) : (s.modPort i f).out = s.out := rfl
@[simp] theorem stl_setPort (s : State) (i : Fin 8) (x : Port) (j : Fin 64) : (s.setPort i x).stl j = s.stl j := rfl
@[simp] theorem stl_modPort (s : State) (i : Fin 8) (f : Port → Port) (j : Fin 64) : (s.modPort i f).stl j = s.stl j := rfl
@[simp] theorem part_setPort (s : State) (i : Fin 8) (x : Port) (j : Fin 64) : (s.setPort i x).part j = s.part j := rfl
@[simp] theorem part_modPort (s : State) (i : Fin 8) (f : Port → Port) (j : Fin 64) : (s.modPort i f).part j = s.part j := rfl
@[simp] theorem func_setPort (s : State) (i : Fin 8) (x : Port) (j : Fin 65) : (s.setPort i x).func j = s.func j := rfl
@[simp] theorem func_modPort (s : State) (i : Fin 8) (f : Port → Port) (j : Fin 65) : (s.modPort i f).func j = s.func j := rfl
@[simp] theorem sheaf_setPort (s : State) (i : Fin 8) (x : Port) (j : Fin 20) : (s.setPort i x).sheaf j = s.sheaf j := rfl
@[simp] theorem sheaf_modPort (s : State) (i : Fin 8) (f : Port → Port) (j : Fin 20) : (s.modPort i f).sheaf j = s.sheaf j := rfl
@[simp] theorem port_setPort_self (s : State) (i : Fin 8) (x : Port) : (s.setPort i x).port i = x := by
  simp [State.port, State.setPort]
theorem port_setPort (s : State) (i j : Fin 8) (x : Port) : (s.setPort i x).port j = if i = j then x else s.port j := by
  simp [State.port, State.setPort, Vector.getElem_set, Fin.ext_iff]
@[simp] theorem port_setPort_ne (s : State) (i j : Fin 8) (x : Port) (h : j ≠ i) : (s.setPort i x).port j = s.port j := by
  rw [port_setPort, if_neg (Ne.symm h)]
@[simp] theorem port_modPort_self (s : State) (i : Fin 8) (f : Port → Port) : (s.modPort i f).port i = f (s.port i) :=
  port_setPort_self s i _
theorem port_modPort (s : State) (i j : Fin 8) (f : Port → Port) : (s.modPort i f).port j = if i = j then f (s.port i) else s.port j :=
  port_setPort s i j _
@[simp] theorem port_modPort_ne (s : State) (i j : Fin 8) (f : Port → Port) (h : j ≠ i) : (s.modPort i f).port j = s.port j :=
  port_setPort_ne s i j _ h

/-! The parts of a Stall, and a dispatch. -/

theorem modPad_eq (s : State) (i : Fin 64) (f : Pad → Pad) : s.modPad i f = s.modStl i (fun x => { x with pad := f x.pad }) := rfl
@[simp] theorem modPad_pending (s : State) (i : Fin 64) (f : Pad → Pad) : (s.modPad i f).pending = s.pending := rfl
@[simp] theorem modPad_cycle (s : State) (i : Fin 64) (f : Pad → Pad) : (s.modPad i f).cycle = s.cycle := rfl
@[simp] theorem modPad_now (s : State) (i : Fin 64) (f : Pad → Pad) : (s.modPad i f).now = s.now := rfl
@[simp] theorem modPad_frac (s : State) (i : Fin 64) (f : Pad → Pad) : (s.modPad i f).frac = s.frac := rfl
@[simp] theorem modPad_parts (s : State) (i : Fin 64) (f : Pad → Pad) : (s.modPad i f).parts = s.parts := rfl
@[simp] theorem modPad_funcs (s : State) (i : Fin 64) (f : Pad → Pad) : (s.modPad i f).funcs = s.funcs := rfl
@[simp] theorem modPad_sheaves (s : State) (i : Fin 64) (f : Pad → Pad) : (s.modPad i f).sheaves = s.sheaves := rfl
@[simp] theorem modPad_ports (s : State) (i : Fin 64) (f : Pad → Pad) : (s.modPad i f).ports = s.ports := rfl
@[simp] theorem modPad_link (s : State) (i : Fin 64) (f : Pad → Pad) : (s.modPad i f).link = s.link := rfl
@[simp] theorem modPad_ring (s : State) (i : Fin 64) (f : Pad → Pad) : (s.modPad i f).ring = s.ring := rfl
@[simp] theorem modPad_fab (s : State) (i : Fin 64) (f : Pad → Pad) : (s.modPad i f).fab = s.fab := rfl
@[simp] theorem modPad_gran (s : State) (i : Fin 64) (f : Pad → Pad) : (s.modPad i f).gran = s.gran := rfl
@[simp] theorem modPad_pwr (s : State) (i : Fin 64) (f : Pad → Pad) : (s.modPad i f).pwr = s.pwr := rfl
@[simp] theorem modPad_clk (s : State) (i : Fin 64) (f : Pad → Pad) : (s.modPad i f).clk = s.clk := rfl
@[simp] theorem modPad_telem (s : State) (i : Fin 64) (f : Pad → Pad) : (s.modPad i f).telem = s.telem := rfl
@[simp] theorem modPad_sys (s : State) (i : Fin 64) (f : Pad → Pad) : (s.modPad i f).sys = s.sys := rfl
@[simp] theorem modPad_chain (s : State) (i : Fin 64) (f : Pad → Pad) : (s.modPad i f).chain = s.chain := rfl
@[simp] theorem modPad_keys (s : State) (i : Fin 64) (f : Pad → Pad) : (s.modPad i f).keys = s.keys := rfl
@[simp] theorem modPad_flights (s : State) (i : Fin 64) (f : Pad → Pad) : (s.modPad i f).flights = s.flights := rfl
@[simp] theorem modPad_sram (s : State) (i : Fin 64) (f : Pad → Pad) : (s.modPad i f).sram = s.sram := rfl
@[simp] theorem modPad_host (s : State) (i : Fin 64) (f : Pad → Pad) : (s.modPad i f).host = s.host := rfl
@[simp] theorem modPad_flash (s : State) (i : Fin 64) (f : Pad → Pad) : (s.modPad i f).flash = s.flash := rfl
@[simp] theorem modPad_journal (s : State) (i : Fin 64) (f : Pad → Pad) : (s.modPad i f).journal = s.journal := rfl
@[simp] theorem modPad_journalN (s : State) (i : Fin 64) (f : Pad → Pad) : (s.modPad i f).journalN = s.journalN := rfl
@[simp] theorem modPad_dirFlash (s : State) (i : Fin 64) (f : Pad → Pad) : (s.modPad i f).dirFlash = s.dirFlash := rfl
@[simp] theorem modPad_jflags (s : State) (i : Fin 64) (f : Pad → Pad) : (s.modPad i f).jflags = s.jflags := rfl
@[simp] theorem modPad_createSeq (s : State) (i : Fin 64) (f : Pad → Pad) : (s.modPad i f).createSeq = s.createSeq := rfl
@[simp] theorem modPad_latch (s : State) (i : Fin 64) (f : Pad → Pad) : (s.modPad i f).latch = s.latch := rfl
@[simp] theorem modPad_evBuf (s : State) (i : Fin 64) (f : Pad → Pad) : (s.modPad i f).evBuf = s.evBuf := rfl
@[simp] theorem modPad_evOver (s : State) (i : Fin 64) (f : Pad → Pad) : (s.modPad i f).evOver = s.evOver := rfl
@[simp] theorem modPad_lockWas (s : State) (i : Fin 64) (f : Pad → Pad) : (s.modPad i f).lockWas = s.lockWas := rfl
@[simp] theorem modPad_numVfs (s : State) (i : Fin 64) (f : Pad → Pad) : (s.modPad i f).numVfs = s.numVfs := rfl
@[simp] theorem modPad_jobPower (s : State) (i : Fin 64) (f : Pad → Pad) : (s.modPad i f).jobPower = s.jobPower := rfl
@[simp] theorem modPad_jobDiag (s : State) (i : Fin 64) (f : Pad → Pad) : (s.modPad i f).jobDiag = s.jobDiag := rfl
@[simp] theorem modPad_freeCtr (s : State) (i : Fin 64) (f : Pad → Pad) : (s.modPad i f).freeCtr = s.freeCtr := rfl
@[simp] theorem modPad_out (s : State) (i : Fin 64) (f : Pad → Pad) : (s.modPad i f).out = s.out := rfl
@[simp] theorem part_modPad (s : State) (i : Fin 64) (f : Pad → Pad) (j : Fin 64) : (s.modPad i f).part j = s.part j := rfl
@[simp] theorem func_modPad (s : State) (i : Fin 64) (f : Pad → Pad) (j : Fin 65) : (s.modPad i f).func j = s.func j := rfl
@[simp] theorem sheaf_modPad (s : State) (i : Fin 64) (f : Pad → Pad) (j : Fin 20) : (s.modPad i f).sheaf j = s.sheaf j := rfl
@[simp] theorem port_modPad (s : State) (i : Fin 64) (f : Pad → Pad) (j : Fin 8) : (s.modPad i f).port j = s.port j := rfl
@[simp] theorem stl_modPad_self (s : State) (i : Fin 64) (f : Pad → Pad) : (s.modPad i f).stl i = { s.stl i with pad := f (s.stl i).pad } :=
  stl_modStl_self s i _
@[simp] theorem stl_modPad_ne (s : State) (i j : Fin 64) (f : Pad → Pad) (h : j ≠ i) : (s.modPad i f).stl j = s.stl j :=
  stl_modStl_ne s i j _ h

theorem modSeq_eq (s : State) (i : Fin 64) (f : Seq → Seq) : s.modSeq i f = s.modStl i (fun x => { x with seq := f x.seq }) := rfl
@[simp] theorem modSeq_pending (s : State) (i : Fin 64) (f : Seq → Seq) : (s.modSeq i f).pending = s.pending := rfl
@[simp] theorem modSeq_cycle (s : State) (i : Fin 64) (f : Seq → Seq) : (s.modSeq i f).cycle = s.cycle := rfl
@[simp] theorem modSeq_now (s : State) (i : Fin 64) (f : Seq → Seq) : (s.modSeq i f).now = s.now := rfl
@[simp] theorem modSeq_frac (s : State) (i : Fin 64) (f : Seq → Seq) : (s.modSeq i f).frac = s.frac := rfl
@[simp] theorem modSeq_parts (s : State) (i : Fin 64) (f : Seq → Seq) : (s.modSeq i f).parts = s.parts := rfl
@[simp] theorem modSeq_funcs (s : State) (i : Fin 64) (f : Seq → Seq) : (s.modSeq i f).funcs = s.funcs := rfl
@[simp] theorem modSeq_sheaves (s : State) (i : Fin 64) (f : Seq → Seq) : (s.modSeq i f).sheaves = s.sheaves := rfl
@[simp] theorem modSeq_ports (s : State) (i : Fin 64) (f : Seq → Seq) : (s.modSeq i f).ports = s.ports := rfl
@[simp] theorem modSeq_link (s : State) (i : Fin 64) (f : Seq → Seq) : (s.modSeq i f).link = s.link := rfl
@[simp] theorem modSeq_ring (s : State) (i : Fin 64) (f : Seq → Seq) : (s.modSeq i f).ring = s.ring := rfl
@[simp] theorem modSeq_fab (s : State) (i : Fin 64) (f : Seq → Seq) : (s.modSeq i f).fab = s.fab := rfl
@[simp] theorem modSeq_gran (s : State) (i : Fin 64) (f : Seq → Seq) : (s.modSeq i f).gran = s.gran := rfl
@[simp] theorem modSeq_pwr (s : State) (i : Fin 64) (f : Seq → Seq) : (s.modSeq i f).pwr = s.pwr := rfl
@[simp] theorem modSeq_clk (s : State) (i : Fin 64) (f : Seq → Seq) : (s.modSeq i f).clk = s.clk := rfl
@[simp] theorem modSeq_telem (s : State) (i : Fin 64) (f : Seq → Seq) : (s.modSeq i f).telem = s.telem := rfl
@[simp] theorem modSeq_sys (s : State) (i : Fin 64) (f : Seq → Seq) : (s.modSeq i f).sys = s.sys := rfl
@[simp] theorem modSeq_chain (s : State) (i : Fin 64) (f : Seq → Seq) : (s.modSeq i f).chain = s.chain := rfl
@[simp] theorem modSeq_keys (s : State) (i : Fin 64) (f : Seq → Seq) : (s.modSeq i f).keys = s.keys := rfl
@[simp] theorem modSeq_flights (s : State) (i : Fin 64) (f : Seq → Seq) : (s.modSeq i f).flights = s.flights := rfl
@[simp] theorem modSeq_sram (s : State) (i : Fin 64) (f : Seq → Seq) : (s.modSeq i f).sram = s.sram := rfl
@[simp] theorem modSeq_host (s : State) (i : Fin 64) (f : Seq → Seq) : (s.modSeq i f).host = s.host := rfl
@[simp] theorem modSeq_flash (s : State) (i : Fin 64) (f : Seq → Seq) : (s.modSeq i f).flash = s.flash := rfl
@[simp] theorem modSeq_journal (s : State) (i : Fin 64) (f : Seq → Seq) : (s.modSeq i f).journal = s.journal := rfl
@[simp] theorem modSeq_journalN (s : State) (i : Fin 64) (f : Seq → Seq) : (s.modSeq i f).journalN = s.journalN := rfl
@[simp] theorem modSeq_dirFlash (s : State) (i : Fin 64) (f : Seq → Seq) : (s.modSeq i f).dirFlash = s.dirFlash := rfl
@[simp] theorem modSeq_jflags (s : State) (i : Fin 64) (f : Seq → Seq) : (s.modSeq i f).jflags = s.jflags := rfl
@[simp] theorem modSeq_createSeq (s : State) (i : Fin 64) (f : Seq → Seq) : (s.modSeq i f).createSeq = s.createSeq := rfl
@[simp] theorem modSeq_latch (s : State) (i : Fin 64) (f : Seq → Seq) : (s.modSeq i f).latch = s.latch := rfl
@[simp] theorem modSeq_evBuf (s : State) (i : Fin 64) (f : Seq → Seq) : (s.modSeq i f).evBuf = s.evBuf := rfl
@[simp] theorem modSeq_evOver (s : State) (i : Fin 64) (f : Seq → Seq) : (s.modSeq i f).evOver = s.evOver := rfl
@[simp] theorem modSeq_lockWas (s : State) (i : Fin 64) (f : Seq → Seq) : (s.modSeq i f).lockWas = s.lockWas := rfl
@[simp] theorem modSeq_numVfs (s : State) (i : Fin 64) (f : Seq → Seq) : (s.modSeq i f).numVfs = s.numVfs := rfl
@[simp] theorem modSeq_jobPower (s : State) (i : Fin 64) (f : Seq → Seq) : (s.modSeq i f).jobPower = s.jobPower := rfl
@[simp] theorem modSeq_jobDiag (s : State) (i : Fin 64) (f : Seq → Seq) : (s.modSeq i f).jobDiag = s.jobDiag := rfl
@[simp] theorem modSeq_freeCtr (s : State) (i : Fin 64) (f : Seq → Seq) : (s.modSeq i f).freeCtr = s.freeCtr := rfl
@[simp] theorem modSeq_out (s : State) (i : Fin 64) (f : Seq → Seq) : (s.modSeq i f).out = s.out := rfl
@[simp] theorem part_modSeq (s : State) (i : Fin 64) (f : Seq → Seq) (j : Fin 64) : (s.modSeq i f).part j = s.part j := rfl
@[simp] theorem func_modSeq (s : State) (i : Fin 64) (f : Seq → Seq) (j : Fin 65) : (s.modSeq i f).func j = s.func j := rfl
@[simp] theorem sheaf_modSeq (s : State) (i : Fin 64) (f : Seq → Seq) (j : Fin 20) : (s.modSeq i f).sheaf j = s.sheaf j := rfl
@[simp] theorem port_modSeq (s : State) (i : Fin 64) (f : Seq → Seq) (j : Fin 8) : (s.modSeq i f).port j = s.port j := rfl
@[simp] theorem stl_modSeq_self (s : State) (i : Fin 64) (f : Seq → Seq) : (s.modSeq i f).stl i = { s.stl i with seq := f (s.stl i).seq } :=
  stl_modStl_self s i _
@[simp] theorem stl_modSeq_ne (s : State) (i j : Fin 64) (f : Seq → Seq) (h : j ≠ i) : (s.modSeq i f).stl j = s.stl j :=
  stl_modStl_ne s i j _ h

theorem modCa_eq (s : State) (i : Fin 64) (f : Cube → Cube) : s.modCa i f = s.modStl i (fun x => { x with ca := f x.ca }) := rfl
@[simp] theorem modCa_pending (s : State) (i : Fin 64) (f : Cube → Cube) : (s.modCa i f).pending = s.pending := rfl
@[simp] theorem modCa_cycle (s : State) (i : Fin 64) (f : Cube → Cube) : (s.modCa i f).cycle = s.cycle := rfl
@[simp] theorem modCa_now (s : State) (i : Fin 64) (f : Cube → Cube) : (s.modCa i f).now = s.now := rfl
@[simp] theorem modCa_frac (s : State) (i : Fin 64) (f : Cube → Cube) : (s.modCa i f).frac = s.frac := rfl
@[simp] theorem modCa_parts (s : State) (i : Fin 64) (f : Cube → Cube) : (s.modCa i f).parts = s.parts := rfl
@[simp] theorem modCa_funcs (s : State) (i : Fin 64) (f : Cube → Cube) : (s.modCa i f).funcs = s.funcs := rfl
@[simp] theorem modCa_sheaves (s : State) (i : Fin 64) (f : Cube → Cube) : (s.modCa i f).sheaves = s.sheaves := rfl
@[simp] theorem modCa_ports (s : State) (i : Fin 64) (f : Cube → Cube) : (s.modCa i f).ports = s.ports := rfl
@[simp] theorem modCa_link (s : State) (i : Fin 64) (f : Cube → Cube) : (s.modCa i f).link = s.link := rfl
@[simp] theorem modCa_ring (s : State) (i : Fin 64) (f : Cube → Cube) : (s.modCa i f).ring = s.ring := rfl
@[simp] theorem modCa_fab (s : State) (i : Fin 64) (f : Cube → Cube) : (s.modCa i f).fab = s.fab := rfl
@[simp] theorem modCa_gran (s : State) (i : Fin 64) (f : Cube → Cube) : (s.modCa i f).gran = s.gran := rfl
@[simp] theorem modCa_pwr (s : State) (i : Fin 64) (f : Cube → Cube) : (s.modCa i f).pwr = s.pwr := rfl
@[simp] theorem modCa_clk (s : State) (i : Fin 64) (f : Cube → Cube) : (s.modCa i f).clk = s.clk := rfl
@[simp] theorem modCa_telem (s : State) (i : Fin 64) (f : Cube → Cube) : (s.modCa i f).telem = s.telem := rfl
@[simp] theorem modCa_sys (s : State) (i : Fin 64) (f : Cube → Cube) : (s.modCa i f).sys = s.sys := rfl
@[simp] theorem modCa_chain (s : State) (i : Fin 64) (f : Cube → Cube) : (s.modCa i f).chain = s.chain := rfl
@[simp] theorem modCa_keys (s : State) (i : Fin 64) (f : Cube → Cube) : (s.modCa i f).keys = s.keys := rfl
@[simp] theorem modCa_flights (s : State) (i : Fin 64) (f : Cube → Cube) : (s.modCa i f).flights = s.flights := rfl
@[simp] theorem modCa_sram (s : State) (i : Fin 64) (f : Cube → Cube) : (s.modCa i f).sram = s.sram := rfl
@[simp] theorem modCa_host (s : State) (i : Fin 64) (f : Cube → Cube) : (s.modCa i f).host = s.host := rfl
@[simp] theorem modCa_flash (s : State) (i : Fin 64) (f : Cube → Cube) : (s.modCa i f).flash = s.flash := rfl
@[simp] theorem modCa_journal (s : State) (i : Fin 64) (f : Cube → Cube) : (s.modCa i f).journal = s.journal := rfl
@[simp] theorem modCa_journalN (s : State) (i : Fin 64) (f : Cube → Cube) : (s.modCa i f).journalN = s.journalN := rfl
@[simp] theorem modCa_dirFlash (s : State) (i : Fin 64) (f : Cube → Cube) : (s.modCa i f).dirFlash = s.dirFlash := rfl
@[simp] theorem modCa_jflags (s : State) (i : Fin 64) (f : Cube → Cube) : (s.modCa i f).jflags = s.jflags := rfl
@[simp] theorem modCa_createSeq (s : State) (i : Fin 64) (f : Cube → Cube) : (s.modCa i f).createSeq = s.createSeq := rfl
@[simp] theorem modCa_latch (s : State) (i : Fin 64) (f : Cube → Cube) : (s.modCa i f).latch = s.latch := rfl
@[simp] theorem modCa_evBuf (s : State) (i : Fin 64) (f : Cube → Cube) : (s.modCa i f).evBuf = s.evBuf := rfl
@[simp] theorem modCa_evOver (s : State) (i : Fin 64) (f : Cube → Cube) : (s.modCa i f).evOver = s.evOver := rfl
@[simp] theorem modCa_lockWas (s : State) (i : Fin 64) (f : Cube → Cube) : (s.modCa i f).lockWas = s.lockWas := rfl
@[simp] theorem modCa_numVfs (s : State) (i : Fin 64) (f : Cube → Cube) : (s.modCa i f).numVfs = s.numVfs := rfl
@[simp] theorem modCa_jobPower (s : State) (i : Fin 64) (f : Cube → Cube) : (s.modCa i f).jobPower = s.jobPower := rfl
@[simp] theorem modCa_jobDiag (s : State) (i : Fin 64) (f : Cube → Cube) : (s.modCa i f).jobDiag = s.jobDiag := rfl
@[simp] theorem modCa_freeCtr (s : State) (i : Fin 64) (f : Cube → Cube) : (s.modCa i f).freeCtr = s.freeCtr := rfl
@[simp] theorem modCa_out (s : State) (i : Fin 64) (f : Cube → Cube) : (s.modCa i f).out = s.out := rfl
@[simp] theorem part_modCa (s : State) (i : Fin 64) (f : Cube → Cube) (j : Fin 64) : (s.modCa i f).part j = s.part j := rfl
@[simp] theorem func_modCa (s : State) (i : Fin 64) (f : Cube → Cube) (j : Fin 65) : (s.modCa i f).func j = s.func j := rfl
@[simp] theorem sheaf_modCa (s : State) (i : Fin 64) (f : Cube → Cube) (j : Fin 20) : (s.modCa i f).sheaf j = s.sheaf j := rfl
@[simp] theorem port_modCa (s : State) (i : Fin 64) (f : Cube → Cube) (j : Fin 8) : (s.modCa i f).port j = s.port j := rfl
@[simp] theorem stl_modCa_self (s : State) (i : Fin 64) (f : Cube → Cube) : (s.modCa i f).stl i = { s.stl i with ca := f (s.stl i).ca } :=
  stl_modStl_self s i _
@[simp] theorem stl_modCa_ne (s : State) (i j : Fin 64) (f : Cube → Cube) (h : j ≠ i) : (s.modCa i f).stl j = s.stl j :=
  stl_modStl_ne s i j _ h

theorem modRt_eq (s : State) (i : Fin 64) (f : Router → Router) : s.modRt i f = s.modStl i (fun x => { x with rt := f x.rt }) := rfl
@[simp] theorem modRt_pending (s : State) (i : Fin 64) (f : Router → Router) : (s.modRt i f).pending = s.pending := rfl
@[simp] theorem modRt_cycle (s : State) (i : Fin 64) (f : Router → Router) : (s.modRt i f).cycle = s.cycle := rfl
@[simp] theorem modRt_now (s : State) (i : Fin 64) (f : Router → Router) : (s.modRt i f).now = s.now := rfl
@[simp] theorem modRt_frac (s : State) (i : Fin 64) (f : Router → Router) : (s.modRt i f).frac = s.frac := rfl
@[simp] theorem modRt_parts (s : State) (i : Fin 64) (f : Router → Router) : (s.modRt i f).parts = s.parts := rfl
@[simp] theorem modRt_funcs (s : State) (i : Fin 64) (f : Router → Router) : (s.modRt i f).funcs = s.funcs := rfl
@[simp] theorem modRt_sheaves (s : State) (i : Fin 64) (f : Router → Router) : (s.modRt i f).sheaves = s.sheaves := rfl
@[simp] theorem modRt_ports (s : State) (i : Fin 64) (f : Router → Router) : (s.modRt i f).ports = s.ports := rfl
@[simp] theorem modRt_link (s : State) (i : Fin 64) (f : Router → Router) : (s.modRt i f).link = s.link := rfl
@[simp] theorem modRt_ring (s : State) (i : Fin 64) (f : Router → Router) : (s.modRt i f).ring = s.ring := rfl
@[simp] theorem modRt_fab (s : State) (i : Fin 64) (f : Router → Router) : (s.modRt i f).fab = s.fab := rfl
@[simp] theorem modRt_gran (s : State) (i : Fin 64) (f : Router → Router) : (s.modRt i f).gran = s.gran := rfl
@[simp] theorem modRt_pwr (s : State) (i : Fin 64) (f : Router → Router) : (s.modRt i f).pwr = s.pwr := rfl
@[simp] theorem modRt_clk (s : State) (i : Fin 64) (f : Router → Router) : (s.modRt i f).clk = s.clk := rfl
@[simp] theorem modRt_telem (s : State) (i : Fin 64) (f : Router → Router) : (s.modRt i f).telem = s.telem := rfl
@[simp] theorem modRt_sys (s : State) (i : Fin 64) (f : Router → Router) : (s.modRt i f).sys = s.sys := rfl
@[simp] theorem modRt_chain (s : State) (i : Fin 64) (f : Router → Router) : (s.modRt i f).chain = s.chain := rfl
@[simp] theorem modRt_keys (s : State) (i : Fin 64) (f : Router → Router) : (s.modRt i f).keys = s.keys := rfl
@[simp] theorem modRt_flights (s : State) (i : Fin 64) (f : Router → Router) : (s.modRt i f).flights = s.flights := rfl
@[simp] theorem modRt_sram (s : State) (i : Fin 64) (f : Router → Router) : (s.modRt i f).sram = s.sram := rfl
@[simp] theorem modRt_host (s : State) (i : Fin 64) (f : Router → Router) : (s.modRt i f).host = s.host := rfl
@[simp] theorem modRt_flash (s : State) (i : Fin 64) (f : Router → Router) : (s.modRt i f).flash = s.flash := rfl
@[simp] theorem modRt_journal (s : State) (i : Fin 64) (f : Router → Router) : (s.modRt i f).journal = s.journal := rfl
@[simp] theorem modRt_journalN (s : State) (i : Fin 64) (f : Router → Router) : (s.modRt i f).journalN = s.journalN := rfl
@[simp] theorem modRt_dirFlash (s : State) (i : Fin 64) (f : Router → Router) : (s.modRt i f).dirFlash = s.dirFlash := rfl
@[simp] theorem modRt_jflags (s : State) (i : Fin 64) (f : Router → Router) : (s.modRt i f).jflags = s.jflags := rfl
@[simp] theorem modRt_createSeq (s : State) (i : Fin 64) (f : Router → Router) : (s.modRt i f).createSeq = s.createSeq := rfl
@[simp] theorem modRt_latch (s : State) (i : Fin 64) (f : Router → Router) : (s.modRt i f).latch = s.latch := rfl
@[simp] theorem modRt_evBuf (s : State) (i : Fin 64) (f : Router → Router) : (s.modRt i f).evBuf = s.evBuf := rfl
@[simp] theorem modRt_evOver (s : State) (i : Fin 64) (f : Router → Router) : (s.modRt i f).evOver = s.evOver := rfl
@[simp] theorem modRt_lockWas (s : State) (i : Fin 64) (f : Router → Router) : (s.modRt i f).lockWas = s.lockWas := rfl
@[simp] theorem modRt_numVfs (s : State) (i : Fin 64) (f : Router → Router) : (s.modRt i f).numVfs = s.numVfs := rfl
@[simp] theorem modRt_jobPower (s : State) (i : Fin 64) (f : Router → Router) : (s.modRt i f).jobPower = s.jobPower := rfl
@[simp] theorem modRt_jobDiag (s : State) (i : Fin 64) (f : Router → Router) : (s.modRt i f).jobDiag = s.jobDiag := rfl
@[simp] theorem modRt_freeCtr (s : State) (i : Fin 64) (f : Router → Router) : (s.modRt i f).freeCtr = s.freeCtr := rfl
@[simp] theorem modRt_out (s : State) (i : Fin 64) (f : Router → Router) : (s.modRt i f).out = s.out := rfl
@[simp] theorem part_modRt (s : State) (i : Fin 64) (f : Router → Router) (j : Fin 64) : (s.modRt i f).part j = s.part j := rfl
@[simp] theorem func_modRt (s : State) (i : Fin 64) (f : Router → Router) (j : Fin 65) : (s.modRt i f).func j = s.func j := rfl
@[simp] theorem sheaf_modRt (s : State) (i : Fin 64) (f : Router → Router) (j : Fin 20) : (s.modRt i f).sheaf j = s.sheaf j := rfl
@[simp] theorem port_modRt (s : State) (i : Fin 64) (f : Router → Router) (j : Fin 8) : (s.modRt i f).port j = s.port j := rfl
@[simp] theorem stl_modRt_self (s : State) (i : Fin 64) (f : Router → Router) : (s.modRt i f).stl i = { s.stl i with rt := f (s.stl i).rt } :=
  stl_modStl_self s i _
@[simp] theorem stl_modRt_ne (s : State) (i j : Fin 64) (f : Router → Router) (h : j ≠ i) : (s.modRt i f).stl j = s.stl j :=
  stl_modStl_ne s i j _ h

theorem modHe_eq (s : State) (i : Fin 64) (f : Hop → Hop) : s.modHe i f = s.modStl i (fun x => { x with he := f x.he }) := rfl
@[simp] theorem modHe_pending (s : State) (i : Fin 64) (f : Hop → Hop) : (s.modHe i f).pending = s.pending := rfl
@[simp] theorem modHe_cycle (s : State) (i : Fin 64) (f : Hop → Hop) : (s.modHe i f).cycle = s.cycle := rfl
@[simp] theorem modHe_now (s : State) (i : Fin 64) (f : Hop → Hop) : (s.modHe i f).now = s.now := rfl
@[simp] theorem modHe_frac (s : State) (i : Fin 64) (f : Hop → Hop) : (s.modHe i f).frac = s.frac := rfl
@[simp] theorem modHe_parts (s : State) (i : Fin 64) (f : Hop → Hop) : (s.modHe i f).parts = s.parts := rfl
@[simp] theorem modHe_funcs (s : State) (i : Fin 64) (f : Hop → Hop) : (s.modHe i f).funcs = s.funcs := rfl
@[simp] theorem modHe_sheaves (s : State) (i : Fin 64) (f : Hop → Hop) : (s.modHe i f).sheaves = s.sheaves := rfl
@[simp] theorem modHe_ports (s : State) (i : Fin 64) (f : Hop → Hop) : (s.modHe i f).ports = s.ports := rfl
@[simp] theorem modHe_link (s : State) (i : Fin 64) (f : Hop → Hop) : (s.modHe i f).link = s.link := rfl
@[simp] theorem modHe_ring (s : State) (i : Fin 64) (f : Hop → Hop) : (s.modHe i f).ring = s.ring := rfl
@[simp] theorem modHe_fab (s : State) (i : Fin 64) (f : Hop → Hop) : (s.modHe i f).fab = s.fab := rfl
@[simp] theorem modHe_gran (s : State) (i : Fin 64) (f : Hop → Hop) : (s.modHe i f).gran = s.gran := rfl
@[simp] theorem modHe_pwr (s : State) (i : Fin 64) (f : Hop → Hop) : (s.modHe i f).pwr = s.pwr := rfl
@[simp] theorem modHe_clk (s : State) (i : Fin 64) (f : Hop → Hop) : (s.modHe i f).clk = s.clk := rfl
@[simp] theorem modHe_telem (s : State) (i : Fin 64) (f : Hop → Hop) : (s.modHe i f).telem = s.telem := rfl
@[simp] theorem modHe_sys (s : State) (i : Fin 64) (f : Hop → Hop) : (s.modHe i f).sys = s.sys := rfl
@[simp] theorem modHe_chain (s : State) (i : Fin 64) (f : Hop → Hop) : (s.modHe i f).chain = s.chain := rfl
@[simp] theorem modHe_keys (s : State) (i : Fin 64) (f : Hop → Hop) : (s.modHe i f).keys = s.keys := rfl
@[simp] theorem modHe_flights (s : State) (i : Fin 64) (f : Hop → Hop) : (s.modHe i f).flights = s.flights := rfl
@[simp] theorem modHe_sram (s : State) (i : Fin 64) (f : Hop → Hop) : (s.modHe i f).sram = s.sram := rfl
@[simp] theorem modHe_host (s : State) (i : Fin 64) (f : Hop → Hop) : (s.modHe i f).host = s.host := rfl
@[simp] theorem modHe_flash (s : State) (i : Fin 64) (f : Hop → Hop) : (s.modHe i f).flash = s.flash := rfl
@[simp] theorem modHe_journal (s : State) (i : Fin 64) (f : Hop → Hop) : (s.modHe i f).journal = s.journal := rfl
@[simp] theorem modHe_journalN (s : State) (i : Fin 64) (f : Hop → Hop) : (s.modHe i f).journalN = s.journalN := rfl
@[simp] theorem modHe_dirFlash (s : State) (i : Fin 64) (f : Hop → Hop) : (s.modHe i f).dirFlash = s.dirFlash := rfl
@[simp] theorem modHe_jflags (s : State) (i : Fin 64) (f : Hop → Hop) : (s.modHe i f).jflags = s.jflags := rfl
@[simp] theorem modHe_createSeq (s : State) (i : Fin 64) (f : Hop → Hop) : (s.modHe i f).createSeq = s.createSeq := rfl
@[simp] theorem modHe_latch (s : State) (i : Fin 64) (f : Hop → Hop) : (s.modHe i f).latch = s.latch := rfl
@[simp] theorem modHe_evBuf (s : State) (i : Fin 64) (f : Hop → Hop) : (s.modHe i f).evBuf = s.evBuf := rfl
@[simp] theorem modHe_evOver (s : State) (i : Fin 64) (f : Hop → Hop) : (s.modHe i f).evOver = s.evOver := rfl
@[simp] theorem modHe_lockWas (s : State) (i : Fin 64) (f : Hop → Hop) : (s.modHe i f).lockWas = s.lockWas := rfl
@[simp] theorem modHe_numVfs (s : State) (i : Fin 64) (f : Hop → Hop) : (s.modHe i f).numVfs = s.numVfs := rfl
@[simp] theorem modHe_jobPower (s : State) (i : Fin 64) (f : Hop → Hop) : (s.modHe i f).jobPower = s.jobPower := rfl
@[simp] theorem modHe_jobDiag (s : State) (i : Fin 64) (f : Hop → Hop) : (s.modHe i f).jobDiag = s.jobDiag := rfl
@[simp] theorem modHe_freeCtr (s : State) (i : Fin 64) (f : Hop → Hop) : (s.modHe i f).freeCtr = s.freeCtr := rfl
@[simp] theorem modHe_out (s : State) (i : Fin 64) (f : Hop → Hop) : (s.modHe i f).out = s.out := rfl
@[simp] theorem part_modHe (s : State) (i : Fin 64) (f : Hop → Hop) (j : Fin 64) : (s.modHe i f).part j = s.part j := rfl
@[simp] theorem func_modHe (s : State) (i : Fin 64) (f : Hop → Hop) (j : Fin 65) : (s.modHe i f).func j = s.func j := rfl
@[simp] theorem sheaf_modHe (s : State) (i : Fin 64) (f : Hop → Hop) (j : Fin 20) : (s.modHe i f).sheaf j = s.sheaf j := rfl
@[simp] theorem port_modHe (s : State) (i : Fin 64) (f : Hop → Hop) (j : Fin 8) : (s.modHe i f).port j = s.port j := rfl
@[simp] theorem stl_modHe_self (s : State) (i : Fin 64) (f : Hop → Hop) : (s.modHe i f).stl i = { s.stl i with he := f (s.stl i).he } :=
  stl_modStl_self s i _
@[simp] theorem stl_modHe_ne (s : State) (i j : Fin 64) (f : Hop → Hop) (h : j ≠ i) : (s.modHe i f).stl j = s.stl j :=
  stl_modStl_ne s i j _ h

theorem modXl_eq (s : State) (i : Fin 64) (f : Xlate → Xlate) : s.modXl i f = s.modStl i (fun x => { x with xl := f x.xl }) := rfl
@[simp] theorem modXl_pending (s : State) (i : Fin 64) (f : Xlate → Xlate) : (s.modXl i f).pending = s.pending := rfl
@[simp] theorem modXl_cycle (s : State) (i : Fin 64) (f : Xlate → Xlate) : (s.modXl i f).cycle = s.cycle := rfl
@[simp] theorem modXl_now (s : State) (i : Fin 64) (f : Xlate → Xlate) : (s.modXl i f).now = s.now := rfl
@[simp] theorem modXl_frac (s : State) (i : Fin 64) (f : Xlate → Xlate) : (s.modXl i f).frac = s.frac := rfl
@[simp] theorem modXl_parts (s : State) (i : Fin 64) (f : Xlate → Xlate) : (s.modXl i f).parts = s.parts := rfl
@[simp] theorem modXl_funcs (s : State) (i : Fin 64) (f : Xlate → Xlate) : (s.modXl i f).funcs = s.funcs := rfl
@[simp] theorem modXl_sheaves (s : State) (i : Fin 64) (f : Xlate → Xlate) : (s.modXl i f).sheaves = s.sheaves := rfl
@[simp] theorem modXl_ports (s : State) (i : Fin 64) (f : Xlate → Xlate) : (s.modXl i f).ports = s.ports := rfl
@[simp] theorem modXl_link (s : State) (i : Fin 64) (f : Xlate → Xlate) : (s.modXl i f).link = s.link := rfl
@[simp] theorem modXl_ring (s : State) (i : Fin 64) (f : Xlate → Xlate) : (s.modXl i f).ring = s.ring := rfl
@[simp] theorem modXl_fab (s : State) (i : Fin 64) (f : Xlate → Xlate) : (s.modXl i f).fab = s.fab := rfl
@[simp] theorem modXl_gran (s : State) (i : Fin 64) (f : Xlate → Xlate) : (s.modXl i f).gran = s.gran := rfl
@[simp] theorem modXl_pwr (s : State) (i : Fin 64) (f : Xlate → Xlate) : (s.modXl i f).pwr = s.pwr := rfl
@[simp] theorem modXl_clk (s : State) (i : Fin 64) (f : Xlate → Xlate) : (s.modXl i f).clk = s.clk := rfl
@[simp] theorem modXl_telem (s : State) (i : Fin 64) (f : Xlate → Xlate) : (s.modXl i f).telem = s.telem := rfl
@[simp] theorem modXl_sys (s : State) (i : Fin 64) (f : Xlate → Xlate) : (s.modXl i f).sys = s.sys := rfl
@[simp] theorem modXl_chain (s : State) (i : Fin 64) (f : Xlate → Xlate) : (s.modXl i f).chain = s.chain := rfl
@[simp] theorem modXl_keys (s : State) (i : Fin 64) (f : Xlate → Xlate) : (s.modXl i f).keys = s.keys := rfl
@[simp] theorem modXl_flights (s : State) (i : Fin 64) (f : Xlate → Xlate) : (s.modXl i f).flights = s.flights := rfl
@[simp] theorem modXl_sram (s : State) (i : Fin 64) (f : Xlate → Xlate) : (s.modXl i f).sram = s.sram := rfl
@[simp] theorem modXl_host (s : State) (i : Fin 64) (f : Xlate → Xlate) : (s.modXl i f).host = s.host := rfl
@[simp] theorem modXl_flash (s : State) (i : Fin 64) (f : Xlate → Xlate) : (s.modXl i f).flash = s.flash := rfl
@[simp] theorem modXl_journal (s : State) (i : Fin 64) (f : Xlate → Xlate) : (s.modXl i f).journal = s.journal := rfl
@[simp] theorem modXl_journalN (s : State) (i : Fin 64) (f : Xlate → Xlate) : (s.modXl i f).journalN = s.journalN := rfl
@[simp] theorem modXl_dirFlash (s : State) (i : Fin 64) (f : Xlate → Xlate) : (s.modXl i f).dirFlash = s.dirFlash := rfl
@[simp] theorem modXl_jflags (s : State) (i : Fin 64) (f : Xlate → Xlate) : (s.modXl i f).jflags = s.jflags := rfl
@[simp] theorem modXl_createSeq (s : State) (i : Fin 64) (f : Xlate → Xlate) : (s.modXl i f).createSeq = s.createSeq := rfl
@[simp] theorem modXl_latch (s : State) (i : Fin 64) (f : Xlate → Xlate) : (s.modXl i f).latch = s.latch := rfl
@[simp] theorem modXl_evBuf (s : State) (i : Fin 64) (f : Xlate → Xlate) : (s.modXl i f).evBuf = s.evBuf := rfl
@[simp] theorem modXl_evOver (s : State) (i : Fin 64) (f : Xlate → Xlate) : (s.modXl i f).evOver = s.evOver := rfl
@[simp] theorem modXl_lockWas (s : State) (i : Fin 64) (f : Xlate → Xlate) : (s.modXl i f).lockWas = s.lockWas := rfl
@[simp] theorem modXl_numVfs (s : State) (i : Fin 64) (f : Xlate → Xlate) : (s.modXl i f).numVfs = s.numVfs := rfl
@[simp] theorem modXl_jobPower (s : State) (i : Fin 64) (f : Xlate → Xlate) : (s.modXl i f).jobPower = s.jobPower := rfl
@[simp] theorem modXl_jobDiag (s : State) (i : Fin 64) (f : Xlate → Xlate) : (s.modXl i f).jobDiag = s.jobDiag := rfl
@[simp] theorem modXl_freeCtr (s : State) (i : Fin 64) (f : Xlate → Xlate) : (s.modXl i f).freeCtr = s.freeCtr := rfl
@[simp] theorem modXl_out (s : State) (i : Fin 64) (f : Xlate → Xlate) : (s.modXl i f).out = s.out := rfl
@[simp] theorem part_modXl (s : State) (i : Fin 64) (f : Xlate → Xlate) (j : Fin 64) : (s.modXl i f).part j = s.part j := rfl
@[simp] theorem func_modXl (s : State) (i : Fin 64) (f : Xlate → Xlate) (j : Fin 65) : (s.modXl i f).func j = s.func j := rfl
@[simp] theorem sheaf_modXl (s : State) (i : Fin 64) (f : Xlate → Xlate) (j : Fin 20) : (s.modXl i f).sheaf j = s.sheaf j := rfl
@[simp] theorem port_modXl (s : State) (i : Fin 64) (f : Xlate → Xlate) (j : Fin 8) : (s.modXl i f).port j = s.port j := rfl
@[simp] theorem stl_modXl_self (s : State) (i : Fin 64) (f : Xlate → Xlate) : (s.modXl i f).stl i = { s.stl i with xl := f (s.stl i).xl } :=
  stl_modStl_self s i _
@[simp] theorem stl_modXl_ne (s : State) (i j : Fin 64) (f : Xlate → Xlate) (h : j ≠ i) : (s.modXl i f).stl j = s.stl j :=
  stl_modStl_ne s i j _ h

theorem modHz_eq (s : State) (i : Fin 64) (f : Hazard → Hazard) : s.modHz i f = s.modStl i (fun x => { x with hz := f x.hz }) := rfl
@[simp] theorem modHz_pending (s : State) (i : Fin 64) (f : Hazard → Hazard) : (s.modHz i f).pending = s.pending := rfl
@[simp] theorem modHz_cycle (s : State) (i : Fin 64) (f : Hazard → Hazard) : (s.modHz i f).cycle = s.cycle := rfl
@[simp] theorem modHz_now (s : State) (i : Fin 64) (f : Hazard → Hazard) : (s.modHz i f).now = s.now := rfl
@[simp] theorem modHz_frac (s : State) (i : Fin 64) (f : Hazard → Hazard) : (s.modHz i f).frac = s.frac := rfl
@[simp] theorem modHz_parts (s : State) (i : Fin 64) (f : Hazard → Hazard) : (s.modHz i f).parts = s.parts := rfl
@[simp] theorem modHz_funcs (s : State) (i : Fin 64) (f : Hazard → Hazard) : (s.modHz i f).funcs = s.funcs := rfl
@[simp] theorem modHz_sheaves (s : State) (i : Fin 64) (f : Hazard → Hazard) : (s.modHz i f).sheaves = s.sheaves := rfl
@[simp] theorem modHz_ports (s : State) (i : Fin 64) (f : Hazard → Hazard) : (s.modHz i f).ports = s.ports := rfl
@[simp] theorem modHz_link (s : State) (i : Fin 64) (f : Hazard → Hazard) : (s.modHz i f).link = s.link := rfl
@[simp] theorem modHz_ring (s : State) (i : Fin 64) (f : Hazard → Hazard) : (s.modHz i f).ring = s.ring := rfl
@[simp] theorem modHz_fab (s : State) (i : Fin 64) (f : Hazard → Hazard) : (s.modHz i f).fab = s.fab := rfl
@[simp] theorem modHz_gran (s : State) (i : Fin 64) (f : Hazard → Hazard) : (s.modHz i f).gran = s.gran := rfl
@[simp] theorem modHz_pwr (s : State) (i : Fin 64) (f : Hazard → Hazard) : (s.modHz i f).pwr = s.pwr := rfl
@[simp] theorem modHz_clk (s : State) (i : Fin 64) (f : Hazard → Hazard) : (s.modHz i f).clk = s.clk := rfl
@[simp] theorem modHz_telem (s : State) (i : Fin 64) (f : Hazard → Hazard) : (s.modHz i f).telem = s.telem := rfl
@[simp] theorem modHz_sys (s : State) (i : Fin 64) (f : Hazard → Hazard) : (s.modHz i f).sys = s.sys := rfl
@[simp] theorem modHz_chain (s : State) (i : Fin 64) (f : Hazard → Hazard) : (s.modHz i f).chain = s.chain := rfl
@[simp] theorem modHz_keys (s : State) (i : Fin 64) (f : Hazard → Hazard) : (s.modHz i f).keys = s.keys := rfl
@[simp] theorem modHz_flights (s : State) (i : Fin 64) (f : Hazard → Hazard) : (s.modHz i f).flights = s.flights := rfl
@[simp] theorem modHz_sram (s : State) (i : Fin 64) (f : Hazard → Hazard) : (s.modHz i f).sram = s.sram := rfl
@[simp] theorem modHz_host (s : State) (i : Fin 64) (f : Hazard → Hazard) : (s.modHz i f).host = s.host := rfl
@[simp] theorem modHz_flash (s : State) (i : Fin 64) (f : Hazard → Hazard) : (s.modHz i f).flash = s.flash := rfl
@[simp] theorem modHz_journal (s : State) (i : Fin 64) (f : Hazard → Hazard) : (s.modHz i f).journal = s.journal := rfl
@[simp] theorem modHz_journalN (s : State) (i : Fin 64) (f : Hazard → Hazard) : (s.modHz i f).journalN = s.journalN := rfl
@[simp] theorem modHz_dirFlash (s : State) (i : Fin 64) (f : Hazard → Hazard) : (s.modHz i f).dirFlash = s.dirFlash := rfl
@[simp] theorem modHz_jflags (s : State) (i : Fin 64) (f : Hazard → Hazard) : (s.modHz i f).jflags = s.jflags := rfl
@[simp] theorem modHz_createSeq (s : State) (i : Fin 64) (f : Hazard → Hazard) : (s.modHz i f).createSeq = s.createSeq := rfl
@[simp] theorem modHz_latch (s : State) (i : Fin 64) (f : Hazard → Hazard) : (s.modHz i f).latch = s.latch := rfl
@[simp] theorem modHz_evBuf (s : State) (i : Fin 64) (f : Hazard → Hazard) : (s.modHz i f).evBuf = s.evBuf := rfl
@[simp] theorem modHz_evOver (s : State) (i : Fin 64) (f : Hazard → Hazard) : (s.modHz i f).evOver = s.evOver := rfl
@[simp] theorem modHz_lockWas (s : State) (i : Fin 64) (f : Hazard → Hazard) : (s.modHz i f).lockWas = s.lockWas := rfl
@[simp] theorem modHz_numVfs (s : State) (i : Fin 64) (f : Hazard → Hazard) : (s.modHz i f).numVfs = s.numVfs := rfl
@[simp] theorem modHz_jobPower (s : State) (i : Fin 64) (f : Hazard → Hazard) : (s.modHz i f).jobPower = s.jobPower := rfl
@[simp] theorem modHz_jobDiag (s : State) (i : Fin 64) (f : Hazard → Hazard) : (s.modHz i f).jobDiag = s.jobDiag := rfl
@[simp] theorem modHz_freeCtr (s : State) (i : Fin 64) (f : Hazard → Hazard) : (s.modHz i f).freeCtr = s.freeCtr := rfl
@[simp] theorem modHz_out (s : State) (i : Fin 64) (f : Hazard → Hazard) : (s.modHz i f).out = s.out := rfl
@[simp] theorem part_modHz (s : State) (i : Fin 64) (f : Hazard → Hazard) (j : Fin 64) : (s.modHz i f).part j = s.part j := rfl
@[simp] theorem func_modHz (s : State) (i : Fin 64) (f : Hazard → Hazard) (j : Fin 65) : (s.modHz i f).func j = s.func j := rfl
@[simp] theorem sheaf_modHz (s : State) (i : Fin 64) (f : Hazard → Hazard) (j : Fin 20) : (s.modHz i f).sheaf j = s.sheaf j := rfl
@[simp] theorem port_modHz (s : State) (i : Fin 64) (f : Hazard → Hazard) (j : Fin 8) : (s.modHz i f).port j = s.port j := rfl
@[simp] theorem stl_modHz_self (s : State) (i : Fin 64) (f : Hazard → Hazard) : (s.modHz i f).stl i = { s.stl i with hz := f (s.stl i).hz } :=
  stl_modStl_self s i _
@[simp] theorem stl_modHz_ne (s : State) (i j : Fin 64) (f : Hazard → Hazard) (h : j ≠ i) : (s.modHz i f).stl j = s.stl j :=
  stl_modStl_ne s i j _ h

theorem modTk_eq (s : State) (i : Fin 64) (f : Takes → Takes) : s.modTk i f = s.modStl i (fun x => { x with tk := f x.tk }) := rfl
@[simp] theorem modTk_pending (s : State) (i : Fin 64) (f : Takes → Takes) : (s.modTk i f).pending = s.pending := rfl
@[simp] theorem modTk_cycle (s : State) (i : Fin 64) (f : Takes → Takes) : (s.modTk i f).cycle = s.cycle := rfl
@[simp] theorem modTk_now (s : State) (i : Fin 64) (f : Takes → Takes) : (s.modTk i f).now = s.now := rfl
@[simp] theorem modTk_frac (s : State) (i : Fin 64) (f : Takes → Takes) : (s.modTk i f).frac = s.frac := rfl
@[simp] theorem modTk_parts (s : State) (i : Fin 64) (f : Takes → Takes) : (s.modTk i f).parts = s.parts := rfl
@[simp] theorem modTk_funcs (s : State) (i : Fin 64) (f : Takes → Takes) : (s.modTk i f).funcs = s.funcs := rfl
@[simp] theorem modTk_sheaves (s : State) (i : Fin 64) (f : Takes → Takes) : (s.modTk i f).sheaves = s.sheaves := rfl
@[simp] theorem modTk_ports (s : State) (i : Fin 64) (f : Takes → Takes) : (s.modTk i f).ports = s.ports := rfl
@[simp] theorem modTk_link (s : State) (i : Fin 64) (f : Takes → Takes) : (s.modTk i f).link = s.link := rfl
@[simp] theorem modTk_ring (s : State) (i : Fin 64) (f : Takes → Takes) : (s.modTk i f).ring = s.ring := rfl
@[simp] theorem modTk_fab (s : State) (i : Fin 64) (f : Takes → Takes) : (s.modTk i f).fab = s.fab := rfl
@[simp] theorem modTk_gran (s : State) (i : Fin 64) (f : Takes → Takes) : (s.modTk i f).gran = s.gran := rfl
@[simp] theorem modTk_pwr (s : State) (i : Fin 64) (f : Takes → Takes) : (s.modTk i f).pwr = s.pwr := rfl
@[simp] theorem modTk_clk (s : State) (i : Fin 64) (f : Takes → Takes) : (s.modTk i f).clk = s.clk := rfl
@[simp] theorem modTk_telem (s : State) (i : Fin 64) (f : Takes → Takes) : (s.modTk i f).telem = s.telem := rfl
@[simp] theorem modTk_sys (s : State) (i : Fin 64) (f : Takes → Takes) : (s.modTk i f).sys = s.sys := rfl
@[simp] theorem modTk_chain (s : State) (i : Fin 64) (f : Takes → Takes) : (s.modTk i f).chain = s.chain := rfl
@[simp] theorem modTk_keys (s : State) (i : Fin 64) (f : Takes → Takes) : (s.modTk i f).keys = s.keys := rfl
@[simp] theorem modTk_flights (s : State) (i : Fin 64) (f : Takes → Takes) : (s.modTk i f).flights = s.flights := rfl
@[simp] theorem modTk_sram (s : State) (i : Fin 64) (f : Takes → Takes) : (s.modTk i f).sram = s.sram := rfl
@[simp] theorem modTk_host (s : State) (i : Fin 64) (f : Takes → Takes) : (s.modTk i f).host = s.host := rfl
@[simp] theorem modTk_flash (s : State) (i : Fin 64) (f : Takes → Takes) : (s.modTk i f).flash = s.flash := rfl
@[simp] theorem modTk_journal (s : State) (i : Fin 64) (f : Takes → Takes) : (s.modTk i f).journal = s.journal := rfl
@[simp] theorem modTk_journalN (s : State) (i : Fin 64) (f : Takes → Takes) : (s.modTk i f).journalN = s.journalN := rfl
@[simp] theorem modTk_dirFlash (s : State) (i : Fin 64) (f : Takes → Takes) : (s.modTk i f).dirFlash = s.dirFlash := rfl
@[simp] theorem modTk_jflags (s : State) (i : Fin 64) (f : Takes → Takes) : (s.modTk i f).jflags = s.jflags := rfl
@[simp] theorem modTk_createSeq (s : State) (i : Fin 64) (f : Takes → Takes) : (s.modTk i f).createSeq = s.createSeq := rfl
@[simp] theorem modTk_latch (s : State) (i : Fin 64) (f : Takes → Takes) : (s.modTk i f).latch = s.latch := rfl
@[simp] theorem modTk_evBuf (s : State) (i : Fin 64) (f : Takes → Takes) : (s.modTk i f).evBuf = s.evBuf := rfl
@[simp] theorem modTk_evOver (s : State) (i : Fin 64) (f : Takes → Takes) : (s.modTk i f).evOver = s.evOver := rfl
@[simp] theorem modTk_lockWas (s : State) (i : Fin 64) (f : Takes → Takes) : (s.modTk i f).lockWas = s.lockWas := rfl
@[simp] theorem modTk_numVfs (s : State) (i : Fin 64) (f : Takes → Takes) : (s.modTk i f).numVfs = s.numVfs := rfl
@[simp] theorem modTk_jobPower (s : State) (i : Fin 64) (f : Takes → Takes) : (s.modTk i f).jobPower = s.jobPower := rfl
@[simp] theorem modTk_jobDiag (s : State) (i : Fin 64) (f : Takes → Takes) : (s.modTk i f).jobDiag = s.jobDiag := rfl
@[simp] theorem modTk_freeCtr (s : State) (i : Fin 64) (f : Takes → Takes) : (s.modTk i f).freeCtr = s.freeCtr := rfl
@[simp] theorem modTk_out (s : State) (i : Fin 64) (f : Takes → Takes) : (s.modTk i f).out = s.out := rfl
@[simp] theorem part_modTk (s : State) (i : Fin 64) (f : Takes → Takes) (j : Fin 64) : (s.modTk i f).part j = s.part j := rfl
@[simp] theorem func_modTk (s : State) (i : Fin 64) (f : Takes → Takes) (j : Fin 65) : (s.modTk i f).func j = s.func j := rfl
@[simp] theorem sheaf_modTk (s : State) (i : Fin 64) (f : Takes → Takes) (j : Fin 20) : (s.modTk i f).sheaf j = s.sheaf j := rfl
@[simp] theorem port_modTk (s : State) (i : Fin 64) (f : Takes → Takes) (j : Fin 8) : (s.modTk i f).port j = s.port j := rfl
@[simp] theorem stl_modTk_self (s : State) (i : Fin 64) (f : Takes → Takes) : (s.modTk i f).stl i = { s.stl i with tk := f (s.stl i).tk } :=
  stl_modStl_self s i _
@[simp] theorem stl_modTk_ne (s : State) (i j : Fin 64) (f : Takes → Takes) (h : j ≠ i) : (s.modTk i f).stl j = s.stl j :=
  stl_modStl_ne s i j _ h

theorem modDisp_eq (s : State) (p : Fin 64) (f : Dispatch → Dispatch) : s.modDisp p f = s.modPart p (fun q => { q with disp := q.disp.map f }) := rfl
@[simp] theorem modDisp_pending (s : State) (p : Fin 64) (f : Dispatch → Dispatch) : (s.modDisp p f).pending = s.pending := rfl
@[simp] theorem modDisp_cycle (s : State) (p : Fin 64) (f : Dispatch → Dispatch) : (s.modDisp p f).cycle = s.cycle := rfl
@[simp] theorem modDisp_now (s : State) (p : Fin 64) (f : Dispatch → Dispatch) : (s.modDisp p f).now = s.now := rfl
@[simp] theorem modDisp_frac (s : State) (p : Fin 64) (f : Dispatch → Dispatch) : (s.modDisp p f).frac = s.frac := rfl
@[simp] theorem modDisp_stalls (s : State) (p : Fin 64) (f : Dispatch → Dispatch) : (s.modDisp p f).stalls = s.stalls := rfl
@[simp] theorem modDisp_funcs (s : State) (p : Fin 64) (f : Dispatch → Dispatch) : (s.modDisp p f).funcs = s.funcs := rfl
@[simp] theorem modDisp_sheaves (s : State) (p : Fin 64) (f : Dispatch → Dispatch) : (s.modDisp p f).sheaves = s.sheaves := rfl
@[simp] theorem modDisp_ports (s : State) (p : Fin 64) (f : Dispatch → Dispatch) : (s.modDisp p f).ports = s.ports := rfl
@[simp] theorem modDisp_link (s : State) (p : Fin 64) (f : Dispatch → Dispatch) : (s.modDisp p f).link = s.link := rfl
@[simp] theorem modDisp_ring (s : State) (p : Fin 64) (f : Dispatch → Dispatch) : (s.modDisp p f).ring = s.ring := rfl
@[simp] theorem modDisp_fab (s : State) (p : Fin 64) (f : Dispatch → Dispatch) : (s.modDisp p f).fab = s.fab := rfl
@[simp] theorem modDisp_gran (s : State) (p : Fin 64) (f : Dispatch → Dispatch) : (s.modDisp p f).gran = s.gran := rfl
@[simp] theorem modDisp_pwr (s : State) (p : Fin 64) (f : Dispatch → Dispatch) : (s.modDisp p f).pwr = s.pwr := rfl
@[simp] theorem modDisp_clk (s : State) (p : Fin 64) (f : Dispatch → Dispatch) : (s.modDisp p f).clk = s.clk := rfl
@[simp] theorem modDisp_telem (s : State) (p : Fin 64) (f : Dispatch → Dispatch) : (s.modDisp p f).telem = s.telem := rfl
@[simp] theorem modDisp_sys (s : State) (p : Fin 64) (f : Dispatch → Dispatch) : (s.modDisp p f).sys = s.sys := rfl
@[simp] theorem modDisp_chain (s : State) (p : Fin 64) (f : Dispatch → Dispatch) : (s.modDisp p f).chain = s.chain := rfl
@[simp] theorem modDisp_keys (s : State) (p : Fin 64) (f : Dispatch → Dispatch) : (s.modDisp p f).keys = s.keys := rfl
@[simp] theorem modDisp_flights (s : State) (p : Fin 64) (f : Dispatch → Dispatch) : (s.modDisp p f).flights = s.flights := rfl
@[simp] theorem modDisp_sram (s : State) (p : Fin 64) (f : Dispatch → Dispatch) : (s.modDisp p f).sram = s.sram := rfl
@[simp] theorem modDisp_host (s : State) (p : Fin 64) (f : Dispatch → Dispatch) : (s.modDisp p f).host = s.host := rfl
@[simp] theorem modDisp_flash (s : State) (p : Fin 64) (f : Dispatch → Dispatch) : (s.modDisp p f).flash = s.flash := rfl
@[simp] theorem modDisp_journal (s : State) (p : Fin 64) (f : Dispatch → Dispatch) : (s.modDisp p f).journal = s.journal := rfl
@[simp] theorem modDisp_journalN (s : State) (p : Fin 64) (f : Dispatch → Dispatch) : (s.modDisp p f).journalN = s.journalN := rfl
@[simp] theorem modDisp_dirFlash (s : State) (p : Fin 64) (f : Dispatch → Dispatch) : (s.modDisp p f).dirFlash = s.dirFlash := rfl
@[simp] theorem modDisp_jflags (s : State) (p : Fin 64) (f : Dispatch → Dispatch) : (s.modDisp p f).jflags = s.jflags := rfl
@[simp] theorem modDisp_createSeq (s : State) (p : Fin 64) (f : Dispatch → Dispatch) : (s.modDisp p f).createSeq = s.createSeq := rfl
@[simp] theorem modDisp_latch (s : State) (p : Fin 64) (f : Dispatch → Dispatch) : (s.modDisp p f).latch = s.latch := rfl
@[simp] theorem modDisp_evBuf (s : State) (p : Fin 64) (f : Dispatch → Dispatch) : (s.modDisp p f).evBuf = s.evBuf := rfl
@[simp] theorem modDisp_evOver (s : State) (p : Fin 64) (f : Dispatch → Dispatch) : (s.modDisp p f).evOver = s.evOver := rfl
@[simp] theorem modDisp_lockWas (s : State) (p : Fin 64) (f : Dispatch → Dispatch) : (s.modDisp p f).lockWas = s.lockWas := rfl
@[simp] theorem modDisp_numVfs (s : State) (p : Fin 64) (f : Dispatch → Dispatch) : (s.modDisp p f).numVfs = s.numVfs := rfl
@[simp] theorem modDisp_jobPower (s : State) (p : Fin 64) (f : Dispatch → Dispatch) : (s.modDisp p f).jobPower = s.jobPower := rfl
@[simp] theorem modDisp_jobDiag (s : State) (p : Fin 64) (f : Dispatch → Dispatch) : (s.modDisp p f).jobDiag = s.jobDiag := rfl
@[simp] theorem modDisp_freeCtr (s : State) (p : Fin 64) (f : Dispatch → Dispatch) : (s.modDisp p f).freeCtr = s.freeCtr := rfl
@[simp] theorem modDisp_out (s : State) (p : Fin 64) (f : Dispatch → Dispatch) : (s.modDisp p f).out = s.out := rfl

/-! Something driven outward, and a free value. -/

@[simp] theorem emit_pending (s : State) (o : Out) : (s.emit o).pending = s.pending := rfl
@[simp] theorem draw_pending (s : State) : s.draw.2.pending = s.pending := rfl
@[simp] theorem emit_cycle (s : State) (o : Out) : (s.emit o).cycle = s.cycle := rfl
@[simp] theorem draw_cycle (s : State) : s.draw.2.cycle = s.cycle := rfl
@[simp] theorem emit_now (s : State) (o : Out) : (s.emit o).now = s.now := rfl
@[simp] theorem draw_now (s : State) : s.draw.2.now = s.now := rfl
@[simp] theorem emit_frac (s : State) (o : Out) : (s.emit o).frac = s.frac := rfl
@[simp] theorem draw_frac (s : State) : s.draw.2.frac = s.frac := rfl
@[simp] theorem emit_stalls (s : State) (o : Out) : (s.emit o).stalls = s.stalls := rfl
@[simp] theorem draw_stalls (s : State) : s.draw.2.stalls = s.stalls := rfl
@[simp] theorem emit_parts (s : State) (o : Out) : (s.emit o).parts = s.parts := rfl
@[simp] theorem draw_parts (s : State) : s.draw.2.parts = s.parts := rfl
@[simp] theorem emit_funcs (s : State) (o : Out) : (s.emit o).funcs = s.funcs := rfl
@[simp] theorem draw_funcs (s : State) : s.draw.2.funcs = s.funcs := rfl
@[simp] theorem emit_sheaves (s : State) (o : Out) : (s.emit o).sheaves = s.sheaves := rfl
@[simp] theorem draw_sheaves (s : State) : s.draw.2.sheaves = s.sheaves := rfl
@[simp] theorem emit_ports (s : State) (o : Out) : (s.emit o).ports = s.ports := rfl
@[simp] theorem draw_ports (s : State) : s.draw.2.ports = s.ports := rfl
@[simp] theorem emit_link (s : State) (o : Out) : (s.emit o).link = s.link := rfl
@[simp] theorem draw_link (s : State) : s.draw.2.link = s.link := rfl
@[simp] theorem emit_ring (s : State) (o : Out) : (s.emit o).ring = s.ring := rfl
@[simp] theorem draw_ring (s : State) : s.draw.2.ring = s.ring := rfl
@[simp] theorem emit_fab (s : State) (o : Out) : (s.emit o).fab = s.fab := rfl
@[simp] theorem draw_fab (s : State) : s.draw.2.fab = s.fab := rfl
@[simp] theorem emit_gran (s : State) (o : Out) : (s.emit o).gran = s.gran := rfl
@[simp] theorem draw_gran (s : State) : s.draw.2.gran = s.gran := rfl
@[simp] theorem emit_pwr (s : State) (o : Out) : (s.emit o).pwr = s.pwr := rfl
@[simp] theorem draw_pwr (s : State) : s.draw.2.pwr = s.pwr := rfl
@[simp] theorem emit_clk (s : State) (o : Out) : (s.emit o).clk = s.clk := rfl
@[simp] theorem draw_clk (s : State) : s.draw.2.clk = s.clk := rfl
@[simp] theorem emit_telem (s : State) (o : Out) : (s.emit o).telem = s.telem := rfl
@[simp] theorem draw_telem (s : State) : s.draw.2.telem = s.telem := rfl
@[simp] theorem emit_sys (s : State) (o : Out) : (s.emit o).sys = s.sys := rfl
@[simp] theorem draw_sys (s : State) : s.draw.2.sys = s.sys := rfl
@[simp] theorem emit_chain (s : State) (o : Out) : (s.emit o).chain = s.chain := rfl
@[simp] theorem draw_chain (s : State) : s.draw.2.chain = s.chain := rfl
@[simp] theorem emit_keys (s : State) (o : Out) : (s.emit o).keys = s.keys := rfl
@[simp] theorem draw_keys (s : State) : s.draw.2.keys = s.keys := rfl
@[simp] theorem emit_flights (s : State) (o : Out) : (s.emit o).flights = s.flights := rfl
@[simp] theorem draw_flights (s : State) : s.draw.2.flights = s.flights := rfl
@[simp] theorem emit_sram (s : State) (o : Out) : (s.emit o).sram = s.sram := rfl
@[simp] theorem draw_sram (s : State) : s.draw.2.sram = s.sram := rfl
@[simp] theorem emit_host (s : State) (o : Out) : (s.emit o).host = s.host := rfl
@[simp] theorem draw_host (s : State) : s.draw.2.host = s.host := rfl
@[simp] theorem emit_flash (s : State) (o : Out) : (s.emit o).flash = s.flash := rfl
@[simp] theorem draw_flash (s : State) : s.draw.2.flash = s.flash := rfl
@[simp] theorem emit_journal (s : State) (o : Out) : (s.emit o).journal = s.journal := rfl
@[simp] theorem draw_journal (s : State) : s.draw.2.journal = s.journal := rfl
@[simp] theorem emit_journalN (s : State) (o : Out) : (s.emit o).journalN = s.journalN := rfl
@[simp] theorem draw_journalN (s : State) : s.draw.2.journalN = s.journalN := rfl
@[simp] theorem emit_dirFlash (s : State) (o : Out) : (s.emit o).dirFlash = s.dirFlash := rfl
@[simp] theorem draw_dirFlash (s : State) : s.draw.2.dirFlash = s.dirFlash := rfl
@[simp] theorem emit_jflags (s : State) (o : Out) : (s.emit o).jflags = s.jflags := rfl
@[simp] theorem draw_jflags (s : State) : s.draw.2.jflags = s.jflags := rfl
@[simp] theorem emit_createSeq (s : State) (o : Out) : (s.emit o).createSeq = s.createSeq := rfl
@[simp] theorem draw_createSeq (s : State) : s.draw.2.createSeq = s.createSeq := rfl
@[simp] theorem emit_latch (s : State) (o : Out) : (s.emit o).latch = s.latch := rfl
@[simp] theorem draw_latch (s : State) : s.draw.2.latch = s.latch := rfl
@[simp] theorem emit_evBuf (s : State) (o : Out) : (s.emit o).evBuf = s.evBuf := rfl
@[simp] theorem draw_evBuf (s : State) : s.draw.2.evBuf = s.evBuf := rfl
@[simp] theorem emit_evOver (s : State) (o : Out) : (s.emit o).evOver = s.evOver := rfl
@[simp] theorem draw_evOver (s : State) : s.draw.2.evOver = s.evOver := rfl
@[simp] theorem emit_lockWas (s : State) (o : Out) : (s.emit o).lockWas = s.lockWas := rfl
@[simp] theorem draw_lockWas (s : State) : s.draw.2.lockWas = s.lockWas := rfl
@[simp] theorem emit_numVfs (s : State) (o : Out) : (s.emit o).numVfs = s.numVfs := rfl
@[simp] theorem draw_numVfs (s : State) : s.draw.2.numVfs = s.numVfs := rfl
@[simp] theorem emit_jobPower (s : State) (o : Out) : (s.emit o).jobPower = s.jobPower := rfl
@[simp] theorem draw_jobPower (s : State) : s.draw.2.jobPower = s.jobPower := rfl
@[simp] theorem emit_jobDiag (s : State) (o : Out) : (s.emit o).jobDiag = s.jobDiag := rfl
@[simp] theorem draw_jobDiag (s : State) : s.draw.2.jobDiag = s.jobDiag := rfl
@[simp] theorem emit_freeCtr (s : State) (o : Out) : (s.emit o).freeCtr = s.freeCtr := rfl
@[simp] theorem draw_out (s : State) : s.draw.2.out = s.out := rfl
@[simp] theorem stl_emit (s : State) (o : Out) (j : Fin 64) : (s.emit o).stl j = s.stl j := rfl
@[simp] theorem stl_draw (s : State) (j : Fin 64) : s.draw.2.stl j = s.stl j := rfl
@[simp] theorem part_emit (s : State) (o : Out) (j : Fin 64) : (s.emit o).part j = s.part j := rfl
@[simp] theorem part_draw (s : State) (j : Fin 64) : s.draw.2.part j = s.part j := rfl
@[simp] theorem func_emit (s : State) (o : Out) (j : Fin 65) : (s.emit o).func j = s.func j := rfl
@[simp] theorem func_draw (s : State) (j : Fin 65) : s.draw.2.func j = s.func j := rfl
@[simp] theorem sheaf_emit (s : State) (o : Out) (j : Fin 20) : (s.emit o).sheaf j = s.sheaf j := rfl
@[simp] theorem sheaf_draw (s : State) (j : Fin 20) : s.draw.2.sheaf j = s.sheaf j := rfl
@[simp] theorem port_emit (s : State) (o : Out) (j : Fin 8) : (s.emit o).port j = s.port j := rfl
@[simp] theorem port_draw (s : State) (j : Fin 8) : s.draw.2.port j = s.port j := rfl
@[simp] theorem emit_out (s : State) (o : Out) : (s.emit o).out = s.out ++ [o] := rfl
@[simp] theorem draw_freeCtr (s : State) : s.draw.2.freeCtr = s.freeCtr + 1 := rfl

end Sys2Proof.Machine
end

