-- ==== Sys2Proof/Laws/Ops.lean ====
section
/-! SUPPORT. What the shared operations can do: the change of a raise, a stop, a step fault, a tally update or an access
of a Stall's rows stays in that Stall, its partition's dispatch, the event rings and the outward symbols. -/

namespace Sys2Proof

open Machine

theorem StaysIn.refl (st : Fin 64) (s : State) : StaysIn st s s := ⟨rfl, fun _ => rfl, fun _ _ => rfl, fun _ _ => rfl, fun _ => rfl, fun _ => rfl⟩

theorem StaysIn.owner {st : Fin 64} {s t : State} (h : StaysIn st s t) (x : Fin 64) : t.owner x = s.owner x := by
  have e : ∀ p, ((t.part p).state ≠ 0 && (t.part p).stalls.getLsbD x.val) =
      ((s.part p).state ≠ 0 && (s.part p).stalls.getLsbD x.val) := fun p => by rw [h.own p]
  simp only [State.owner, e]

theorem StaysIn.trans {st : Fin 64} {s t u : State} (h : StaysIn st s t) (k : StaysIn st t u) : StaysIn st s u := by
  refine ⟨?_, ?_, ?_, ?_, ?_, ?_⟩
  · rw [k.shape, h.shape]
  · intro n; rw [k.links n, h.links n]
  · intro o ho; rw [k.others o ho, h.others o ho]
  · intro p hp; rw [k.apart p (by rw [h.owner]; exact hp), h.apart p hp]
  · intro p; rw [k.own p, h.own p]
  · intro f; rw [k.rings f, h.rings f]

theorem modStl_staysIn (s : State) (st : Fin 64) (f : Stall → Stall) : StaysIn st s (s.modStl st f) :=
  ⟨rfl, fun _ => rfl, fun o ho => by rw [stl_modStl_ne _ _ _ _ ho], fun _ _ => rfl, fun _ => rfl, fun _ => rfl⟩

theorem sendSymbol_staysIn (s : State) (st : Fin 64) (n : Fin 20) (fsym : BitVec 4) (farg : BitVec 26) :
    StaysIn st s (s.sendSymbol n fsym farg) := by
  refine ⟨rfl, fun m => ?_, fun _ _ => rfl, fun _ _ => rfl, fun _ => rfl, fun _ => rfl⟩
  unfold State.sendSymbol
  by_cases h : m = n
  · subst h; rw [sheaf_modSheaf_self]
  · rw [sheaf_modSheaf_ne _ _ _ _ h]

theorem foldl_staysIn {α : Type} (st : Fin 64) (f : State → α → State) (hf : ∀ s a, StaysIn st s (f s a)) (l : List α) (s : State) :
    StaysIn st s (l.foldl f s) := by
  induction l generalizing s with
  | nil => exact StaysIn.refl st s
  | cons a l ih => exact (hf s a).trans (ih _)

/-- A change of the partition that holds the Stall, in its dispatch, ORIGIN and hold tree only. -/
theorem modPart_staysIn (s : State) (st p : Fin 64) (f : Part → Part) (hp : s.owner st = some p)
    (hf : ∀ q : Part, f q = { q with disp := (f q).disp, origin := (f q).origin, tree := (f q).tree }) :
    StaysIn st s (s.modPart p f) := by
  refine ⟨rfl, fun _ => rfl, fun _ _ => rfl, fun q hq => ?_, fun q => ?_, fun _ => rfl⟩
  · have : q ≠ p := by rintro rfl; exact hq hp
    rw [part_modPart_ne _ _ _ _ this]
  · by_cases e : q = p
    · subst e; rw [part_modPart_self]; exact hf _
    · rw [part_modPart_ne _ _ _ _ e]

theorem receive_staysIn (s : State) (st : Fin 64) (f : Fin 65) (e : Event) : StaysIn st s (s.receive f e) := by
  have set : ∀ (s : State) (f : Fin 65) (ev : List Event) (lo : Word),
      StaysIn st s (s.setFunc f { s.func f with events := ev, elost := lo }) := fun s f ev lo => by
    refine ⟨rfl, fun _ => rfl, fun _ _ => rfl, fun _ _ => rfl, fun _ => rfl, fun g => ?_⟩
    by_cases h : g = f
    · subst h; rw [func_setFunc_self]
    · rw [func_setFunc_ne _ _ _ _ h]
  unfold State.receive
  dsimp only
  split
  · exact StaysIn.refl st s
  · split
    · split
      · exact ⟨rfl, fun _ => rfl, fun _ _ => rfl, fun _ _ => rfl, fun _ => rfl, fun _ => rfl⟩
      · refine StaysIn.trans (set s 0 (s.func 0).events (satAdd (s.func 0).elost 1)) ?_
        exact ⟨rfl, fun _ => rfl, fun _ _ => rfl, fun _ _ => rfl, fun _ => rfl, fun _ => rfl⟩
    · exact set s f _ _

theorem raise_staysIn (s : State) (st : Fin 64) (code : Half) (p : Option (Fin 64)) (tenant : Bool) (a0 a1 : Word) :
    StaysIn st s (s.raise code p tenant a0 a1) := by
  have h0 : ∀ b : Byte, StaysIn st s { s with chain := s.chain.attend b } := fun b =>
    ⟨rfl, fun _ => rfl, fun _ _ => rfl, fun _ _ => rfl, fun _ => rfl, fun _ => rfl⟩
  have h1 : ∀ (b : Byte) (e : Event), StaysIn st s (State.receive { s with chain := s.chain.attend b } 0 e) :=
    fun b e => (h0 b).trans (receive_staysIn _ st 0 e)
  have h2 : ∀ (b : Byte) (e : Event) (c : Bool) (f : Fin 65),
      StaysIn st s (if c = true then (State.receive { s with chain := s.chain.attend b } 0 e).receive f e
        else State.receive { s with chain := s.chain.attend b } 0 e) := fun b e c f => by
    split
    · exact (h1 b e).trans (receive_staysIn _ st f e)
    · exact h1 b e
  cases p with
  | none => exact h1 _ _
  | some q => exact h2 _ _ _ _

theorem sendPort_staysIn (s : State) (st : Fin 64) (k : Fin 8) (fsym : BitVec 4) (farg : BitVec 26) :
    StaysIn st s (s.sendPort k fsym farg) := by
  unfold State.sendPort State.sendTwice
  refine foldl_staysIn st _ (fun s n => ?_) _ s
  split
  · exact (sendSymbol_staysIn _ st n _ _).trans (sendSymbol_staysIn _ st n _ _)
  · exact sendSymbol_staysIn _ st n _ _

theorem flood_staysIn (s : State) (st p : Fin 64) (but : Option (Fin 8)) (fsym : BitVec 4) (cyc : Nat) :
    StaysIn st s (s.flood p but fsym cyc) := by
  unfold State.flood
  exact foldl_staysIn st _ (fun s k => sendPort_staysIn s st k _ _) _ s

theorem modDisp_staysIn (s : State) (st p : Fin 64) (f : Dispatch → Dispatch) (hp : s.owner st = some p) :
    StaysIn st s (s.modDisp p f) := modPart_staysIn s st p _ hp (fun _ => rfl)

theorem stopOwn_staysIn (s : State) (st p : Fin 64) (x rank : Nat) (status : Byte) (hp : s.owner st = some p) :
    StaysIn st s (s.stopOwn p x rank status) := by
  unfold State.stopOwn State.stopHere
  dsimp only
  have h1 := modDisp_staysIn s st p
    (fun d => { d with stop := some (Stop.least ⟨x + (s.part p).horizon, rank, status⟩ d.stop) }) hp
  have h2 := modPart_staysIn _ st p
    (fun q => { q with origin := if (s.part p).stopsFirst x = true then q.rank else q.origin })
    (by rw [h1.owner]; exact hp) (fun _ => rfl)
  exact (h1.trans h2).trans (flood_staysIn _ st p none 4 x)

theorem stopAt_staysIn (s : State) (st p : Fin 64) (x rank : Nat) (status : Byte) (hp : s.owner st = some p) :
    StaysIn st s (s.stopAt p x rank status) := by
  unfold State.stopAt
  split
  · exact StaysIn.refl st s
  · exact stopOwn_staysIn s st p x rank status hp

theorem running_owner {s : State} {st p : Fin 64} {d : Dispatch} (h : s.running st = some (p, d)) : s.owner st = some p := by
  unfold State.running at h
  split at h
  · cases h
  · split at h
    · cases h
    · cases h; assumption

/-- A stop of the running dispatch, where one runs. -/
theorem stopRunning_staysIn (s : State) (st : Fin 64) (x rank : Nat) (status : Byte) :
    StaysIn st s (match s.running st with | some (p, _) => s.stopAt p x rank status | none => s) := by
  split
  · next p d h => exact stopAt_staysIn s st p x rank status (running_owner h)
  · exact StaysIn.refl st s

/-- The same after a change that stays in the Stall. -/
theorem thenStop_staysIn {s u : State} {st : Fin 64} (x : Nat) (rank : Nat) (status : Byte) (h : StaysIn st s u) :
    StaysIn st s (match u.running st with | some (p, _) => u.stopAt p x rank status | none => u) :=
  h.trans (stopRunning_staysIn u st x rank status)

theorem bundleFault_staysIn (s : State) (st : Fin 64) (slot : Nat) (code : Byte) : StaysIn st s (s.bundleFault st slot code) := by
  unfold State.bundleFault
  refine thenStop_staysIn _ _ _ ?_
  split
  · exact StaysIn.refl st s
  · exact (modStl_staysIn s st _).trans (raise_staysIn _ st _ _ _ _ _)

theorem xlateFault_staysIn (s : State) (st : Fin 64) (kind agent : Byte) (row : Nat) (desc : Byte) (tag : Word)
    (write : Bool) : StaysIn st s (s.xlateFault st kind agent row desc tag write) := by
  unfold State.xlateFault
  refine thenStop_staysIn _ _ _ ?_
  split
  · exact modStl_staysIn s st _
  · exact (modStl_staysIn s st _).trans (raise_staysIn _ st _ _ _ _ _)

theorem breach_staysIn (s : State) (st : Fin 64) (kind slot : Byte) (tally row : Nat) :
    StaysIn st s (s.breach st kind slot tally row) := by
  unfold State.breach State.breachOf
  split
  · exact StaysIn.refl st s
  · dsimp only
    have h : StaysIn st s (if (s.stl st).hz.cap.valid = true then s.modHz st (fun h => { h with cap := (s.stl st).hz.cap.again })
        else (s.modHz st (fun h => { h with cap :=
          { Capture.none with valid := true, kind := kind, agent := slot, cc := BitVec.ofNat 64 s.cycle,
                              addr := pack [(tally, 19), (row % 32, 14), (row / 32, 0)] } })).raise 0x2003 (s.owner st) true
          (hzStatusWord { Capture.none with valid := true, kind := kind, agent := slot, cc := BitVec.ofNat 64 s.cycle,
                                            addr := pack [(tally, 19), (row % 32, 14), (row / 32, 0)] }) (stallArg st)) := by
      split
      · exact modStl_staysIn s st _
      · exact (modStl_staysIn s st _).trans (raise_staysIn _ st _ _ _ _ _)
    split
    · next q hq => exact h.trans (stopAt_staysIn _ st q _ _ _ (by rw [h.owner]; exact hq))
    · exact h

/-- With debug mode inactive the detector reports nothing. -/
@[simp] theorem breach_off (s : State) (st : Fin 64) (kind slot : Byte) (tally row : Nat) (h : s.sys.dbgOn = false) :
    s.breach st kind slot tally row = s := by simp [State.breach, State.breachOf, h]

theorem tallyUp_staysIn (s : State) (st : Fin 64) (i : Fin 512) (f : TallyCc → TallyCc) :
    StaysIn st s (s.tallyUp st i f) := by
  unfold State.tallyUp State.modSeq
  exact modStl_staysIn s st _

theorem tallyArrive_staysIn (s : State) (st : Fin 64) (c : Option (BitVec 9)) : StaysIn st s (s.tallyArrive st c) := by
  unfold State.tallyArrive
  split
  · exact StaysIn.refl st s
  · exact tallyUp_staysIn s st _ _

/-- What the counters of a cc show at its end stays in the Stall. -/
theorem settleOne_staysIn (s : State) (st : Fin 64) (c : TallyCc) : StaysIn st s (s.settleOne st c) := by
  unfold State.settleOne
  dsimp only
  have h1 : StaysIn st s (if c.under = true then s.breach st 0x0B 0 c.ctr 0 else s) := by
    split
    · exact breach_staysIn s st _ _ _ _
    · exact StaysIn.refl st s
  split
  · exact thenStop_staysIn _ _ _ ((h1.trans (modStl_staysIn _ st _)).trans (raise_staysIn _ st _ _ _ _ _))
  · exact h1

theorem mark_staysIn (s : State) (st p : Fin 64) (stamp : Nat) (up : Bool) (hp : s.owner st = some p) :
    StaysIn st s (s.mark p stamp up) := modPart_staysIn s st p _ hp (fun _ => rfl)

/-- Discarded Holds of other Stalls. -/
theorem dropHolds_staysIn (s : State) (st o : Fin 64) : StaysIn st s (s.modSeq o (fun q => { q with holds := [] })) := by
  refine ⟨rfl, fun _ => rfl, fun x hx => ?_, fun _ _ => rfl, fun _ => rfl, fun _ => rfl⟩
  by_cases h : x = o
  · subst h; rw [stl_modSeq_self]
  · rw [stl_modSeq_ne _ _ _ _ h]

theorem discardHolds_staysIn (s : State) (st p : Fin 64) (hp : s.owner st = some p) : StaysIn st s (s.discardHolds p) := by
  unfold State.discardHolds
  have key : ∀ (l : List (Fin 64)) (s : State), s.owner st = some p → StaysIn st s (l.foldl (fun s st =>
      let n := (s.stl st).seq.outstanding
      let s := s.modSeq st (fun q => { q with holds := [] })
      (List.range n).foldl (fun s _ => s.mark p s.cycle false) s) s) := by
    intro l
    induction l with
    | nil => intro s _; exact StaysIn.refl st s
    | cons o l ih =>
      intro s hs
      have h1 := dropHolds_staysIn s st o
      have h2 : ∀ (k : List Nat) (s : State), s.owner st = some p →
          StaysIn st s (k.foldl (fun s _ => s.mark p s.cycle false) s) := by
        intro k
        induction k with
        | nil => intro s _; exact StaysIn.refl st s
        | cons _ k ih2 =>
          intro s hs
          have h := mark_staysIn s st p s.cycle false hs
          exact h.trans (ih2 _ (by rw [h.owner]; exact hs))
      have h3 := h1.trans (h2 (List.range (s.stl o).seq.outstanding) _ (by rw [h1.owner]; exact hs))
      exact h3.trans (ih _ (by rw [h3.owner]; exact hs))
  exact key _ s hp

theorem addFault_staysIn (s : State) (st p : Fin 64) (g : StepFault) (hp : s.owner st = some p) :
    StaysIn st s (s.addFault p g) := by
  have h := modDisp_staysIn s st p (fun d => { d with faults := d.faults ++ [g] }) hp
  exact h.trans (discardHolds_staysIn _ st p (by rw [h.owner]; exact hp))

/-- A step fault of a Stall's access stays in it. -/
theorem stepFault_staysIn (s : State) (st : Fin 64) (row : Nat) (curable : Bool) : StaysIn st s (s.stepFault st row curable) := by
  unfold State.stepFault
  split
  · exact StaysIn.refl st s
  · next p d h =>
    have hp := running_owner h
    have h1 := addFault_staysIn s st p ⟨s.cycle, st, row, false, none⟩ hp
    have h2 := h1.trans (mark_staysIn _ st p s.cycle true (by rw [h1.owner]; exact hp))
    split
    · exact stopAt_staysIn s st p _ _ _ hp
    · split
      · exact StaysIn.refl st s
      · exact h2.trans (flood_staysIn _ st p _ _ _)

theorem poison_staysIn (s : State) (st : Fin 64) (p : Nat) (finder : BitVec 2) : StaysIn st s (s.poison st p finder) := by
  unfold State.poison
  dsimp only
  split
  · exact StaysIn.refl st s
  · split <;> exact (modStl_staysIn s st _).trans (raise_staysIn _ st _ _ _ _ _)

theorem readPhys_staysIn (s : State) (st : Fin 64) (p : Nat) (finder : BitVec 2) : StaysIn st s (s.readPhys st p finder).1 := by
  unfold State.readPhys
  dsimp only
  split
  · exact poison_staysIn s st p finder
  · exact StaysIn.refl st s

theorem readSched_staysIn (s : State) (st : Fin 64) (p : Nat) : StaysIn st s (s.readSched st p).1 := by
  unfold State.readSched
  have h := readPhys_staysIn s st p 1
  dsimp only
  split
  · exact h
  · exact h.trans (stepFault_staysIn _ st _ _)

theorem lose_staysIn (s : State) (st : Fin 64) (slot : Byte) (p : Nat) (collision : Bool) :
    StaysIn st s (s.lose st slot p collision) :=
  (modStl_staysIn s st _).trans (breach_staysIn _ st _ _ _ _)

theorem hzRead_staysIn (s : State) (st : Fin 64) (a : Agent) (row : Nat) : StaysIn st s (s.hzRead st a row) := by
  unfold State.hzRead
  dsimp only
  split
  · exact StaysIn.refl st s
  · have tail : ∀ u : State, StaysIn st s u → StaysIn st s (if ((s.stl st).hz.wrote.contains row || (s.stl st).hz.reads.contains row)
        = true then u else u.modHz st (fun h => { h with reads := row :: h.reads })) := fun u hu => by
      split
      · exact hu
      · exact hu.trans (modStl_staysIn u st _)
    refine tail _ ?_
    repeat' split
    all_goals first
      | exact StaysIn.refl st s
      | exact breach_staysIn s st _ _ _ _

theorem hzWrite_staysIn (s : State) (st : Fin 64) (slot : Byte) (row : Nat) : StaysIn st s (s.hzWrite st slot row) := by
  unfold State.hzWrite
  dsimp only
  split
  · exact StaysIn.refl st s
  · have tail : ∀ u : State, StaysIn st s u → StaysIn st s (if (s.stl st).hz.wrote.contains row = true
        then u else u.modHz st (fun h => { h with wrote := row :: h.wrote })) := fun u hu => by
      split
      · exact hu
      · exact hu.trans (modStl_staysIn u st _)
    refine tail _ ?_
    repeat' split
    all_goals first
      | exact StaysIn.refl st s
      | exact breach_staysIn s st _ _ _ _

/-- An engine's read of a row stays in its Stall. -/
theorem readRow_staysIn (s : State) (st : Fin 64) (a : Agent) (perm : Perm) (row : Nat) :
    StaysIn st s (s.readRow st a perm row).1 := by
  unfold State.readRow
  dsimp only
  split
  · exact xlateFault_staysIn s st _ _ _ _ _ _
  · split
    · exact lose_staysIn s st _ _ _
    · exact ((modStl_staysIn s st _).trans (hzRead_staysIn _ st a row)).trans (readSched_staysIn _ st _)

/-- An engine's write of a row stays in its Stall. -/
theorem writeRow_staysIn (s : State) (st : Fin 64) (a : Agent) (row : Nat) (r : Row) (mask : Word) :
    StaysIn st s (s.writeRow st a row r mask) := by
  unfold State.writeRow
  dsimp only
  split
  · exact xlateFault_staysIn s st _ _ _ _ _ _
  · split
    · exact lose_staysIn s st _ _ _
    · exact ((modStl_staysIn s st _).trans (hzWrite_staysIn _ st _ row)).trans (modStl_staysIn _ st _)

theorem readRows_staysIn (st : Fin 64) (a : Agent) (perm : Perm) (l : List Nat) (got : Tab Row) (s : State) :
    StaysIn st s (s.readRows st a perm got l).1 := by
  induction l generalizing s got with
  | nil => exact StaysIn.refl st s
  | cons e l ih =>
    unfold State.readRows
    split
    · exact ih got s
    · exact (readRow_staysIn s st a perm e).trans (ih _ _)

theorem writeRows_staysIn (st : Fin 64) (a : Agent) (l : List Row) (base : Nat) (s : State) :
    StaysIn st s (s.writeRows st a base l) := by
  induction l generalizing s base with
  | nil => exact StaysIn.refl st s
  | cons r l ih => exact (writeRow_staysIn s st a base r _).trans (ih _ _)

theorem tableFault_staysIn (s : State) (st : Fin 64) (row : Nat) : StaysIn st s (s.tableFault st row) :=
  (poison_staysIn s st row 1).trans (stepFault_staysIn _ st row _)

theorem record_staysIn (s : State) (st : Fin 64) (w : Word) : StaysIn st s (s.record st w).1 := by
  unfold State.record
  dsimp only
  split
  · split
    · exact tableFault_staysIn s st _
    · exact StaysIn.refl st s
  · exact StaysIn.refl st s

theorem descriptor_staysIn (s : State) (st : Fin 64) (d : Nat) : StaysIn st s (s.descriptor st d).1 := by
  unfold State.descriptor
  dsimp only
  split
  · split
    · exact tableFault_staysIn s st _
    · exact StaysIn.refl st s
  · exact StaysIn.refl st s

/-- An operation's first cycle and its place among the operations in progress stay in its Stall. -/
theorem startOp_staysIn (s : State) (st : Fin 64) (cc : State → Op → State × Op) (o : Op)
    (h : ∀ (s : State) (o : Op), StaysIn st s (cc s o).1) : StaysIn st s (s.startOp st cc o) := by
  unfold State.startOp
  exact (h s o).trans (modStl_staysIn _ st _)

theorem busyDrop_staysIn (s : State) (st : Fin 64) (slot : Nat) : StaysIn st s (s.busyDrop st slot) := breach_staysIn s st _ _ _ _

end Sys2Proof
end

