-- ==== Sys2Proof/Tests/Slice0.lean ====
section
/-! SUPPORT. Small tests of the model: the well-formedness checks, and for each statement with hypotheses a state and
operands that meet them. -/

namespace Sys2Proof.Tests

open Sys2Proof Sys2Proof.Machine

set_option Elab.async false

/-! Small states. -/

/-- The state that a command answers. -/
def after (c : Instr) (s : State) : State := match exec c s with
  | .next t => t
  | _ => s

def pkt (words : List Word) (fn : Fin 65 := 0) (low : Nat := 0) : Packet :=
  { fn := fn, low := BitVec.ofNat 24 low, tag := 7, idx := 0, words := Vector.ofFn fun i : Fin 14 => words.getD i.val 0 }

def img : Image :=
  { bytes := [], length := 0, spanSize := 1, streamed := false, hold := true, shape := 1, horizon := 64, hopLat := 1,
    boundG := 0, boundH := 0, boundD := 0, timeout := 1, foot := 1, descLine := 0, recLine := 0, entries := [(0, 8)],
    size := [], nsec := 0, placed := 1, backing := none }

def disp : Dispatch :=
  { pkt := some (pkt []), entry := 0, length := 8, start := 0, sched := 200, frozen := false, wasFrozen := false,
    zskip := false, reruns := 0, rerunOf := [], padOver := 0, hkMiss := false, freezePs := 0, stop := none, faults := [], cut := false, restored := false,
    closing := false }

/-- One window over the whole scratchpad, with every permission. -/
def allWin : Window := ⟨true, true, true, true, true, true, 0, 12288, 0⟩

/-- Partition 0 with Stall 0, which runs a dispatch in schedule cycle 200. -/
def stallRuns : Stall :=
  { Stall.reset with
    power := .s0, seq := { Seq.reset with state := .issuing, sched := 200 },
    xl := { Xlate.reset with win := Xlate.reset.win.set 0 allWin } }
def partRuns : Part := { Part.reset with state := 2, stalls := 1, image := some img, disp := some disp }
def runs : State := ({ State.reset with cycle := 1000, now := 9000000, pwr := { Pwr.reset with mstate := 1 } }.setStl 0 stallRuns).setPart 0 partRuns

/-- The same with no dispatch running. -/
def idles : State := (runs.modPart 0 fun q => { q with disp := none }).modSeq 0 fun q => { q with state := .idle }

/-! Ill-formed commands are refused, one for each check of `Instr.wf`. -/

theorem test_wf_write : Instr.wf (.registerWrite .mp 0x000002#24 0) = false := by decide
theorem test_wf_read : Instr.wf (.rsRegisterRead .mp 0x000001#24) = false := by decide
theorem test_wf_low : Instr.wf (.lowWordRead .mp 0x000003#24) = false := by decide
theorem test_wf_aligned : Instr.wf (.misalignedRegisterAccess .mp 0x000004#24 32 true) = false := by decide
theorem test_wf_control : Instr.wf (.tallySet 0 (BitVec.ofNat 96 (2 ^ 89))) = false := by decide
theorem test_wf_engine : Instr.wf (.caLoad 0 0x02000000) = false := by decide
theorem test_wf_lock : Instr.wf (.lockAcquire .keys 100001) = false := by decide
theorem test_wf_lock_zero : Instr.wf (.lockAcquire .keys 0) = false := by decide
theorem test_wf_enable : Instr.wf (.cmdqEnable 0 0x7FFFFFFF) = false := by decide
theorem test_wf_disable : Instr.wf (.cmdqDisable 0 0x80000000) = false := by decide
theorem test_wf_channel : Instr.wf (.thermalTrip 18 200) = false := by decide
theorem test_wf_frame : Instr.wf (.setNode ⟨1, 0, 0x05, [], 0⟩) = false := by decide
theorem test_wf_warm : Instr.wf (.sysResetWarm 0x52530002) = false := by decide
theorem test_wf_cold : Instr.wf (.sysResetCold 0x52530001) = false := by decide
theorem test_wf_ering : Instr.wf (.eringEnable 0 0) = false := by decide
theorem test_wf_vfs : Instr.wf (.pcieConfigAccess (some 65)) = false := by decide

/-! Statements on control operations, rows and lanes: states and operands that meet the hypotheses. -/

theorem witness_running : runs.issues 0 = true ∧ runs.running 0 = some (0, disp) ∧ runs.sys.dbgOn = false := by decide

def ctl (opc f : Nat) : BitVec 96 := BitVec.ofNat 96 (opc * 2 ^ 88 + f)
def eng (opc f : Nat) : Word := BitVec.ofNat 32 (opc * 2 ^ 24 + f)
def loops1 : State := runs.modSeq 0 fun q => { q with loops := q.loops.set 7 ⟨1, 3⟩ }

theorem witness_ControlWritesState : loops1.issues 0 = true ∧ ctlExtra (ctl 3 (0xF0000000000000001)) [(67, 0)] = false ∧
    ctlExtra (ctl 0x10 (0x7FFFFFF)) [(26, 0)] = false ∧ fld (ctl 0x10 (0x7FFFFFF)) 23 0 ≠ 0 ∧
    ctlExtra (ctl 0x11 (0x7003FFF)) [(26, 24), (13, 0)] = false ∧ ((loops1.stl 0).seq.loopStart 7).cur ≠ 0 ∧
    ctlExtra (ctl 0x12 0x3FFF) [(13, 0)] = false ∧ ctlExtra (ctl 6 0xFFFFFF) [(23, 0)] = false ∧
    fld (ctl 6 0xFFFFFF) 23 0 ≠ 0 := by decide

theorem witness_TallyOpsCount : runs.issues 0 = true ∧ runs.sys.dbgOn = false ∧
    (511 : Fin 512) = ctrIx (BitVec.ofNat 9 (fld (ctl 2 (0x1FF000000)) 32 24)) ∧ (runs.stl 0).seq.ccs = [] ∧
    ctlExtra (ctl 1 (0x1FF000000)) [(32, 0)] = false ∧ ctlExtra (ctl 2 (0x1FF000000)) [(33, 0)] = false ∧
    fld (ctl 2 (0x1FF000000)) 23 0 ≤ (runs.stl 0).seq.tally[511].toNat := by decide +kernel
theorem witness_TallyOpsCount_hold : ctlExtra (ctl 2 1) [(33, 0)] = false ∧ (runs.stl 0).seq.tally[0].toNat < fld (ctl 2 1) 23 0 ∧
    (runs.stl 0).seq.outstanding < 16 ∧ runs.running 0 = some (0, disp) ∧ disp.faults = [] ∧
    (runs.part 0).disp = some disp ∧ (runs.part 0).image = some img ∧ img.hold = true := by decide

theorem readable_row : Readable runs 0 0 0 := ⟨rfl, by decide, by decide, by decide⟩
theorem witness_RowsOfControl : ctlExtra (ctl 4 0) [(87, 7)] = false ∧ fld (ctl 4 0) 87 84 ≤ 8 ∧ fld (ctl 4 0) 61 58 ≤ 8 ∧
    fld (ctl 4 0) 64 63 ≠ 3 ∧ (ctlRow 0 0 ((runs.stl 0).seq.iter 0)).toNat = 0 ∧
    outRange (ctlRow (fld (ctl 4 0) 83 65) (fld (ctl 4 0) 19 7) ((runs.stl 0).seq.iter 0)) 1 = false ∧
    ctlExtra (ctl 5 0) [(87, 47)] = false ∧ fld (ctl 5 0) 64 60 % 2 = 0 ∧ ctlExtra (ctl 0x30 0) [(87, 33)] = false ∧
    outRange (ctlRow 0 0 ((runs.stl 0).seq.iter 0)) (32 * (0 + 1)) = false ∧
    ctlRow 0 0 ((runs.stl 0).seq.iter 0) % 32 = 0 ∧ (runs.stl 0).busy 0 = false ∧
    fld (ctl 0x30 0) 64 51 + 128 * (fld (ctl 0x30 0) 50 46 + 1) ≤ 16384 := by decide

def runs2 : State := (runs.modPart 0 fun q => { q with stalls := 3 }).setStl 1 stallRuns
def idling : State := runs.modSeq 0 fun q => { q with idleTo := some 200 }
theorem witness_StepBoundaries : ctlExtra (ctl 0x20 0xFFFFFFFF) [(31, 0)] = false ∧ ctlExtra (ctl 0x21 15) [(3, 0)] = false ∧
    ctlExtra (ctl 0x3F 0) [] = false ∧ runs2.issues 0 = true ∧ runs2.running 0 = some (0, disp) ∧
    (1 : Fin 64) ∈ (runs2.part 0).members ∧ (runs2.stl 1).seq.endedAt = none ∧ idling.issues 0 = true ∧
    (idling.stl 0).seq.idleTo = some 200 ∧ 200 ≤ (idling.stl 0).seq.sched := by decide
theorem witness_EndOfDispatch : disp.stop = none ∧ disp.faults = [] ∧ (runs.part 0).cnt[8].toNat < 2 ^ 64 - 1 ∧
    (runs.part 0).queue = [] ∧ ∀ o ∈ (runs.part 0).members, o ≠ 0 → (runs.stl o).seq.endedAt.isSome = true := by decide
theorem witness_EndOfDispatch_stop : ({ disp with stop := some ⟨1064, 1, stFaulted⟩ } : Dispatch).stop ≠ none := by decide
def lineOk : State := runs.modSeq 0 fun q => { q with valid := 1, loops := q.loops.set 7 ⟨2, 3⟩ }
theorem witness_ControlWritesState_line : lineOk.issues 0 = true ∧ (lineOk.stl 0).seq.noBundle = false ∧
    (lineOk.stl 0).seq.badBundle = false ∧ ((loops1.stl 0).seq.loopStart 7).cur = 1 ∧ 1 < ((lineOk.stl 0).seq.loopStart 7).cur := by
  decide
theorem witness_BundleFaultsStop : runs.issues 0 = true ∧ runs.running 0 = some (0, disp) ∧ disp.stop = none ∧
    (runs.stl 0).seq.noBundle = true ∧ ctlExtra (ctl 0x12 0x4000) [(13, 0)] = true ∧ ctlExtra (ctl 0x10 0x7000000) [(26, 0)] = false ∧
    fld (ctl 0x10 0x7000000) 23 0 = 0 ∧ ((runs.stl 0).seq.loopStart (fld (ctl 0x11 0) 26 24)).cur = 0 ∧
    fld (ctl 6 0) 23 0 = 0 := by decide
def cntOp : Op := ctlOpOf 4 2 (.count 0 5)
def scycOp : Op := ctlOpOf 5 2 (.words 0 30 [1, 2])
theorem witness_RowsOfControl_ops : cntOp.t + 1 = cntOp.len ∧ scycOp.t + 1 = scycOp.len ∧
    (runs.stl 0).pad.mem.wf = true ∧ (runs.stl 0).seq.ccs = [] ∧ 30 + [(1 : Word), 2].length ≤ 32 := by decide
theorem witness_RowsOfControl_write : Writable runs 0 0 0 := ⟨rfl, by decide⟩

/-! Registers (21 Tables 21.4, 21.5): 0x013000 lies between blocks; the chain has no path to write SEC. -/
theorem witness_NoPathAccess : regAt .mp 0x013000#24 = none ∧ regAt .chain 0x055000#24 = some (.sec 0) ∧
    mayWrite .chain (.sec 0) = false ∧ regAt .sp 0x400000#24 = some (.stall 0 0) ∧ mayRead .sp (.stall 0 0) = false := by decide
theorem witness_RegisterReads : regAt (.host 0) 0x053010#24 = some (.chain 0x10) ∧
    runs.regVal (.chain 0x10) = some (.word 0) ∧ runs.reaches (.host 0) (.chain 0x10) false = true ∧ runs.lockWas = none ∧
    Machine.Reg.rs (.chain 0x10) = true ∧ runs.regVal (.ledger 0 0x78) = some (.low 0) ∧ runs.regVal (.ledger 0 0x7C) = some .high := by
  decide
theorem witness_RegisterWrites : runs.fab.lock = none ∧ runs.bridgeOk 0 = (runs.sys.stallOk.getLsbD 0 && runs.bridgeOk 0) ∧
    (0x3F07FC#22).toNat = 0x10000 * 63 + 4 * 511 := by decide

/-! Engines. A descriptor with the format bits of a Cube Array descriptor and zero precision fields: linear, one bit, unsigned. -/

def caDesc : State := runs.modXl 0 fun x => { x with descFile := [(3, 0x10)] }
def loadOp (t : Nat) : Op := { begun (caAgent 0 0) (caAgent 0 0) 1 512 512 (.load 0 0 0 1 false false) with t := t }
def caBusy : State := (caDesc.modCa 0 fun c => { c with loading := true }).modStl 0 fun x => { x with ops := [loadOp 512] }
def caDone : State := caDesc.modCa 0 fun c => { c with loading := true }
def caTile : State := caDesc.modCa 0 fun c => { c with valid := true }

theorem witness_CubeLoads : CubeIssues caDesc 0 (eng 1 0) false ∧ CubeIssues caBusy 0 (eng 1 0) false ∧
    outRange (addrAt caDesc 0 (eng 1 0) 0) (256 * ((precAt caDesc 0 (eng 1 0)).wbits + 1)) = false ∧
    addrAt caDesc 0 (eng 1 0) 0 % 32 = 0 ∧ (precAt caDesc 0 (eng 1 0)).book = false ∧ (precAt caDesc 0 (eng 1 0)).tset = false ∧
    (caDesc.stl 0).busy 1 = false ∧ (caBusy.stl 0).busy 1 = true ∧
    caBusy.sys.dbgOn = false ∧ (caDone.stl 0).ca.loading = true ∧ (caDone.stl 0).ops.any Op.isLoad = false ∧
    (caBusy.stl 0).ops.any Op.isLoad = true ∧ loadLine 0 0 0 1 false false 448 = some (0, 28672, 224) ∧
    (caDesc.stl 0).ca.tile.wf = true := by
  unfold CubeIssues SlotIssues descSound; decide +kernel

theorem mod_inj32 (i j : Nat) (hi : i < 32) (hj : j < 32) (h : id i % 32 = id j % 32) : i = j := by
  simpa [Nat.mod_eq_of_lt hi, Nat.mod_eq_of_lt hj] using h
def okAt (e : Except Byte Nat) (i : Nat) : Bool := match e with | .ok p => p == i | .error _ => false
theorem ok_of (e : Except Byte Nat) (i : Nat) (h : okAt e i = true) : e = .ok i := by
  cases e with
  | ok p => simpa [okAt] using h
  | error b => simp [okAt] at h
/-- The first 32 rows, each in a bank of its own. -/
theorem rows_readable : RowsReadable runs 0 0 32 id :=
  ⟨fun i h => ⟨ok_of _ _ ((by decide +kernel : ∀ i : Nat, i < 32 → okAt ((runs.stl 0).xl.check (0 + i) .read false) i = true) i h), rfl, rfl, rfl⟩, mod_inj32⟩
theorem rows_writable : RowsWritable runs 0 0 32 id := 
  ⟨fun i h => ⟨ok_of _ _ ((by decide +kernel : ∀ i : Nat, i < 32 → okAt ((runs.stl 0).xl.check (0 + i) .write true) i = true) i h), rfl⟩,
    mod_inj32⟩

/-- Zero-skip with a budget of 1 cc. -/
def caSkip : State := (caTile.modXl 0 fun x => { x with descFile := [(3, 0x10), (10, 0x10)] }).modSeq 0 fun q => { q with recFile := [(20, 1)] }

theorem witness_CubeRuns : CubeIssues caTile 0 (eng 2 0) false ∧ CubeIssues caTile 0 (eng 3 0) true ∧ CubeIssues caSkip 0 (eng 2 0) false ∧
    (caTile.stl 0).ca.wenc = (precAt caTile 0 (eng 2 0)).book ∧ (caTile.stl 0).ca.wbits.toNat = (precAt caTile 0 (eng 2 0)).wbits ∧
    (caTile.stl 0).ca.tset = (precAt caTile 0 (eng 2 0)).tset ∧ (caTile.stl 0).ca.wsign = (precAt caTile 0 (eng 2 0)).wsign ∧
    (caTile.stl 0).ca.valid = true ∧ (precAt caTile 0 (eng 2 0)).zskip = false ∧ (precAt caSkip 0 (eng 2 0)).zskip = true ∧
    fld (recordAt caSkip 0 (eng 2 0))[5] 19 0 ≠ 0 ∧ (caSkip.stl 0).ca.valid = true ∧ (caTile.stl 0).busy 1 = false ∧
    outRange (addrAt caTile 0 (eng 4 0) 0) (1 * (precAt caTile 0 (eng 4 0)).rs) = false ∧
    outRange (addrAt caTile 0 (eng 2 0) 0) 4 = false := by
  unfold CubeIssues SlotIssues descSound; decide +kernel
theorem witness_CubeRuns_cycles : ([] : List Row).length = min (32 * 0) (4 * ((precAt caTile 0 (eng 2 0)).abits + 1)) ∧
    0 + 1 = ((precAt caTile 0 (eng 2 0)).abits + 1) *
      (if (precAt caTile 0 (eng 2 0)).book then 3 else (precAt caTile 0 (eng 2 0)).wbits + 1) ∧
    0 + 1 < ((⟨0x400000, 0⟩ : Prec).abits + 1) * (if (⟨0x400000, 0⟩ : Prec).book then 3 else (⟨0x400000, 0⟩ : Prec).wbits + 1) ∧
    (⟨0x400000, 0⟩ : Prec).zskip = false ∧ ([] : List Row).length = min (32 * 0) (4 * ((⟨0x400000, 0⟩ : Prec).abits + 1)) := by decide +kernel
theorem witness_CubeSums : Cube.reset.wenc = false ∧ Tab.rising none Cube.reset.acc = true ∧ 31 < 32 := by decide

def runOp : Op := begun (caAgent 0 0) (caAgent 0 0) 2 300 300 (.run ⟨0, 0⟩ false false 0 0 1 0 0 0 [])
def skipping (left : Nat) (raised : Bool) (ops : List Op) : State :=
  (runs.modCa 0 fun x => { x with zs := some ⟨left, raised⟩ }).modStl 0 fun x => { x with ops := ops }
def skipHeld : State := (skipping 0 true []).modSeq 0 fun q => { q with holds := [⟨none, 990, 190, none⟩] }
theorem witness_CubeZeroSkip :
    ((skipping 1 false [runOp]).stl 0).ca.zs = some ⟨1, false⟩ ∧ (skipping 1 false [runOp]).running 0 = some (0, disp) ∧
    ((skipping 0 false [runOp]).stl 0).ca.zs = some ⟨0, false⟩ ∧ ((skipping 0 false [runOp]).stl 0).ops.any Op.isRun = true ∧
    ((skipping 0 false [runOp]).stl 0).seq.outstanding < 16 ∧ img.hold = true ∧ disp.faults = [] ∧
    (skipping 0 false [runOp]).running 0 = some (0, disp) ∧ ((skipping 0 false []).stl 0).ops.any Op.isRun = false ∧
    ((skipping 0 false []).stl 0).seq.holds.any RaisedHold.isRun = false ∧ (skipHeld.stl 0).ca.zs = some ⟨0, true⟩ ∧
    (skipHeld.stl 0).seq.holds.any RaisedHold.isRun = true ∧ skipHeld.running 0 = some (0, disp) := by decide +kernel

/-- A rank 1 descriptor of 1 × 32 words of 4 bytes: one row. -/
def teDesc : State := runs.modXl 0 fun x => { x with descFile := [(2, 0x40), (3, 0x12), (16, 1), (20, 32), (52, 1), (56, 1)] }
theorem witness_LayoutOps : (teDesc.issues 0 && !slotBad (eng 1 0) && !teRecBad (recordAt teDesc 0 (eng 1 0)) &&
      !(teDesc.stl 0).busy 4) = true ∧
    descSound teDesc 0 0 ∧ (descAt teDesc 0 0).bad (teDesc.stl 0).xl.mesh = false ∧ (descAt teDesc 0 0).fits (descAt teDesc 0 0) = true ∧
    outRange (descAt teDesc 0 0).base ((descAt teDesc 0 0).rows (teDesc.stl 0).xl.mesh) = false ∧
    (descAt teDesc 0 0).slice (teDesc.stl 0).xl.mesh = some 1 ∧ (descAt teDesc 0 0).rows (teDesc.stl 0).xl.mesh = 1 ∧
    (teDesc.stl 0).pad.mem.wf = true := by unfold descSound; decide +kernel
theorem witness_LayoutOps_path : movePath (descAt teDesc 0 0) (descAt teDesc 0 0) (teDesc.stl 0).xl.mesh = some .row := by decide +kernel
theorem witness_LayoutOps_fill : RowsWritable teDesc 0 0 1 id :=
  ⟨fun i h => ⟨ok_of _ _ ((by decide +kernel : ∀ i : Nat, i < 1 → okAt ((teDesc.stl 0).xl.check (0 + i) .write true) i = true) i h), rfl⟩,
    fun i j hi hj _ => by omega⟩

/-- One vector of INT32 constants, and one of LNS16 constants. -/
def veConsts : State := runs.modSeq 0 fun q => { q with recFile := [(17, 0xA8), (18, 2)] }
def leConsts : State := runs.modSeq 0 fun q => { q with recFile := [(17, 0xA8)] }
theorem lane_ready_ve : LaneReady veConsts 0 (eng 1 0) (veOp 0x01 4 2 2 [0, 1, 2]) :=
  ⟨by decide +kernel, by decide +kernel, by decide +kernel, by decide +kernel, by decide +kernel⟩
theorem lane_ready_le : LaneReady leConsts 0 (eng 1 0) (leOp 0x01 2 2) :=
  ⟨by decide +kernel, by decide +kernel, by decide +kernel, by decide +kernel, by decide +kernel⟩
def leOpIn (t : Nat) : Op := { laneIssued leConsts 0 (eng 1 0) (leOp 0x01 2 2) [(List.replicate 512 7, 1, 2)] with t := t }
def leBusy : State := leConsts.modStl 0 fun x => { x with ops := [leOpIn 1] }
theorem witness_LaneOpsAccepted : LaneReady leConsts 0 (eng 1 0) (leOp 0x01 2 2) ∧ (leBusy.stl 0).busy 2 = true := 
  ⟨lane_ready_le, by decide +kernel⟩
theorem rows_result (s : State) (h : ∀ i : Nat, i < 8 → Writable s 0 i i) : RowsWritable s 0 0 8 id :=
  ⟨fun i hi => by simpa using h i hi, fun i j hi hj h => mod_inj32 i j (by omega) (by omega) h⟩
theorem witness_LaneOpsAccepted_result : (leOp 0x01 2 2).lat 0 ≤ (leOpIn 2).t ∧ (List.replicate 512 7).length = (leOp 0x01 2 2).lanes 0 ∧
    (laneRec leConsts 0 (eng 1 0)).fmt = 0 ∧ (laneRec leConsts 0 (eng 1 0)).tgt ≤ 2 ∧ (laneRec leConsts 0 (eng 1 0)).res = 0 ∧
    (leOp 0x01 2 2).lanes 0 * (leOp 0x01 2 2).er 0 0 / 128 = 8 ∧ (leOp 0x01 2 2).seg = false ∧
    (leConsts.stl 0).pad.mem.wf = true := by decide +kernel
theorem witness_LaneOpsAccepted_rows : RowsWritable leConsts 0 0 8 id :=
  rows_result leConsts fun i h =>
    ⟨ok_of _ _ ((by decide +kernel : ∀ i : Nat, i < 8 → okAt ((leConsts.stl 0).xl.check i .write true) i = true) i h), rfl⟩
theorem witness_LogLanes : ConstRun leConsts 0 (eng 1 0) (leOp 0x01 2 2) := ⟨lane_ready_le, by decide +kernel⟩
theorem witness_VectorLanes : ConstRun veConsts 0 (eng 1 0) (veOp 0x01 4 2 2 [0, 1, 2]) ∧ (laneRec veConsts 0 (eng 1 0)).fmt = 2 :=
  ⟨⟨lane_ready_ve, by decide +kernel⟩, by decide +kernel⟩
def packRec : State := runs.modSeq 0 fun q => { q with recFile := [(16, 15), (17, 8)] }
theorem witness_LaneConstantsAndPack : (packRec.stl 0).seq.recBadAt (slotRec (eng 0x16 0)) = false ∧
    (slotBad (eng 0x16 0) || vecRecBad (recordAt packRec 0 (eng 0x16 0))) = false ∧ (laneRec packRec 0 (eng 0x16 0)).n % 16 = 0 ∧
    (laneRec packRec 0 (eng 0x16 0)).mode 0 = 2 ∧ (laneRec packRec 0 (eng 0x16 0)).res % 8 = 0 ∧
    outRange (laneRec packRec 0 (eng 0x16 0)).res (4 * (laneRec packRec 0 (eng 0x16 0)).abits * 1) = false ∧
    (laneRec packRec 0 (eng 0x16 0)).fmt ≤ 2 ∧ (packRec.stl 0).writeOrder true 21 = false ∧
    outRange ((laneRec runs 0 (eng 0x12 0)).base 0) 1 = false ∧ ((laneRec runs 0 (eng 0x12 0)).base 0).toNat = 0 ∧
    (runs.stl 0).busy 2 = false ∧ (runs.stl 0).busy 3 = false ∧ runs.paused 0 = false := by decide +kernel
def ldcOp : Op := { begun (laneAgent false) (laneAgent false) 0x12 1 2 (.ldc false [5]) with t := 2 }
def ldcLast : State := runs.modStl 0 fun x => { x with ops := [ldcOp] }
theorem witness_LaneConstantsAndPack_load : (ldcLast.stl 0).ops = [ldcOp] ∧ ldcOp.len ≤ ldcOp.t ∧ ldcLast.paused 0 = false := by decide

/-- LNS16: 1 times 1 is 1, and the product of the two largest negative numbers is the largest positive (05 R154). -/
theorem test_lns_one : (lnsMul 0 0).code = 0 := by decide +kernel
theorem test_lns_sat : (lnsMul 0xBFFF 0xBFFF).code = 0x3FFF := by decide +kernel
theorem test_lns_zero : (lnsMul 0x4000 0xBFFF).code = 0x4000 := by decide +kernel

/-! The Hop Engine and the Market. -/

def sendOp1 : Op := begun heAgent heAgent 1 2 2 (.send 0 0 2 1 none 0)
def sendBusy : State := runs.modStl 0 fun x => { x with ops := [sendOp1] }
def pktOf (n : Nat) : DynPkt :=
  { kind := 0, node := 0, stall := 0, src := 0, part := 0, win := 0, off := n, first := n = 0, ready := 0,
    arr := { row := 0, data := Row.zero, bad := 0, ctr := none, span := 0, sheaf := false, src := some 0, via := .plain } }
def readsX : State := runs.modHe 0 fun h => { h with queue := [⟨false, [], 2, 9⟩] }
theorem witness_HopSends_read : (⟨false, [], 2, 9⟩ : Xfer) ∈ (readsX.stl 0).he.queue ∧ [pktOf 0, pktOf 1] ≠ [] ∧
    [pktOf 0, pktOf 1].length ≤ 2 + 4 ∧ 2 ≤ [pktOf 0, pktOf 1].length ∧ readsX.running 0 = some (0, disp) := by decide
def fetchRec : State := runs.modSeq 0 fun q => { q with recFile := [(19, 0x80)] }
theorem witness_HopSends : (runs.issues 0 = true ∧ (runs.stl 0).seq.recBadAt (slotRec (eng 1 0)) = false ∧ slotBad (eng 1 0) = false) ∧
    xBad (recordAt runs 0 (eng 1 0)) = false ∧ xDkind (recordAt runs 0 (eng 1 0)) = 0 ∧ fld (recordAt runs 0 (eng 1 0))[4] 19 18 ≠ 3 ∧
    outRange (addrAt runs 0 (eng 1 0) 0) (xRows (recordAt runs 0 (eng 1 0))) = false ∧
    outRange (addrAt runs 0 (eng 1 0) 1) (xRows (recordAt runs 0 (eng 1 0))) = false ∧
    (runs.stl 0).busy 5 = false ∧ (sendBusy.stl 0).busy 5 = true ∧ (∀ x ∈ (runs.stl 0).he.queue, x.left ≠ 0 ∧ x.fid < runs.fab.nextId) ∧ fld (recordAt runs 0 (eng 1 0))[4] 11 5 = 0 ∧ (runs.stl 0).he.issues < 16 ∧
    xDkind (recordAt fetchRec 0 (eng 3 0)) = 2 ∧ xBad (recordAt fetchRec 0 (eng 3 0)) = false ∧
    xHub (recordAt fetchRec 0 (eng 3 0)) ((fetchRec.stl 0).seq.iter 0) % 128 = 0 := by decide +kernel

def arr : Arrival := { row := 5, data := Row.zero, bad := 0, ctr := some 3, span := 9, sheaf := false, src := none, via := .plain }
def spans : State := runs.modXl 0 fun x => { x with spanId := some 9 }
def flies : State := { spans with flights := [{ part := 0, due := 200, node := 0, inp := none, arr := arr }] }
def buffered : State := spans.modPad 0 fun d => { d with rx := [arr] }
theorem arr_passes : flies.pass 0 arr = .ok 5 ∧ buffered.pass 0 arr = .ok 5 := ⟨rfl, rfl⟩
theorem witness_ArrivalsLand : arr.bad = 0 ∧ (flies.stl 0).seq.ccs = [] ∧ (flies.stl 0).pad.mem.wf = true ∧
    (flies.stl 0).seq.tally[ctrIx 3].toNat < 0xFFFFFF ∧ Tab.rising none (flies.stl 0).pad.poison = true ∧
    flies.running 0 = some (0, disp) ∧ disp.frozen = false ∧ 200 ≤ disp.sched ∧ flies.bankFree 0 5 = true ∧
    (buffered.stl 0).pad.rx = [arr] ∧ buffered.bankFree 0 5 = true ∧
    (buffered.modPad 0 fun d => { d with first := [37] }).bankFree 0 5 = false ∧
    ((buffered.modPad 0 fun d => { d with first := [37] }).stl 0).pad.defers 5 = false ∧
    ((buffered.modPad 0 fun d => { d with acc := [(5, false)] }).stl 0).pad.defers 5 = true := by decide +kernel
def deferredIn : State := spans.modPad 0 fun d => { d with deferred := [arr] }
theorem witness_ArrivalsLand_deferred : deferredIn.pass 0 arr = .ok 5 := rfl
theorem witness_ArrivalsLand_deferred' : (deferredIn.stl 0).pad.deferred = [arr] ∧ arr.via ≠ .refetch ∧ arr.bad = 0 ∧
    (deferredIn.stl 0).seq.ccs = [] ∧ (deferredIn.stl 0).pad.mem.wf = true ∧ Tab.rising none (deferredIn.stl 0).pad.poison = true := by
  decide +kernel

def dyn : DynPkt :=
  { kind := 0, node := 0, stall := 0, src := 1, part := 0, win := 0, off := 0, first := true, ready := 0, arr := arr }
def routed : State := runs.modRt 0 fun r => { r with inq := r.inq.set 1 [dyn] }
def fetchReq (kind : BitVec 2) : FetchReq :=
  { stall := 0, part := 0, span := 0, kind := kind, addr := 0, rows := [7], ctr := none, fid := 0, since := 0 }
def fetching : State := { runs with fab := { runs.fab with fetches := runs.fab.fetches.set 0 [(5, fetchReq 1)] } }
theorem witness_PacketsAndFetches : (routed.stl 0).rt.held.contains 4 = false ∧ (routed.stl 0).rt.sent.contains 4 = false ∧
    routed.waiting 0 4 1 = some dyn ∧ (∀ i : Fin 5, routed.waiting 0 1 i = none) ∧
    (∀ k : Nat, k < 5 → fin 4 (((routed.stl 0).rt.rr[(4 : Fin 5)]).val + k) = 1 → ∀ j : Nat, j < k →
      routed.waiting 0 4 (fin 4 (((routed.stl 0).rt.rr[(4 : Fin 5)]).val + j)) = none) ∧
    (routed.stl 0).pad.rx.length < 64 ∧
    (fetching.fab.fetches[(0 : Fin 4)].take 128).find? (fun e => e.1 = 5) = some (5, fetchReq 1) ∧
    (fetching.fab.fetches[(1 : Fin 4)].take 128).find? (fun e => e.1 = 5) = none := by decide +kernel
/-- A Granary request of a fetch, behind an older one of the HM. -/
def behind : State := { runs with gran := { runs.gran with avail := true }, fab := { runs.fab with fetches := runs.fab.fetches.set 0 [(6, { fetchReq 2 with since := 5 }), (7, { fetchReq 2 with since := 1 })] } }
theorem witness_PacketsAndFetches_turn :
    (behind.fab.fetches[(0 : Fin 4)].take 128).find? (fun e => e.1 = 6) = some (6, { fetchReq 2 with since := 5 }) ∧
    behind.granWaits 2 5 = true := by decide +kernel

def refetch : Refetch := ⟨9, 36, 0, none⟩
/-- A Granary with one good block, block 9. -/
def goodGran : Granary := { Granary.reset with avail := true, crc := [(9, crc32 (Granary.reset.block 9))] }
theorem good_block : goodGran.blockOk 9 = true := decide_eq_true (rfl : crc32 (Granary.reset.block 9) = crc32 (Granary.reset.block 9))
def refetching : State :=
  (({ runs with now := 10000000000, gran := goodGran }.modPad 0 fun d =>
    { d with refWait := [12], refOut := [refetch], poison := [(9, (.refetching, 1))] }).modXl 0 fun x =>
      { x with backed := x.backed.set 0 ⟨true, 0, 32, 0⟩ })
theorem witness_RefetchesRestore : (refetching.stl 0).pad.refWait = 12 :: [] ∧ (refetching.stl 0).pad.refOut.length < 16 ∧
    (refetching.stl 0).xl.backedBy 12 = some ⟨true, 0, 32, 0⟩ ∧ (runs.stl 0).pad.refWait = [] ∧
    (refetching.stl 0).pad.refOut.find? (fun r => r.row = 9) = some refetch ∧
    (refetching.stl 0).pad.refOut.find? (fun r => r.row = 9 && r.data.isNone) = some refetch ∧ refetching.granWaits 1 0 = false ∧
    (refetching.stl 0).pad.refOut.find? (fun r => r.row = 10) = none ∧ refetching.gran.avail = true ∧
    refetching.bankFree 0 9 = true ∧ refetch.gran.toNat / 4 = 9 ∧
    (refetching.stl 0).pad.mem.wf = true ∧ Tab.rising none (refetching.stl 0).pad.poison = true ∧
    refetch.since + 10000000000 ≤ refetching.now ∧ runs.now < refetch.since + 10000000000 ∧
    (refetching.stl 0).pad.poison.get? 9 = some (.refetching, 1) := by decide +kernel

def scrubbing (w : List (Fin 32)) (ticks : Nat) : State := runs.modPad 0 fun d => { d with scrubWait := w, scrubTicks := ticks }
def bridged : State := { runs with sys := { runs.sys with stallOk := 1, stemUp := Vector.replicate 4 true } }
def reading (row : BitVec 19) (s : State) : State := { s with sys := { s.sys with rowBusy := true, rowStall := 0, rowRow := row } }
def lockedP0 (s : State) : State := { s with fab := { s.fab with lock := some (.partition 0), lockTo := 9000001 } }
theorem glean_checks : (runs.stl 0).xl.check 393216 .glean false = .error 1 ∧ (runs.stl 0).xl.check 393215 .glean false = .ok 393215 :=
  ⟨rfl, rfl⟩
theorem witness_ScrubberAndBridge : (runs.stl 0).scrubs = true ∧ ((scrubbing [] 16).stl 0).pad.scrubWait = [] ∧
    ((scrubbing [] 16).stl 0).pad.scrubIssued + 16 ≤ 16 ∧ ((scrubbing [31] 16).stl 0).pad.scrubWait.contains 31 = true ∧
    ((scrubbing [31] 16).stl 0).pad.scrubHot.contains 31 = false ∧ (scrubbing [31] 16).bankFree 0 31 = true ∧
    ((scrubbing [31] 16).stl 0).pad.parityBad 31 = false ∧ ((scrubbing [] 393217).stl 0).pad.scrubTold = false ∧
    ((scrubbing [] 393217).stl 0).pad.scrubPass + 393216 < 393217 ∧ runs.sys.rowBusy = false ∧
    bridged.bridgeOk 0 = true ∧ runs.bridgeOk 0 = false ∧ (reading 393215 bridged).bridgeOk 0 = true ∧
    (reading 393215 bridged).stallLocked 0 = false ∧ ((reading 393215 bridged).stl 0).pad.scrubHot = [] ∧ runs.fab.drainTo = none ∧ (reading 393215 bridged).bankFree 0 (393215 % 32) = true ∧
    (lockedP0 (reading 393215 bridged)).stallLocked 0 = true ∧ (lockedP0 (reading 393215 bridged)).bridgeOk 0 = true ∧
    (reading 393216 bridged).sys.rowRow.toNat = 393216 := by decide +kernel

/-! Dispatches. Image `img` has HORIZON 64: a Hold raised in cycle 936 freezes in cycle 1000. -/

def withDisp (f : Dispatch → Dispatch) (fr : List (Nat × Option Nat)) : State :=
  runs.modPart 0 fun q => { q with disp := some (f disp), tree := { q.tree with freezes := fr } }
def aFault : StepFault := ⟨930, 0, 4, false, some 998⟩
def aRec : StepRec := ⟨0, 1, 1, Vector.replicate 512 0, 0, Vector.replicate 8 ⟨0, 0⟩, Vector.replicate 16 ⟨0, 0⟩⟩
def frozenF (cut restored : Bool) : State :=
  (withDisp (fun d => { d with frozen := true, faults := [aFault], cut := cut, restored := restored }) []).modSeq 0 fun q => { q with recs := [aRec] }
def holding : State := runs.modSeq 0 fun q => { q with holds := [⟨some (511, 0, true), 999, 199, none⟩] }
theorem witness_FreezesBeginAndEnd_cut : ((frozenF false false).part 0).disp =
      some { disp with frozen := true, faults := [aFault], cut := false, restored := false } ∧
    aFault.f + ((frozenF false false).part 0).horizon ≤ (frozenF false false).cycle ∧ (frozenF false false).paused 0 = true ∧
    ((frozenF false false).stl 0).seq.holds.any RaisedHold.isRun = false := by decide +kernel
theorem witness_FreezesBeginAndEnd : (runs.part 0).disp = some disp ∧ disp.frozen = false ∧ disp.stopDue 1000 = false ∧
    ((withDisp id [(936, none)]).part 0).tree.freezes.any (freezeNow ((withDisp id [(936, none)]).part 0).horizon 1000) = true ∧
    ((withDisp id [(937, none)]).part 0).tree.freezes.any (freezeNow 64 1000) = false ∧
    ((withDisp (fun d => { d with frozen := true }) [(900, some 936)]).part 0).thawed 1000 = true ∧
    (holding.stl 0).seq.holds = [⟨some (511, 0, true), 999, 199, none⟩] ∧ (holding.stl 0).seq.ccs = [] ∧
    (0 : BitVec 24).toNat ≤ (holding.stl 0).seq.tally[ctrIx 511].toNat ∧ holding.running 0 = some (0, disp) := by decide +kernel

def posted : State := idles.modPart 0 fun q => { q with queue := [⟨some (pkt []), 0, some 1000⟩] }
theorem witness_DispatchStarts : (posted.part 0).disp = none ∧ (posted.part 0).queue = [⟨some (pkt []), 0, some 1000⟩] ∧
    (posted.part 0).image = some img ∧ 1000 ≤ posted.cycle ∧
    (∀ st : Fin 64, Tab.rising none (posted.stl st).seq.store = true) := by decide +kernel

theorem witness_DispatchesEnd : ((frozenF true false).part 0).disp =
      some { disp with frozen := true, faults := [aFault], cut := true, restored := false } ∧
    ({ disp with frozen := true, faults := [aFault], cut := true } : Dispatch).governing = some aFault ∧
    ((frozenF true false).part 0).members = [0] ∧
    ((frozenF true false).part 0).cured { disp with frozen := true, faults := [aFault], cut := true } 1000 = true ∧
    restoreRec ((frozenF true false).part 0).horizon aFault.f ((frozenF true false).stl 0).seq.recs = some aRec ∧
    ((frozenF true true).part 0).thawed 1000 = true ∧ ((frozenF true true).stl 0).seq.recs.head? = some aRec ∧
    (({ disp with stop := some ⟨1000, 1, 6⟩ } : Dispatch).stop = some ⟨1000, 1, 6⟩ ∧ 1000 ≤ runs.cycle) ∧
    img.timeout * 30517579 < 30517580 ∧ ({ disp with frozen := true, freezePs := 30517580 } : Dispatch).stopDue 1000 = false := by
  decide +kernel

def anEnd : Ended := ⟨pkt [], 0, [1, 2, 3, 4, 5, 6]⟩
theorem witness_DispatchReplies : ((idles.modPart 0 fun q => { q with ended := [anEnd] }).part 0).ended = anEnd :: [] ∧
    idles.hubPending 0 = false ∧ (idles.part 0).halt = none ∧ bit (1 : Word) 0 ≠ runs.sys.dbgEn ∧ bit (2 : Word) 0 = runs.sys.dbgEn ∧
    runs.fab.drainTo = none := by
  decide +kernel

/-! Links. -/

def sheafIs (f : Sheaf → Sheaf) (now : Nat := 9000000) : State := { runs with now := now }.modSheaf 0 f
def inState (x : SheafState) (now : Nat := 9000000) : State := sheafIs (fun h => { h with state := x }) now
def goodFrame : BitVec 85 := BitVec.ofNat 85 (0x10000 + (crc8 (0x10000 : BitVec 85) 64).toNat * 2 ^ 64)
def capRec : CapRecord := ⟨BitVec.ofNat 32 (5 * 65536 + 256 * facing 0), 0, 0, 0, 0, 0⟩
def capAckRec : CapRecord := { capRec with w0 := capRec.w0 ||| 0x80000000 }
def capEstab : CapRecord := { capRec with w8 := 0x80000000 }
def inCaps (c : CapRecord) (seen probes : Nat) (aligned : Bool) : State :=
  (sheafIs fun h => { h with state := .caps, cap := some c, capSeen := seen, probes := probes, aligned := aligned, markAt := some (0, 990) })

/-- A sheaf in LOCK whose last lane lacks one marker. -/
def locking : State := sheafIs fun h => { h with
  state := .lock, markers := (Vector.replicate 16 3).set 15 2,
  laneAt := (Vector.replicate 16 (some 9000000)).set 15 (some (9000000 - markerPs)), cleanAt := 0 }
theorem witness_SheavesTrain : ((inState .detect).sheaf 0).state = .detect ∧ ((inState .detect).sheaf 0).pulses < 2 ∧
    ((sheafIs fun h => { h with state := .detect, pulses := 2 }).sheaf 0).pulses = 2 ∧
    ((inState .train).sheaf 0).state = .train ∧ (crc8 goodFrame 64).toNat = fld goodFrame 71 64 ∧ bit goodFrame 16 = true ∧
    ((inState .train).sheaf 0).frames < 7 ∧ ((sheafIs fun h => { h with state := .train, frames := 7 }).sheaf 0).frames = 7 ∧
    commaRead ((commaUi (commaWord 15 0 1 3)).take 96 ++ (commaUi (commaWord 15 0 1 3)).drop 96) = some (false, commaWord 15 0 1 3) ∧ commaRead (List.replicate 96 .p3 ++ List.replicate 74 .p3) = none ∧
    commaRead ((commaUi (commaWord 15 0 1 3)).map Pam.neg) = some (true, commaWord 15 0 1 3) ∧
    spaced (locking.sheaf 0).laneAt[(15 : Fin 16)] locking.now = true ∧ 2 ≤ (locking.sheaf 0).markers[(15 : Fin 16)] ∧
    (∀ l : Fin 16, l ≠ 15 → 3 ≤ (locking.sheaf 0).markers[l] ∧ (locking.sheaf 0).laneAt[l] = some locking.now) ∧
    (locking.sheaf 0).cleanAt + codewordPs 256 ≤ locking.now ∧ (locking.sheaf 0).state = .lock ∧
    spaced ((inState .lock).sheaf 0).laneAt[(15 : Fin 16)] 9000000 = false ∧
    ((sheafIs (fun h => { h with state := .detect, pulseAt := some 1 }) 100000001).sheaf 0).pulseAt = some 1 ∧ 1 + 100000000 ≤ 100000001 ∧
    ((inState .active).modPort (sheafPort 0) fun x => { x with width := some 3 }).port (sheafPort 0) =
      { (inState .active).port (sheafPort 0) with width := some 3 } ∧
    ((inCaps capAckRec 3 64 true).sheaf 0).cap = some capAckRec ∧ bit capAckRec.w0 31 = true ∧
    ((inCaps capAckRec 3 64 true).sheaf 0).aligned = true ∧
    ((inState .active).port (sheafPort 0)).width = none ∧
    ((sheafIs fun h => { h with state := .active, atMark := some 1 }).sheaf 0).atMark = some 1 ∧
    ((inState .train 50000000000).sheaf 0).since + 50000000000 ≤ (inState .train 50000000000).now ∧
    ((inState .lock 1000000000).sheaf 0).since + 1000000000 ≤ (inState .lock 1000000000).now ∧
    ((inState .caps 10000000000).sheaf 0).since + 10000000000 ≤ (inState .caps 10000000000).now ∧
    ((inState .blind 1000000000).sheaf 0).since + 1000000000 ≤ (inState .blind 1000000000).now ∧
    (inState .blind 1000000000).sys.stemAt + 1000000000 ≤ (inState .blind 1000000000).now := by decide +kernel

theorem witness_CountsAlign : ((inCaps capRec 2 64 false).sheaf 0).state = .caps ∧ (inCaps capRec 2 64 false).miscabled 0 capRec = false ∧
    ((inCaps capRec 2 64 false).sheaf 0).cap = some capRec ∧ ((inCaps capRec 2 64 false).sheaf 0).selfLoop = false ∧
    BitVec.ofNat 13 (fld capRec.w0 28 16) ≠ (inCaps capRec 2 64 false).me ∧ (inCaps capRec 2 64 false).link.estab = false ∧
    bit capRec.w8 31 = false ∧ (inCaps capRec 2 64 false).me < BitVec.ofNat 13 (fld capRec.w0 28 16) ∧
    bit capEstab.w8 31 = true ∧ ((inCaps capEstab 2 64 false).sheaf 0).markAt = some (capEstab.m, 990) ∧
    (inCaps capEstab 2 64 false).miscabled 0 capEstab = false ∧ fld { capRec with w0 := 0x10 }.w0 5 4 ≠ sheafIndex 0 ∧
    ((inCaps capRec 2 62 false).sheaf 0).probes < 63 ∧ ((inState .active).sheaf 0).foreign = false := by decide +kernel

def spanned (f : Sheaf → Sheaf) : State := (sheafIs fun h => f { h with state := .active }).modPart 0 fun q => { q with span := some 9, spanState := 2 }
def rowTag (stamp : Nat) : BitVec 64 := mkTag 1 9 5 none 0 (8 * stamp)
def rxDelay : State := spanned fun h => { h with delayBuf := [⟨rowTag 199, Row.zero⟩] }
theorem witness_LinkRowsFlow : (spanned id).rowLate (rowTag 300) = some (0, 3995) ∧ ((spanned id).sheaf 0).foreign = false ∧
    (rxDelay.sheaf 0).delayBuf = [⟨rowTag 199, Row.zero⟩] ∧ rxDelay.rowLate (rowTag 199) = some (0, 0) ∧
    (rxDelay.part 0).disp = some disp ∧ (spanned id).ringSheaf 0 = false ∧ ((1 : BitVec 10) - ((spanned id).sheaf 0).rxE).toNat < 512 ∧
    ((spanned id).sheaf 0).nakTo = none ∧ (spanned id).rowLate (rowTag 300 ||| 0x2000000000000000) = none ∧ ((spanned id).sheaf 0).delayBuf.length < 4096 ∧
    ((spanned fun h => { h with tx := { h.tx with sched := [(0, Row.zero)] } }).sheaf 0).tx.sched = [(0, Row.zero)] ∧
    ((spanned fun h => { h with tx := { h.tx with recs := [(4, [1, 2])] } }).sheaf 0).tx.recs = [(4, [1, 2])] ∧
    ((spanned fun h => { h with tx := { h.tx with again := [(0, dyn)] } }).sheaf 0).tx.again = [(0, dyn)] ∧
    ((spanned fun h => { h with unacked := [(1023, dyn)] }).sheaf 0).unacked ≠ [] ∧
    ((spanned fun h => { h with unacked := [(1023, dyn)] }).sheaf 0).ackAt + 4000000 ≤ (spanned id).now ∧
    ((spanned fun h => { h with nakTo := some (0, 9000000) }).sheaf 0).nakTo = some (0, 9000000) := by decide +kernel

def linkArg (node kind mask : Nat) : BitVec 26 := BitVec.ofNat 26 (node * 8192 + kind * 1024 + mask * 128)
def asked (j : LinkJob) (now : Nat := 100000000) : State :=
  ({ (inState .active now) with link := { Link.reset with node := some 5 } }.modPort 0 fun x => { x with job := some j })
def aJob : LinkJob := ⟨1, 1, some 3, 1, 0, none, false, false, none⟩
theorem witness_LinkRequestsResolve : fld (linkArg 0 1 1) 12 10 = 1 ∧ fld (linkArg 0 2 7) 12 10 = 2 ∧
    ((inState .active).port (sheafPort 0)).job = none ∧ ((asked aJob).port (sheafPort 0)).job = some aJob ∧
    (asked aJob).me.toNat < fld (linkArg 6 1 1) 25 13 ∧ fld (linkArg 4 1 1) 25 13 < (asked aJob).me.toNat ∧
    fld (linkArg 5 1 1) 25 13 = (asked aJob).me.toNat ∧ fld (linkArg 5 1 1) 12 10 = aJob.kind.toNat ∧
    fld (linkArg 5 1 1) 9 7 = aJob.mask.toNat ∧ aJob.last + 100000000 ≤ (asked aJob).now ∧
    ((asked { aJob with sends := 8 }).port 0).job = some { aJob with sends := 8 } ∧
    ((asked { aJob with back := some 100000000 }).port 0).job = some { aJob with back := some 100000000 } ∧
    ((asked aJob).sheaf 0).state = .active ∧ ((asked aJob).sheaf 0).atMark = none ∧
    ((asked aJob).port (sheafPort 0)).heard = [] ∧ ((asked { aJob with met := true }).port 0).job = some { aJob with met := true } ∧
    ((asked { aJob with kind := 2 }).port 0).job = some { aJob with kind := 2 } ∧ ((asked aJob).port 0).retrain &&& 1 = 0 ∧
    ((sheafIs fun h => { h with state := .active, missRun := h.missRun.set 4 2 }).sheaf 0).missRun[(4 : Fin 16)] = 2 ∧
    64 < (((sheafIs fun h => { h with state := .active, uncTimes := List.replicate 65 9000000 }).sheaf 0).uncTimes.filter fun t0 =>
      decide ((sheafIs id).now < t0 + 1000000000)).length ∧
    ((inState .active).modPort 0 fun x => { x with heard := [(9, linkArg 6 1 1, 8950000)] }).now < 8950000 + 100000 := by decide +kernel

/-! Spans: partition 0 in a formed span 9, whose parent is port 0 and whose child is port 1. -/

def member : Part := { partRuns with span := some 9, spanState := 2, h := 64, isRoot := false, parent := 0, kids := 2, rank := 1, sizeM1 := 2 }
def inSpan : State := ((inState .active).setPart 0 member).modSheaf 3 fun h => { h with state := .active }
def holdSym (cyc : Nat) : BitVec 26 := holdArg (some 9) cyc
def spanTree (m : List (Nat × Bool)) : State := inSpan.modPart 0 fun q => { q with tree := { q.tree with marks := m } }
def rerunnable : State := inSpan.modSeq 0 fun q => { q with recs := [aRec] }
theorem witness_HoldTreeCarries : (inSpan.sheaf 0).state = .active ∧ (inSpan.sheaf 3).state = .active ∧
    inSpan.spanPart (BitVec.ofNat 12 (fld (holdSym 990) 25 14)) = some 0 ∧ nearest 1000 (fld (holdSym 990) 13 0) = 990 ∧
    (inSpan.part 0).disp = some disp ∧ (inSpan.port (sheafPort 0)).heard = [] ∧ sheafPort 3 ∈ (inSpan.part 0).childPorts ∧
    sheafPort 0 ∉ (inSpan.part 0).childPorts ∧ (inSpan.part 0).isRoot = false ∧ (sheafPort 0).val = (inSpan.part 0).parent.toNat ∧
    inSpan.cycle ≤ 990 + (inSpan.part 0).horizon ∧ inSpan.cycle ≤ 990 + 24 + (inSpan.part 0).height ∧
    sheafPort 0 ∈ (inSpan.part 0).treePorts ∧ disp.faults = [] ∧ inSpan.canRerun 0 disp 990 = false ∧ (rerunnable.part 0).disp = some disp ∧ rerunnable.canRerun 0 disp 990 = true ∧ inSpan.ringSheaf 3 = false ∧
    ((spanTree [(900, true)]).part 0).tree.marks = [(900, true)] ∧ ((spanTree [(900, true)]).part 0).tree.sent = [] ∧
    900 + 24 + ((spanTree [(900, true)]).part 0).height ≤ (spanTree [(900, true)]).cycle ∧
    ((spanTree [(900, true)]).part 0).top = false ∧ ((runs.modPart 0 fun q => { q with isRoot := true }).part 0).top = true := by
  decide +kernel

def joinJob : Job := ⟨pkt [], 0x13, 1, 0, none, false, none⟩
def joins : State := ((inState .active 1000000000000).modSheaf 3 fun h => { h with state := .active }).setPart 0
  { partRuns with disp := none, span := some 9, spanState := 1, isRoot := false, parent := 0, rank := 1, sizeM1 := 2, job := some joinJob,
                  nbs := [⟨0, 0, none⟩, ⟨1, 2, none⟩] }
def formRec (d : BitVec 384) (h : Option Nat) : FormRecord := ⟨9, d, 0, 0, 0, 0, 0, h⟩
def postRec (start : Nat) : PostRecord := { span := 9, entry := 0, start := start }
theorem witness_SpansFormAndFail : (joins.sheaf 0).state = .active ∧ joins.joining 9 (sheafPort 0) = some 0 ∧
    (formRec 1 none).digest ≠ (joins.part 0).digest ∧ (formRec 0 (some 64)).digest = (joins.part 0).digest ∧ (formRec 0 (some 8192)).digest = (joins.part 0).digest ∧
    (joins.part 0).isRoot = false ∧ (sheafPort 0).val = (joins.part 0).parent.toNat ∧
    ((joins.part 0).nbs.any fun b => b.port ≠ (sheafPort 0).val && b.form.isNone) = true ∧
    (joins.part 0).job = some joinJob ∧ joinJob.since + 1000000000000 ≤ joins.now ∧
    inSpan.spanPart (postRec 1001).span = some 0 ∧ (inSpan.part 0).head = false ∧ inSpan.cycle < (postRec 1001).start ∧
    (postRec 1000).start ≤ inSpan.cycle ∧
    ((inSpan.modPort 5 fun x => { x with downAt := some 0 }).port 5).downAt = some 0 ∧ inSpan.activeOf 5 = [] ∧
    inSpan.link.lost = [] ∧ inSpan.link.restored = [] ∧
    ({ inSpan with link := { inSpan.link with lost := [(1, 2)] } } : State).link.isLost 2 1 = true ∧ sheafPort 0 ∈ (inSpan.part 0).treePorts := by
  decide +kernel

/-! The ring: two members, of which this module is the second; sheaf 0 comes from the first. -/

def ringMember (node : BitVec 13) (out : BitVec 3) : RingEntry := ⟨false, 0, node, out, 0, 10, 64⟩
def ringOf (me : Nat) (f : Ring → Ring) : State :=
  (inState .active).modSheaf 0 (fun h => { h with far := some (10, 0, 0) }) |> fun s =>
    { s with ring := f { Ring.reset with id := 9, revLen := 65536, width := 1, table := [ringMember 10 0, ringMember 11 1], me := me,
                                         part := some 0 } }
/-- Take entry 0 is LAST and takes row 0 of frame 0, with ARM counter 0. -/
def ringRun (arm : BitVec 24) : State :=
  (((ringOf 1 fun r => { r with state := 3, t0 := some 0, acceptAt := some 0 }).modTk 0 fun t => { t with file := [(3, 0x80)] }).modSeq 0
    fun q => { q with tally := q.tally.set 0 arm })
def frameTag (row : Nat) : BitVec 64 := BitVec.ofNat 64 (2 ^ 62 + 9 * 2 ^ 50 + row * 2 ^ 20)
def atOrigin (f : Ring → Ring) (cyc : Nat) : State := { ringOf 0 f with cycle := cyc }

theorem witness_RingTurns : (ringOf 1 id).ringIn 0 = some 0 ∧ ((ringOf 1 id).sheaf 0).state = .active ∧
    (ringOf 1 fun r => { r with acceptAt := some 0 }).ring.acceptAt.isSome = true ∧ (ringOf 1 id).ring.state = 0 ∧
    fld (markerArg 9 1 0) 13 12 = 1 ∧ fld (markerArg 9 3 4095) 13 12 = 3 ∧ fld (markerArg 9 0 1) 25 14 = (ringOf 1 id).ring.id.toNat ∧
    fld (frameTag 0) 63 62 = 1 ∧ fld (frameTag 0) 61 50 = (ringRun 1).ring.id.toNat ∧ (ringRun 1).ring.state = 3 ∧
    ((ringRun 1).part 0).disp = some disp ∧ ((ringRun 1).part 0).members = [0] ∧
    (((ringRun 1).stl 0).tk.window.filter fun x => ((ringRun 1).stl 0).tk.frame x = fld (frameTag 0) 49 28) = [0] ∧
    ((ringRun 1).stl 0).tk.first 0 = fld (frameTag 0) 27 20 ∧ ((ringRun 1).stl 0).tk.active = [] ∧
    ((ringRun 1).stl 0).seq.ccs = [] ∧ 1 ≤ ((ringRun 1).stl 0).seq.tally[ctrIx (((ringRun 1).stl 0).tk.arm 0)].toNat ∧
    ((ringRun 0).stl 0).seq.tally[ctrIx (((ringRun 0).stl 0).tk.arm 0)].toNat = 0 ∧
    fld (BitVec.ofNat 64 (2 ^ 63 + 9 * 2 ^ 50)) 63 62 = 2 ∧
    (ringOf 1 fun r => { r with state := 3, t0 := some 0, frames := [(926, 0)] }).ring.phase 1000
      ((ringOf 1 id).ring.offset 1) = some 926 ∧
    (ringOf 1 fun r => { r with state := 3, t0 := some 0, frames := [(926, 0)] }).ring.hurt = [] ∧
    (⟨1000, 0, frameTag 0, Row.zero⟩ : HeldRow).due ≤ (ringRun 1).cycle ∧
    (131072 % 65536 = 0 ∧ 0 + 131072 ≤ (atOrigin (fun r => { r with acceptAt := some 0 }) 131072).cycle) ∧
    (atOrigin (fun r => { r with state := 1, calOk := some true, t0 := some 131072 }) 196608).ring.me = 0 ∧
    (196608 - 131072) % (ringOf 0 id).ring.revLen.toNat = 0 ∧
    ((atOrigin (fun r => { r with state := 3, haltReq := true, part := none }) 196608).ring.haltReq = true) ∧
    (atOrigin (fun r => { r with state := 4, offAt := some 196608 }) 196608).ring.offAt = some 196608 := by decide +kernel
/-- A boundary marker at the tap of a member in CALIBRATE, and a halt marker. -/
def inbox (kind : Nat) : State := ringOf 1 fun r => { r with state := 1, t0 := some 0, acceptAt := some 0, inbox := [(1000, kind, 5)] }
theorem witness_RingTurns_inbox : (inbox 0).ring.inbox = [(1000, 0, 5)] ∧ 1000 ≤ (inbox 0).cycle ∧ (inbox 0).ring.me ≠ 0 ∧
    (inbox 0).ring.state = 1 ∧ (inbox 2).ring.inbox = [(1000, 2, 5)] ∧ (inbox 2).cycle < 1000 + (inbox 2).ring.revLen.toNat ∧
    ((ringRun 1).stl 0).tk.done = [] ∧ ((ringRun 1).ring.tap.filter fun x => x.1 = 0).length < 4096 ∧
    (∀ m ∈ (ringRun 1).ring.inbox, (ringRun 1).cycle < m.1) ∧ (0 : Nat) < (ringRun 1).ring.width := by decide +kernel

/-! Serving: a context of 16 slots with one request, whose prompt of one token is fed in this round. -/

def aReq : Request :=
  { tag := 5, ring := 0, plen := 1, maxNew := 2, stop := 0xFFFFFFFF, aen := false, aslot := 0, gen := 0, copy := false, pre := 0, blocks := [],
    keys := [], adm := 0, pos := 0, first := true, emitted := 0, last := 0, tokens := [3] }
def aCtx : Serving :=
  { state := 1, status := 0, fn := 1, slots := 16, tps := 1, inMask := 1, inBase := 0, inCtr := 0, admBase := 16, admRows := 1, outWin := 0,
    kvBlocks := 1, maxCtx := 32, glean := 0, gEntries := 0, gStall := 0, gRoot := 0, reqRing := (0x1000, 16), repRings := [(0x2000, 16)],
    reqs := [(0, aReq)], index := [], overflow := [], blocked := false, kvWait := false, kvTold := [], round := none, outRows := 1,
    outToks := [(0, 42, true)], stage := 0, choices := 0, acks := 0, removed := [], closeReq := none, swapDue := false,
    admitting := none }
def up (s : State) : State := { s with chain := { s.chain with perstN := true }, sys := { s.sys with stage := 7 } }
def serves (f : Serving → Serving) (g : Part → Part := id) : State :=
  up (inSpan.modPart 0 fun q => g { q with ctx := some (f aCtx), rank := 0 })
def served (k : List Word) : Packet := pkt k 1
def openWords : List Word := [0x01000000, 1, 0, 0, 0x00080010, 1, 32, 0, 0, 1, 0x3000, 0, 0, 0]
def ringsAt : Mem := ([(0x3001, 0x10), (0x3008, 0x10), (0x3011, 0x20), (0x3018, 0x10)] : Mem)
def opening : State := { up ((idles.modPart 0 fun q => { q with image := some img })) with host := ringsAt }
def hubRow (w : Hwin) : State :=
  { runs with fab := { runs.fab with hubq := runs.fab.hubq.set 0 [{ dyn with kind := 1 }] }, gran := { goodGran with dir := [(7, ⟨0, 8192, 0, 0, none, 0, false⟩)] } }.modPart 0
    fun q => { q with hwin := q.hwin.set 0 w, hubBase := 1, hubPages := 1 }

theorem witness_CutsAndChoices : (serves id).locked (.serve 0 (0x40 + 8 * 15)) = false ∧ (serves id).locked (.serve 0 0x10) = false ∧
    ((serves id).part 0).ctx = some aCtx ∧ aCtx.state = 1 ∧ fld (15 : Word) 11 0 < aCtx.reqRing.2 ∧ aCtx.reqRing.2 ≤ fld (16 : Word) 11 0 ∧
    aCtx.slots / 16 ≤ aCtx.outRows ∧ aReq.emits aCtx.tps = true ∧ aCtx.outToks.get? 0 = some (42, true) ∧ aReq.emitted + 1 < aReq.maxNew ∧
    (serves id).host.wf = true ∧ (serves id).pcieUp = true ∧ ((serves id).part 0).reqHead = ((serves id).part 0).tailWas ∧ aCtx.closeReq = none ∧ aCtx.overflow = [] ∧ (serves id).fab.drainTo = none ∧
    (∀ j : Fin 16, ((serves id).part 0).adapters[j].job = none ∧ ((serves id).part 0).adapters[j].retireJob = none) ∧
    ringNext ((serves id).part 0).repTail[(0 : Fin 16)] 16 ≠ ((serves id).part 0).repHead[(0 : Fin 16)] ∧
    (serves fun c => { c with stage := 1, choices := 1 }).serveWaiting 0 = false ∧ ((serves id).part 0).treePorts ≠ [] ∧
    ((serves id fun q => { q with kids := 0, isRoot := true }).part 0).treePorts = [] ∧ ((serves id).part 0).holdsPost = false := by decide +kernel
theorem witness_CutsAndChoices_packets : (serves id).refuse (served []) headRing [] = none ∧ ((serves id).part 0).busyP = false ∧
    ((serves fun c => { c with state := 2 }).part 0).ctx = some { aCtx with state := 2 } ∧
    inSpan.spanPart 9 = some 0 ∧ sheafPort 3 ∈ (inSpan.part 0).treePorts ∧ (inSpan.part 0).head = false ∧ (inSpan.sheaf 3).state = .active ∧
    (serves id).spanPart 9 = some 0 ∧ sheafPort 3 ∈ ((serves id).part 0).treePorts ∧ ((inSpan.modPart 0 fun q => { q with ackWait := 1 }).part 0).ackTo = none ∧
    ((serves fun c => { c with stage := 2, acks := 2 }).part 0).ctx = some { aCtx with stage := 2, acks := 2 } ∧ aCtx.blocked = false ∧
    ((inSpan.part 0).ctx = none ∧ ((inSpan.modPart 0 fun q => { q with ackWait := 1 }).part 0).ackWait ≠ 0) ∧
    ((serves fun c => { c with stage := 2, acks := 1 }).part 0).ctx = some { aCtx with stage := 2, acks := 1 } ∧
    opening.refuse (served openWords) headRing serveMasks = none ∧ opening.serveBad 0 (opening.serveArgs (served openWords)) = false ∧
    (opening.part 0).ctx = none ∧ (opening.part 0).busyP = false ∧ (hubRow ⟨0, 0, 0, 0⟩).hubWaits 0 = none ∧ (hubRow ⟨0, 0, 0, 0⟩).granWaits 2 0 = false ∧ (hubRow ⟨0, 0, 0, 0⟩).fab.hubq[(0 : Fin 4)] = { dyn with kind := 1 } :: [] ∧
    ((hubRow ⟨0xE0000000, 0, 0, 1⟩).window 0 0 3968 128 true).toOption = some (0, 3968) ∧
    ((hubRow ⟨0xE1000000, 0x1000, 0, 1⟩).window 0 0 3968 128 true).toOption = some (1, 8064) ∧
    ((hubRow ⟨0xE2000007, 0x1000, 0, 1⟩).window 0 0 512 128 true).toOption = some (2, 4608) ∧ 4608 / 512 = 9 ∧
    ((hubRow ⟨0xC1000000, 0x1000, 0, 1⟩).window 0 0 0 128 true).toOption = none ∧
    ((hubRow ⟨0xE1000000, 0x1000, 0, 1⟩).window 0 0 3969 128 true).toOption = none := by decide +kernel
theorem in_turn (s : State) (k : Packet) (h : (s.func k.fn).accepted = []) : InTurn s k := fun opc => by simp [State.onTurn, h]
theorem witness_CutsAndChoices_turn : InTurn (serves id) (served []) ∧ InTurn opening (served openWords) :=
  ⟨in_turn _ _ (by decide +kernel), in_turn _ _ (by decide +kernel)⟩
/-- A row for the Granary behind an older one of another Stem port. -/
def hubBehind : State := { hubRow ⟨0xE2000007, 0x1000, 0, 1⟩ with
  gran := { goodGran with dir := [(7, ⟨0, 8192, 0, 0, none, 0, false⟩)] },
  fab := { runs.fab with hubq := (runs.fab.hubq.set 0 [{ dyn with kind := 1, off := 512, ready := 5 }]).set 1 [{ dyn with kind := 1, off := 512, ready := 1 }] } }
theorem witness_CutsAndChoices_waits : (hubBehind.hubWaits 0).isSome = true ∧ hubBehind.granWaits 2 5 = true := by decide +kernel
theorem witness_CutsAndChoices_fold : (runs.part 0).disp.isSome = true ∧ (idles.part 0).disp = none := by decide

/-! A least image: a header of one entry and no section. Region 7 holds it too. -/

def memOf (l : List (Nat × Word)) : Mem := l.foldl (fun m e => m.putWord e.1 e.2) []
def least : Mem := memOf [(0, 0x47485331), (4, 3), (8, 1), (12, 1), (0x18, 64), (0x2C, 1), (0x3C, 1), (0x108, 8)]
def granOf (ver : Option (BitVec 3)) : Granary :=
  { Granary.reset with avail := true, mem := least, dir := [(7, ⟨0, 1048576, 0, 512, ver, 0, false⟩)] }
def swaps (ver : Option (BitVec 3)) (stage : Option Nat) (open' : Bool) : State :=
  { up (idles.modPart 0 fun q =>
      { q with image := some (imageOf least 512), swap := stage.map fun n => (served [7], 7, n), ctx := if open' then some aCtx else none })
    with gran := granOf ver, host := least }
def slot0 (f : Adapter → Adapter) (open' : Bool) (now : Nat := 9000000) : State :=
  { (swaps none none open').modPart 0 fun q => { q with adapters := q.adapters.set 0 (f q.adapters[(0 : Fin 16)]) } with now := now }
def loading (phase t0 : Nat) (a : Adapter) : Adapter := { a with job := some (served [0, 0, 0, 512], phase, t0), imgLen := 512 }

theorem witness_SwapsAndAdapters : (swaps none none false).refuse (served [7]) headRing [0xFFF] = none ∧ (swaps none none false).gran.avail = true ∧
    (swaps none none false).gran.dir.get? (fld ((served [7]).w 0) 11 0) = some ⟨0, 1048576, 0, 512, none, 0, false⟩ ∧
    ((swaps none none false).part 0).image = some (imageOf least 512) ∧ (swaps none none false).variantIn 7 = some (imageOf least 512) ∧
    (imageOf least 512).variantBad (imageOf least 512) = false ∧ mayUse (served [7]) ⟨0, 1048576, 0, 512, none, 0, false⟩ = true ∧
    ((swaps none none false).part 0).busyP = false ∧
    (swaps (some 1) (some 2) true).regionBase (some 7) = some 0 ∧ ((swaps (some 1) (some 2) true).part 0).swap = some (served [7], 7, 2) ∧
    ((swaps none (some 2) true).checkPass (imageOf least 512) (imageOf least 512) 0).2 = none ∧
    ((swaps none (some 3) false).part 0).holdsPost = true ∧ ((swaps none (some 3) false).part 0).queue = [] ∧
    (((swaps none (some 3) false).swapStage 0 4).writePass 0 (imageOf least 512) (imageOf least 512) 0).2 = none ∧
    ((slot0 id true).part 0).adapters[(0 : Fin 16)].job = none ∧
    (slot0 id true).refuse (served [0, 0, 0, 512]) headRing [0x800F0FFF, 0xFFFFFFFF, 0xFFFFFFFF, 0xFFFFFFFF] = none ∧
    firstStatus ((slot0 id true).sourceChecks (served [0, 0, 0, 512]) 0 512) = none ∧
    (slot0 id true).adapterBad 0 (imageOf ((slot0 id true).sourceBytes 0 ((served [0, 0, 0, 512]).d 1) 512) 512) = false ∧
    (slot0 id true).refuse (served [0]) headRing [0x000F0000] = none ∧ ((slot0 id true).part 0).open' = true ∧
    ((slot0 id false).part 0).open' = false ∧ (swaps (some 1) (some 2) true).granWaits 3 (swaps (some 1) (some 2) true).now = false ∧
    ((swaps none (some 3) false).part 0).disp = none ∧ ((swaps none (some 4) false).part 0).swap = some (served [7], 7, 4) ∧
    ((slot0 (loading 2 0) true).part 0).adapters[(0 : Fin 16)].job = some (served [0, 0, 0, 512], 2, 0) ∧
    ((slot0 (loading 2 0) true).sourceGood 0 512).2 = true ∧
    ((slot0 (loading 1 0) true 100000000000).part 0).adapters[(0 : Fin 16)].job = some (served [0, 0, 0, 512], 1, 0) ∧
    0 + 100000000000 ≤ (slot0 (loading 1 0) true 100000000000).now := by decide +kernel
theorem witness_SwapsAndAdapters_turn : InTurn (swaps none none false) (served [7]) ∧ InTurn (slot0 id true) (served [0]) ∧
    InTurn (slot0 id true) (served [0, 0, 0, 512]) :=
  ⟨in_turn _ _ (by decide +kernel), in_turn _ _ (by decide +kernel), in_turn _ _ (by decide +kernel)⟩

/-! The hub. 0x44FFC is word 3 of window 15 of partition 63; 0x12018 is ACCOUNT of partition 0. -/

def hubOf (f : Fab → Fab) : State := { runs with fab := f runs.fab }
def account (v : Word) : HeldWrite := ⟨.mp, 0x12018, v⟩
def since (t0 : Nat) : State := hubOf fun b => { b with fetches := b.fetches.set 0 [(5, { fetchReq 1 with since := t0 })] }

theorem witness_LocksAndTimeouts : runs.fab.lock = none ∧ (hubOf fun b => { b with lock := some .keys }).fab.lock.isSome = true ∧
    regAt .mp 0x044FFC = some (.hwin 63 15 3) ∧ mayWrite .mp (.hwin 63 15 3) = true ∧ regAt .mp 0x041000 = some (.hwin 0 0 0) ∧
    (hubOf fun b => { b with lock := some (.partition 63) }).locked (.hwin 63 15 3) = true ∧ runs.locked (.hwin 63 15 3) = false ∧
    (runs.part 63).dispatching = false ∧ (runs.part 0).dispatching = true ∧ bit runs.fab.badacc 31 = false ∧
    bit (hubOf fun b => { b with badacc := 0x80000000 }).fab.badacc 31 = true ∧
    (hubOf fun b => { b with lock := some .keys }).zeroLock = false ∧ regAt (account 1).rq (account 1).off = some (.part 0 0x18) ∧
    (hubOf fun b => { b with lock := some .keys, lockTo := 9000000 }).fab.lockTo ≤ runs.now ∧
    (hubOf fun b => { b with lock := some .keys, lockTo := 9000001 }).now < 9000001 ∧ (4 : Fin 9).val < 5 ∧
    runs.fab.toldMs ≠ some (runs.now / 1000000000) ∧ (hubOf fun b => { b with toldMs := some 0 }).fab.toldMs = some (runs.now / 1000000000) ∧
    (8 : Fin 9).val = 5 + (3 : Fin 4).val ∧ (hubRow ⟨0, 0, 0, 0⟩).fab.hubq[(0 : Fin 4)] = { dyn with kind := 1 } :: [] ∧
    ({ since 0 with now := 1000000000 } : State).fab.fetches[(0 : Fin 4)] = [(5, { fetchReq 1 with since := 0 })] ∧
    0 + 1000000000 ≤ ({ since 0 with now := 1000000000 } : State).now ∧
    (hubOf fun b => { b with drainTo := some 9000000 }).fab.drainTo = some 9000000 ∧ runs.posted = false := by decide +kernel

/-! The Granary. Region 7 has 1 MiB from base 0; only block 9 is known to be good. -/

def opPkt (words : List Word) (part : Nat := 0) : Packet := { pkt words 0 part with fn := 0 }
def granPart (f : Granary → Granary) : State :=
  { up idles with gran := f { goodGran with dir := [(7, ⟨0, 1048576, 0, 8192, none, 0, false⟩)] } }
def copying (opc : Byte) (words : List Word) : State :=
  (granPart id).modFunc 0 fun x => { x with jobsG := [⟨opPkt words, opc, 0⟩], rbase := 0x10000, rsize := 16 }

theorem witness_GranaryKeepsRegions : ((granPart id).func 0).fullG = false ∧ (granPart id).pwr.roomDirectory = true ∧ (granPart id).gran.avail = true ∧
    (granPart id).refuse (opPkt [8, 0xFE000, 0x40]) operator [0xF0000FFF, 0xFFFFF, 0x7F] = none ∧ granSub (opPkt [8]) = 0 ∧
    (granPart id).ownerOk 0x40 = true ∧ (granPart id).ownerOk 0 = true ∧ (granPart id).gran.dir.get? 8 = none ∧
    (granPart id).gran.place 1048576 = some 1048576 ∧
    (granPart id).refuse (opPkt [0x10000007]) operator [0xF0000FFF] = none ∧ granSub (opPkt [0x10000007]) = 1 ∧
    (granPart id).gran.dir.get? 7 = some ⟨0, 1048576, 0, 8192, none, 0, false⟩ ∧
    (granPart id).refuse (opPkt [0x20000007, 0, 0, 0x2000, 0, 512]) anyRing copyMasks = none ∧
    (granPart id).copyCheck (opPkt [0x20000007, 0xFFE00, 0, 0x2000, 0, 512]) true = none ∧
    (granPart id).copyCheck (opPkt [7, 0x1200, 0, 0x2000, 0, 512]) false = none ∧
    ((copying 0x30 [0x20000007, 0, 0, 0x2000, 0, 512]).func 0).copying 7 = some ⟨opPkt [0x20000007, 0, 0, 0x2000, 0, 512], 0x30, 0⟩ ∧ (copying 0x30 [0x20000007, 0, 0, 0x2000, 0, 512]).granWaits 4 0 = false ∧
    (copying 0x30 [0x20000007, 0, 0, 0x2000, 0, 512]).gran.mem.wf = true ∧
    ((copying 0x31 [7, 0x1200, 0, 0x2000, 0, 512]).func 0).copying 7 = some ⟨opPkt [7, 0x1200, 0, 0x2000, 0, 512], 0x31, 0⟩ ∧
    ceilDiv 512 512 = 1 ∧ 0x1200 / 512 = 9 ∧ 0x2000 + 512 ≤ 0x10000 ∧
    ((granPart id).gran.regionAt (512 * 2047)).isSome = true ∧ (granPart id).gran.fails[(31 : Fin 32)] < 2 ∧
    2 ≤ (granPart fun g => { g with fails := g.fails.set 31 2 }).gran.fails[(31 : Fin 32)] ∧
    ({ granPart id with pwr := { Pwr.reset with journal := [.record 0 []] } } : State).waitingSeal = none ∧
    (granPart id).waitingDir = none ∧ (granPart id).pwr.ticks % 131072 = 0 := by decide +kernel
theorem witness_GranaryKeepsRegions_turn : InTurn (granPart id) (opPkt [8, 0xFE000, 0x40]) ∧ InTurn (granPart id) (opPkt [0x10000007]) ∧
    InTurn (granPart id) (opPkt [0x20000007, 0, 0, 0x2000, 0, 512]) ∧ (granPart id).granWaits 5 0 = false ∧
    hubBehind.granWaits 4 0 = true ∧ hubBehind.granWaits 5 0 = true :=
  ⟨in_turn _ _ (by decide +kernel), in_turn _ _ (by decide +kernel), in_turn _ _ (by decide +kernel), by decide +kernel⟩
/-- A block whose stored CRC is wrong. -/
theorem bad_block : (granPart fun g => { g with crc := [(9, crc32 (Granary.reset.block 9) + 1)] }).gran.blockOk 9 = false :=
  decide_eq_false fun h : crc32 (Granary.reset.block 9) + 1 = crc32 (Granary.reset.block 9) => by bv_omega

/-! Packets. -/

def chip : State := up idles
def answers (fn : Fin 65) : State := chip.modFunc fn fun x => { x with rbase := 0x10000, rsize := 16, infl := 1 }
theorem witness_PacketsAreChecked : ((answers 1).func 1).orphans.contains (opPkt []) = false ∧ (answers 1).pcieUp = true ∧ (answers 1).host.wf = true ∧
    (pkt [] 1).tenant = true ∧ operator.tenant = false ∧ (opPkt []).tenant = false ∧
    headRing.head = true ∧ (((chip.modPart 0 fun q => { q with span := some 9, rank := 1 }).part 0).exists' = true ∧
      ((chip.modPart 0 fun q => { q with span := some 9, rank := 1 }).part 0).head = false) ∧
    anyMember.acts = true ∧ (chip.part 63).exists' = false ∧ (opPkt [] 63).part = 63 ∧ (pkt [] 1 1).reserved [0xFFFFFFFF] = true ∧
    (opPkt [0x100]).reserved [0xFF] = true := by decide +kernel

/-- A packet whose turn has come, and one whose turn has not. -/
def twoRead : State := chip.modFunc 0 fun x => { x with accepted := [(0x01, opPkt [1]), (0x02, opPkt [2])] }
theorem witness_PacketsAreChecked_turn : twoRead.onTurn 0x02 (opPkt [2]) = false ∧ twoRead.onTurn 0x01 (opPkt [1]) = true := by decide +kernel
theorem witness_PacketsAnswer : ((answers 0).func 0).orphans.contains (opPkt []) = false ∧ (answers 0).pcieUp = true ∧ (answers 0).host.wf = true ∧
    (answers 0).refuse (opPkt [5]) anyRing [0xFFFFFFFF] = none ∧ (answers 0).refuse (opPkt [255]) anyRing [0xFF] = none ∧
    (answers 1).refuse (pkt [0] 1) anyRing [0xFF] = none ∧ (pkt [0] 1).tenant = true ∧ ((answers 0).part 0).exists' = true ∧
    ((pkt [1] 1).w 0 = 1 ∧ 1 < ((pkt [2] 1).w 0).toNat) ∧ runs.refuse (opPkt []) anyMember [] = none ∧ (runs.part 0).disp = some disp ∧
    (chip.part 0).disp = none ∧ fld ((opPkt [19]).w 0) 4 0 = (19 : Fin 20).val ∧ chip.refuse (opPkt [19]) operator [0x1F] = none ∧
    (granPart id).refuse (opPkt [0x10000007]) anyRing [0xF0000FFF] = none ∧ mayUse (pkt [0x10000007] 1) ⟨0, 1048576, 0, 8192, none, 0, false⟩ = true ∧
    (answers 0).refuse (opPkt [0x2000, 0]) anyMember [0xFFFFFFFF, 0xFFFFFFFF] = none ∧ (opPkt [0x2000, 0]).d 0 % 64 = 0 ∧
    (answers 0).refuse (opPkt [0x2000, 0, 1, 2]) anyMember [0xFFFFFFFF, 0xFFFFFFFF, 0xFFFFFFFF, 0xFFFFFFFF] = none ∧
    (answers 0).pwr.roomRecord = true := by decide +kernel
theorem witness_PacketsAnswer_turn : InTurn (answers 0) (opPkt [5]) ∧ InTurn (answers 1) (pkt [0] 1) ∧ InTurn runs (opPkt []) ∧
    InTurn chip (opPkt [19]) ∧ InTurn (granPart id) (opPkt [0x10000007]) ∧ InTurn (answers 0) (opPkt [0x2000, 0, 1, 2]) :=
  ⟨in_turn _ _ (by decide +kernel), in_turn _ _ (by decide +kernel), in_turn _ _ (by decide +kernel), in_turn _ _ (by decide +kernel),
    in_turn _ _ (by decide +kernel), in_turn _ _ (by decide +kernel)⟩
theorem reply_apart : ReplyApart (answers 0) (opPkt [0x2000, 0]) 0x2000 256 :=
  (by decide : 0x2000 + 256 ≤ 0x10000 + 32 * 0 ∨ 0x10000 + 32 * 0 + 32 ≤ 0x2000)

def ringOk : State := chip.modFunc 0 fun x => { x with cbase := 0x1000, rbase := 0x2000, csize := 16, rsize := 4096 }
def ringUp : State :=
  { ringOk with host := memOf [(0x1000, 0x01000000)] }.modFunc 0 fun x => { x with enable := true, running := true, tail := 1 }
theorem witness_BadRingSetup : bit (0x80000000 : Word) 31 = true ∧ (chip.func 0).enable = false ∧ (chip.func 0).csize.toNat = 0 := by
  decide +kernel
theorem witness_RingsRun : (ringOk.func 0).enable = false ∧ (ringOk.func 0).setupOk = true ∧ bit (0 : Word) 31 = false ∧
    fld (15 : Word) 11 0 < (ringOk.func 0).csize.toNat ∧ (ringOk.func 0).csize.toNat ≤ fld (16 : Word) 11 0 ∧
    (ringOk.func 0).head = (ringOk.func 0).tail ∧ (ringUp.func 0).readable = true ∧ (ringUp.func 0).accepted = [] ∧ ringOk.fab.drainTo = none ∧ ringUp.pwr.mstate.toNat < 2 ∧ ringUp.pcieUp = true ∧
    opcodes.contains (BitVec.ofNat 8 (fld (ringUp.host.word 0x1000) 31 24)) = true ∧ ringUp.host.wf = true ∧
    opcodes.contains (0x03 : Byte) = false ∧ (64 : Fin 65) = (63 : Fin 64).succ := by decide +kernel

/-! Commands that begin work. -/

def free (f : Part → Part) : State :=
  up { (State.reset.modPart 0 f) with cycle := 1000, now := 9000000, sys := { State.reset.sys with stallOk := 3 },
                                      pwr := { Pwr.reset with mstate := 1, cellReady := true } }
def makes : Packet := opPkt [1, 0, 1]
def zeroing (destroy : Bool) : State :=
  { free (fun q => { q with state := if destroy then 3 else 1, stalls := 1, hubBase := 512, hubPages := 1, zero := some (13288, destroy) }) with
    cycle := 13288, fab := { Fab.reset with lock := some (.partition 0) } }
def lone : State :=
  { free (fun q => { q with state := 2, stalls := 1 }) with
    link := { Link.reset with node := some 5 },
    host := memOf [(0x2000, 5), (0x2004, 0xFFFFFFFF), (0x2008, 0xFFFFFFFF), (0x200C, 0xFFFFFFFF)] }
def joinPkt : Packet := opPkt [0x00090001, 0, 0x2000, 0]
def leaving : State := free fun q => { q with state := 2, stalls := 1, span := some 9, spanState := 2 }

theorem witness_PartitionsBeginAndEnd : (free id).refuse makes operator [0xFFFFFFFF, 0xFFFFFFFF, 0x80000FFF] = none ∧
    (free id).createCheck makes false = none ∧ (free id).pwr.cellReady = true ∧ (free id).fab.lock = none ∧
    ({ free id with pwr := { (free id).pwr with cellReady := false } } : State).createCheck makes false = none ∧
    leaving.refuse (opPkt []) operatorPart [] = none ∧ (lone.part 0).ending = false ∧ (lone.part 0).disp = none ∧ lone.fab.lock = none ∧
    lone.refuse (opPkt []) operatorPart [] = none ∧ (lone.part 0).spanState ≠ 2 ∧
    lone.hubPending 0 = false ∧ (leaving.part 0).span.isSome = true ∧ (leaving.part 0).busyP = false ∧ (leaving.part 0).dispatching = false ∧
    ((zeroing false).part 0).zero = some (13288, false) ∧ ((zeroing true).part 0).zero = some (13288, true) ∧
    13288 ≤ (zeroing true).cycle ∧ (zeroing true).pwr.roomRecord = true ∧ (zeroing true).fab.lock = some (.partition 0) ∧
    (zeroing true).pwr.toM2 = false ∧ 13287 < 13288 ∧
    lone.refuse joinPkt operatorPart [0x0FFF3FFF, 0x1FFF1FFF, 0xFFFFFFFF, 0xFFFFFFFF] = none ∧ fld (joinPkt.w 0) 13 0 = 1 ∧
    (BitVec.ofNat 12 (fld (joinPkt.w 0) 27 16) : BitVec 12) = 9 ∧ (∀ x : Fin 64, (lone.part x).span ≠ some 9) ∧
    lone.link.node = some (memberAt lone.host (joinPkt.d 2) 0).node ∧
    (∀ x : Fin 6, (memberAt lone.host (joinPkt.d 2) 0).nb.getD x.val 0xFFFF = 0xFFFF) ∧
    lone.refuse (opPkt [0x80000002]) operator [0x80000003] = none ∧ lone.jobPower = none ∧ (lone.part 0).exists' = true ∧
    (lone.part 0).dispatching = false ∧ (lone.part 0).depot = false ∧ (lone.part 0).busyP = false ∧ (lone.part 0).span = none ∧
    (∀ x : Fin 64, ((free id).part x).state = 0 ∧ ((free id).part x).dispatching = false ∧ ((free id).part x).ending = false) ∧
    bit ((opPkt [0x80000002]).w 0) 31 = true ∧ (free id).refuse (opPkt [2]) operator [0x80000003] = none ∧ (free id).jobPower = none ∧
    bit ((opPkt [2]).w 0) 31 = false ∧
    (free id).refuse (opPkt [32]) operator [0x3F] = none ∧ fld ((opPkt [32]).w 0) 5 0 ≤ 32 ∧ (free id).clk.job = none := by decide +kernel

/-! A resident image of one Stall: SHAPE 1, one XLATE section with a window over the whole scratchpad. -/

def anImage : Mem :=
  memOf [(0, 0x47485331), (4, 0x10003), (8, 1), (12, 1), (0x10, 1), (0x18, 64), (0x1C, 1), (0x2C, 1), (0x3C, 1), (0x40, 1), (0x44, 1),
    (0x48, 1), (0x4C, 1), (0x50, 1), (0x54, 1), (0x108, 8), (0x200, 0x03FFFFFF), (0x208, 8), (0x20C, 0x210), (0x210, 0xE0000000),
    (0x214, 0x0C000000)]
def single (f : Part → Part) : State :=
  { free (fun q => f { q with state := 2, stalls := 1, span := some 9, spanState := 2, h := 64, image := some img }) with host := anImage } |>.modStl 0
    fun x => { x with power := .s1 }
def loadPkt : Packet := opPkt [0, 0, 0, 0x218]
def loadJob (n : Nat) : Job := ⟨loadPkt, 0x20, n, 0, some (imageOf anImage 0x218), false, none⟩
def verifies : State := (single id).modFunc 0 fun x => { x with jobsG := [⟨loadPkt, 0x21, 0⟩], rbase := 0x10000, rsize := 16, infl := 1 }
def queued (n : Nat) (st : Option Nat) : Waiting := ⟨some (pkt [] 1), n, st⟩
def linked (f : Sheaf → Sheaf) : State := ((free id).modSheaf 0 f).modPort 0 fun x => { x with keep := 7 }
def loops (t1 now : Nat) : State := { verifies with jobDiag := some (loadPkt, 19, 0, t1), now := now }

theorem witness_LoadsAndDispatchesBegin :
    (single id).refuse loadPkt anyMember [0xCFFF0FFF, 0xFFFFFFFF, 0xFFFFFFFF, 0xFFFFFFFF, 0xFFFFFFFF, 0xFFFFFFFF] = none ∧
    firstStatus ((single id).sourceChecks loadPkt 0 0x218 ++ (single id).backChecks loadPkt 0x218) = none ∧
    (imageOf ((single id).sourceBytes 0 0 0x218) 0x218).streamed = false ∧
    (single id).imageBad 0 (imageOf ((single id).sourceBytes 0 0 0x218) 0x218) = false ∧
    (single id).imageShort 0 (imageOf ((single id).sourceBytes 0 0 0x218) 0x218) = false ∧
    ((single id).part 0).dispatching = false ∧ ((single id).part 0).busyP = false ∧ ((single id).part 0).open' = false ∧
    ((single id).part 0).depot = false ∧ (single id).imageShort 0 (imageOf anImage 0x218) = false ∧ ((single fun q => { q with job := some (loadJob 1) }).part 0).job = some (loadJob 1) ∧
    (single id).refuse loadPkt anyMember [0x80000FFF, 0xFFFFFFFF, 0xFFFFFFFF, 0xFFFFFFFF] = none ∧ (verifies.part 0).swap = none ∧
    ((single id).func 0).fullG = false ∧
    ((single fun q => { q with job := some (loadJob 2) }).part 0).job = some (loadJob 2) ∧ bit ((loadJob 2).pkt.w 0) 31 = false ∧
    (verifies.func 0).orphans.contains loadPkt = false ∧ verifies.pcieUp = true ∧ verifies.host.wf = true ∧
    (verifies.part 0).loadVerifying = none ∧ (verifies.part 0).adapterVerifying = none ∧ verifies.verifying 0 = some loadPkt ∧
    (verifies.sourceGood 0 0x218).2 = true := by decide +kernel

theorem witness_LoadsAndDispatchesBegin_commands :
    (single id).refuse (opPkt [0]) headRing [0xF] = none ∧ ((single id).part 0).image = some img ∧ (0 : Nat) < img.entries.length ∧
    ((single id).part 0).loading = false ∧ ((single id).part 0).holdsPost = false ∧ (single id).awake 0 = true ∧
    ((single fun q => { q with sizeM1 := 1 }).part 0).sizeM1 ≠ 0 ∧
    ((single fun q => { q with disp := some disp }).part 0).dispatching = true ∧
    4 ≤ ((single fun q => { q with disp := some disp, queue := List.replicate 4 (queued 0 none) }).part 0).dqUsed ∧
    (single id).refuse (opPkt [1]) headRing [1] = none ∧ ((single id).part 0).halt = none ∧
    ((single fun q => { q with queue := [queued 0 none] }).part 0).queue = [⟨some (pkt [] 1), 0, none⟩] ∧
    bit ((opPkt [1]).w 0) 0 = true ∧
    (linked id).refuse (opPkt [0x610]) operator [0xF77] = none ∧ ((linked id).port 0).job = none ∧
    (1 : BitVec 3) &&& ~~~((linked id).port 0).keep = 0 ∧ (∀ n ∈ namedSheaves 0 1, ((linked id).sheaf n).state ≠ .active) ∧
    (namedSheaves 0 1).any (fun n => decide (((linked fun h => { h with state := .active }).sheaf n).state = .active)) = true ∧
    (linked id).refuse (opPkt [0x10]) operator [0x77] = none ∧ (namedSheaves 0 (7 &&& ~~~1)).any (linked id).slotted = false ∧
    (linked id).refuse (opPkt [0x01000013, 60000]) operator [0xFF00001F, 0xFFFF] = none ∧ (linked id).jobDiag = none ∧
    (linked id).ringSheaf 19 = false ∧ ((linked id).sheaf 19).state ≠ .active ∧
    (loops 5 5).jobDiag = some (loadPkt, 19, 0, 5) ∧ 0 + 10000000000 ≤ (loops 0 10000000000).now ∧
    ((loops 0 10000000000).sheaf 19).state ≠ .active := by decide +kernel
theorem witness_PartitionsBeginAndEnd_turn : InTurn (free id) makes ∧ InTurn leaving (opPkt []) ∧ InTurn lone (opPkt []) ∧ InTurn lone joinPkt ∧
    InTurn lone (opPkt [0x80000002]) ∧ InTurn (free id) (opPkt [2]) ∧ InTurn (free id) (opPkt [32]) :=
  ⟨in_turn _ _ (by decide +kernel), in_turn _ _ (by decide +kernel), in_turn _ _ (by decide +kernel), in_turn _ _ (by decide +kernel),
    in_turn _ _ (by decide +kernel), in_turn _ _ (by decide +kernel), in_turn _ _ (by decide +kernel)⟩
def keysHeld (s : State) : State := { s with fab := { s.fab with lock := some .keys } }
def destroying : State := (answers 0).modPart 0 fun q => { q with state := 3, job := some ⟨opPkt [] 1, 0x11, 1, 0, none, false, none⟩ }
theorem witness_PartitionsBeginAndEnd_held : (keysHeld (free id)).refuse makes operator [0xFFFFFFFF, 0xFFFFFFFF, 0x80000FFF] = none ∧
    (keysHeld (free id)).createCheck makes false = none ∧ (keysHeld (free id)).fab.lock.isSome = true ∧
    (keysHeld leaving).refuse (opPkt []) operatorPart [] = none ∧ ((keysHeld leaving).part 0).ending = false ∧
    (keysHeld leaving).fab.lock.isSome = true ∧
    destroying.refuse (opPkt []) operatorPart [] = none ∧ (destroying.part 0).ending = true ∧
    (destroying.func 0).orphans.contains (opPkt []) = false ∧ destroying.pcieUp = true ∧ destroying.host.wf = true ∧
    (zeroing true).fab.staged = [] ∧ (zeroing true).fab.heldWr = [] := by decide +kernel
theorem witness_PartitionsBeginAndEnd_heldTurn : InTurn (keysHeld (free id)) makes ∧ InTurn (keysHeld leaving) (opPkt []) ∧
    InTurn destroying (opPkt []) :=
  ⟨in_turn _ _ (by decide +kernel), in_turn _ _ (by decide +kernel), in_turn _ _ (by decide +kernel)⟩
theorem witness_LoadsAndDispatchesBegin_turn : InTurn (single id) loadPkt ∧ InTurn (single id) (opPkt [0]) ∧ InTurn (single id) (opPkt [1]) ∧
    InTurn (linked id) (opPkt [0x610]) ∧ InTurn (linked id) (opPkt [0x10]) ∧ InTurn (linked id) (opPkt [0x01000013, 60000]) :=
  ⟨in_turn _ _ (by decide +kernel), in_turn _ _ (by decide +kernel), in_turn _ _ (by decide +kernel), in_turn _ _ (by decide +kernel),
    in_turn _ _ (by decide +kernel), in_turn _ _ (by decide +kernel)⟩

/-! Clocks and power. Sheaf 0 is the parent sheaf of `child`; sheaf 3 leads to another module. -/

def timed (cyc : Nat) (f : Clk → Clk := id) : State := { free id with cycle := cyc, clk := f Clk.reset }
def child (cyc : Nat) (f : Clk → Clk := id) : State :=
  (({ timed cyc f with link := { Link.reset with node := some 5, parent := some 0 } }.modSheaf 0 fun h =>
    { h with state := .active, far := some (4, 0, 0) }).modSheaf 3 fun h => { h with state := .active, far := some (6, 0, 0) })
def powered (f : Pwr → Pwr) : State := { free id with pwr := f (free id).pwr }

theorem witness_FrequencyAgreed : (free id).pwr.brake = false ∧ (powered fun x => { x with brake := true }).pwr.brake = true ∧
    ((child 0).sheaf 3).state = .active ∧ (child 0).link.parent ≠ some 3 ∧ (timed 32768).link.parent = none ∧ 32768 % 65536 = 32768 ∧
    (timed 33792 fun c => { c with copyAt := some (33792, 7) }).clk.copyAt = some (33792, 7) ∧ 33792 % 65536 ≠ 32768 ∧
    (child 0).link.parent = some 0 ∧ ((child 0).sheaf 0).far.map (·.1) = ((child 0).sheaf 0).far.map (·.1) ∧
    (child 49152).clk.next = none ∧ (child 49152).clk.missFor = none ∧
    (child 49152 fun c => { c with missFor := some 0 }).clk.missFor = some (49152 / 65536) ∧
    (timed 65536).clk.epoch ≠ 65536 / 65536 ∧
    (timed 65536 fun c => { c with next := some (1, 32) }).clk.next = some (BitVec.ofNat 20 (65536 / 65536), 32) ∧
    ((timed 65536 fun c => { c with job := some (opPkt [0], 0), next := some (1, 32) }).clk.job = some (opPkt [0], 0)) ∧ (timed 65535).cycle % 65536 ≠ 0 ∧
    ({ timed 65536 fun c => { c with job := some (opPkt [0], 0), fcode := 32 } with now := 18204444 } : State).inForce 0 = false ∧
    ({ timed 65536 fun c => { c with job := some (opPkt [0], 0), fcode := 32 } with now := 18204445 } : State).inForce 0 = true ∧
    (powered fun x => { x with guardTo := x.guardTo.set 3 (some 9000000) }).pwr.guardTo[(3 : Fin 4)] = some 9000000 ∧
    (timed 256).cycle % 256 = 0 ∧ (timed 255).cycle % 256 ≠ 0 ∧ (120 : Int) < (121 : Half).toInt ∧ (0xFF87 : Half).toInt < -120 := by
  decide +kernel

def sampling (w : Word) (m : Nat) : State :=
  { free id with telem := { Telem.reset with seq := Telem.reset.seq.set 31 w, pos := some (31, 0), mode := some (w &&& 0x1F310000, m) } }
def sleeping (x : StallPower) : State := single id |>.modStl 0 fun st => { st with power := x, wake := some 9000000 }
def directoryItem : JournalItem := .directory 7 (some ⟨0, 1048576, 0, 0, none, 0, false⟩)

theorem witness_PowerAndLoss : bit (1 : Word) 0 = true ∧ bit (2 : Word) 0 = false ∧ (free id).telem.run = false ∧
    (sampling 0x84000001 2).telem.pos = some (31, 0) ∧
    seqCh ((sampling 0x84000001 2).telem.seq.toList.getD 31 0) = (4 : Fin 24).val ∧
    (sampling 0x84000001 2).telem.mode = some ((0x84000001 : Word) &&& 0x1F310000, 2) ∧ 100 < 101 ∧
    seqCh ((sampling 0x97000001 1).telem.seq.toList.getD 31 0) = (23 : Fin 24).val ∧ railOf 12 = some (6, none) ∧
    ((sleeping .s2).stl 0).wake = some 9000000 ∧ 9000000 ≤ (sleeping .s2).now ∧ ((sleeping .s2).stl 0).power = .s2 ∧
    ((sleeping .s3).stl 0).power = .s3 ∧ (sleeping .s3).owner 0 = some 0 ∧
    (powered fun x => { x with wake := some 9000000 }).pwr.wake = some 9000000 ∧ 19 ≤ (19 : Fin 24).val ∧
    (free id).pwr.mstate.toNat < 2 ∧ (free id).pwr.toM2 = false ∧ (∀ p : Fin 64, ((free id).part p).state = 0) ∧ ((single id).part 0).state ≠ 0 ∧
    (free id).pwr.valid = true ∧ (∀ p : Fin 64, ((free id).part p).spanState ≠ 2) ∧ (single id).existing ≠ [] ∧
    (powered fun x => { x with flush := some [.record 0 [], directoryItem] }).pwr.flush = some (.record 0 [] :: [directoryItem]) ∧
    (powered fun x => { x with flush := some [directoryItem] }).pwr.flush = some (directoryItem :: []) ∧ (5999 < 6000 ∧ 6000 ≤ 6000) ∧
    (powered fun x => { x with valid := false }).pwr.valid = false ∧ (powered fun x => { x with valid := false }).pwr.mstate ≠ 3 ∧
    (⟨false, true, 540, 2, 3, 0⟩ : IsoFrame).crcOk = true ∧ (⟨true, true, 0, 0, 0, 0⟩ : IsoFrame).loss = true ∧
    (free id).pwr.isoLimit = false ∧ (powered fun x => { x with isoAt := 0 }).pwr.isoAt + 9000000 ≤ (free id).now ∧
    (0 : Nat) + 50000000 ≤ ({ free id with now := 50000000 } : State).now := by decide +kernel
def sentUp : State := child 0 fun c => { c with sent := some (after .brakeAssert (child 0)).subtree }
theorem witness_FrequencyAgreed_demand : sentUp.pwr.brake = false ∧ sentUp.link.parent = some 0 ∧
    sentUp.clk.sent = some (after .brakeAssert sentUp).subtree ∧ (child 0).clk.sent ≠ some (after .brakeAssert (child 0)).subtree ∧
    (timed 1).link.parent = none ∧ (timed 1).clk.copyAt = none ∧
    (((child 0).modSheaf 3 fun h => { h with far := some (4, 0, 0) }).sheaf 3).far.map (·.1) = ((child 0).sheaf 0).far.map (·.1) := by decide +kernel
theorem witness_FrequencyAgreed_ceiling :
    ({ timed 65536 fun c => { c with job := some (opPkt [0], 0), fcode := 32, next := some (1, 4) } with now := 18204445 } : State).clk.job = some (opPkt [0], 0) ∧
    ({ timed 65536 fun c => { c with job := some (opPkt [0], 0), fcode := 32, next := some (1, 4) } with now := 18204445 } : State).inForce 0 = true ∧
    (answers 0).pcieUp = true ∧ 8999999 < 9000000 ∧ ((120 : Half).toInt ≤ 120 ∧ -120 ≤ (0xFF88 : Half).toInt) := by decide +kernel

def triggers (at' : Nat) : State := { free id with telem := { (free id).telem with run := true, period := 5, trigAt := at' } }
theorem witness_PowerAndLoss_telemetry : (free id).telem.pos = none ∧ (sampling 0x84000001 2).telem.pos.isSome = true ∧
    (triggers 4000000).telem.run = true ∧ (triggers 4000000).telem.trigAt + (triggers 4000000).telem.period.toNat * 1000000 ≤ (triggers 4000000).now ∧
    (triggers 4000001).now < (triggers 4000001).telem.trigAt + (triggers 4000001).telem.period.toNat * 1000000 ∧
    (sampling 0x84000001 2).sampleDue = true ∧
    ({ sampling 0x84000001 2 with telem := { (sampling 0x84000001 2).telem with sampleAt := some 4000001 } } : State).sampleDue = false ∧
    ({ sampling 0x84000001 2 with telem := { (sampling 0x84000001 2).telem with sampleAt := some 4000000 } } : State).sampleDue = true ∧
    seqCh ((sampling 0x90000001 2).telem.seq.toList.getD 31 0) = (16 : Fin 24).val ∧
    (sampling 0x90000001 2).telem.mode = some ((0x90000001 : Word) &&& 0x1F310000, 2) ∧ (sampling 0x90000001 2).sampleDue = true := by decide +kernel
theorem witness_PowerAndLoss_cell : (∀ mv : Half, CellSteady (sampling 0x90000001 2) mv) ∧ (∀ mv : Half, CellSteady (powered fun x => { x with cellReady := false }) mv) ∧
    true = decide (15500 ≤ (15500 : Half).toNat) ∧ false = decide (15500 ≤ (15499 : Half).toNat) ∧ true ≠ decide (15500 ≤ (15499 : Half).toNat) ∧
    (∀ p : Fin 64, ((free id).part p).state = 0 ∧ ((free id).part p).ending = false) ∧
    (powered fun x => { x with flush := some [.directory 7 none] }).pwr.flush = some (.directory 7 none :: []) :=
  ⟨fun _ => .inl rfl, fun _ => .inr (.inr (by decide +kernel)), by decide, by decide, by decide, by decide +kernel, by decide +kernel⟩

/-! The chain and bring-up. -/

def chained (f : Chain → Chain) (g : State → State := id) : State := g { free id with chain := f { (free id).chain with addr := some 9 } }
def frame (dst cmd : Byte) (payload : List Byte) : ChainFrame := freshCrc ⟨dst, 0, cmd, payload, 0⟩ true
def curveKey : List Byte := 4 :: (beBytes 48 ecG.1 ++ beBytes 48 ecG.2)
def setNodePay : List Byte := natBytes 2 5 ++ natBytes 4 0x80020302

theorem witness_ChainAnswers : ((chained id).chain.addr ≠ some 8 ∧ (8 : Byte) ≠ 0xFF) ∧
    ((chained id).pwr.mstate ≠ 3 ∧ frameOk { frame 9 5 [] with crc := (frame 9 5 []).crc + 1 } = false) ∧
    frameOk (frame 0xFF 0x01 [254]) = true ∧ (frame 0xFF 0x01 [254]).payload = [254] ∧
    frameOk (frame 9 0x02 (natBytes 3 0x50004 ++ [32])) = true ∧ (chained id).moduleState ≠ 2 ∧
    (chained id fun s => { s with pwr := { s.pwr with mstate := 2 } }).moduleState = 2 ∧
    regAt .chain (BitVec.ofNat 24 0x60000) = some (.link 0) ∧ (Reg.link 0).inM2 = false ∧
    frameOk (frame 9 0x03 (natBytes 3 0x50004 ++ wordBytes 2200)) = true ∧ (500 ≤ fld (2200 : Word) 11 0 ∧ fld (2200 : Word) 11 0 ≤ 2200) ∧
    (chained id).chainMay 0x53008 = true ∧ (chained id).chainMay 0 = false ∧
    frameOk (frame 9 0x04 setNodePay) = true ∧ (chained id).link.node ≠ some 5 ∧ bit (0x80020302 : Word) 31 = true ∧
    nodeXyz 5 = (5, 0, 0) ∧ (5 < (torusSize (0x80000005 &&& 0x800F80FF)).1) ∧ (chained id).existing = [] ∧
    (chained id fun s => s.modPart 0 fun q => { q with state := 2 }).existing ≠ [] ∧ (torusSize (0x80000004 &&& 0x800F80FF)).1 ≤ 5 ∧
    3 ≤ (chained id fun s => { s with sys := { s.sys with stage := 3 } }).sys.stage.toNat ∧ (chained id).pwr.wake = none ∧
    (chained id).moduleState < 2 ∧ (chained id).sys.request = none ∧ frameOk (frame 9 6 [1]) = true ∧
    (frame 0xFF 7 (List.replicate 32 0)).payload.length = 32 ∧
    (chained fun c => { c with attn := 1, mask := 1 }).chain.attn &&& (chained fun c => { c with attn := 1, mask := 1 }).chain.mask ≠ 0 ∧
    (chained id).chain.attn &&& (chained id).chain.mask = 0 ∧ frameOk (frame 9 8 [0xFF]) = true := by decide +kernel

theorem witness_ChainAnswers_flash : frameOk (frame 9 0x10 (natBytes 4 0xC00000 ++ [1, 2, 3, 4])) = true ∧ (chained id).flash.wf = true ∧
    (chained id).flashArea 0xC00000 ≠ none ∧ (chained id).flashArea (0xC00000 + 4 - 1) = (chained id).flashArea 0xC00000 ∧ 0xC00000 % 65536 = 0 ∧
    (chained id).flashArea 0x1820000 = none ∧ frameOk (frame 9 0x11 (natBytes 4 0x180FFFC ++ [4])) = true ∧ 0x180FFFC + 4 ≤ 0x1810000 ∧
    (chained id).moduleState = 1 ∧ (chained id).keys.owner = none ∧ (ecPoint curveKey).isSome = true ∧
    (chained fun c => { c with staged := some curveKey }).chain.staged = some curveKey ∧
    (chained id fun s => { s with keys := { s.keys with owner := some curveKey } }).keys.owner.isSome = true ∧
    chainCodes.contains (0x7F : Byte) = false ∧ (chained id).chain.stuck = false ∧ (chained id).chain.stuckExt = false ∧
    (chained id).chain.pulse = none := by decide +kernel

theorem fresh_ok (g : ChainFrame) : frameOk (freshCrc g true) = true := by simp [frameOk, freshCrc, frameCrc]
theorem key_frame : frameOk (frame 9 0x12 curveKey) = true := fresh_ok _

def asks (r : BitVec 2 × BitVec 4) (drain : Option Nat) : State :=
  { single id with sys := { (single id).sys with request := some r }, fab := { (single id).fab with drainTo := drain } }
def inStage (n : BitVec 4) (warm : Bool) (now : Nat := 9000000) : State :=
  { free id with sys := { (free id).sys with stage := n, warmBoot := warm }, now := now }
def found (a b : Option Word) (fa fb rail : Bool) : BootReport := ⟨0, 0xFFFFFFFF, a, b, fa, fb, none, rail⟩

theorem witness_ResetsAndBoot : (single id).pwr.mstate ≠ 3 ∧ (single id).sys.request = none ∧ (10 ≤ 10 ∧ 999999 < 1000000) ∧
    fld (0x52530001 : Word) 31 16 = 0x5253 ∧ fld (0x52530001 : Word) 1 0 = 1 ∧ fld (0x52530002 : Word) 1 0 = 2 ∧
    fld (0x52540002 : Word) 31 16 ≠ 0x5253 ∧ (single id).pwr.valid = true ∧ (single id).existing = [0] ∧
    (asks (1, 3) none).sys.request = some (1, 3) ∧ (asks (1, 3) none).pwr.flush = none ∧ (asks (1, 3) none).fab.drainTo = none ∧
    (asks (1, 3) (some 1)).fab.drainTo.isSome = true ∧ (single id).fab.drainTo = none ∧ (∀ p : Fin 64, ((free id).part p).spanState ≠ 2) ∧
    (asks (2, 3) none).sys.request = some (2, 3) ∧ (asks (2, 3) none).pwr.journal.any JournalItem.isRecord = false ∧
    (powered fun x => { x with mstate := 3 }).pwr.mstate = 3 ∧ ((serves id).part 0).ctx = some aCtx ∧
    (inStage 3 false).sys.stage.toNat < 4 ∧ (inStage 4 false).sys.stage ≠ 15 ∧ (inStage 4 false).pwr.mstate.toNat < 2 ∧
    (inStage 1 false).pwr.flush = none ∧ (found (some 1) (some 1) true true true).railFault = true ∧
    ((found (some 1) (some 1) true true false).verA = some 1 ∧ (1 : Word) ≤ 1) ∧ ((1 : Word) < 2) ∧
    (found (some 1) (some 2) true false false).fullB = false ∧ 7 ≤ (inStage 7 false).sys.stage.toNat ∧
    (inStage 4 false 3000000000).sys.stemUp[(3 : Fin 4)] = false ∧
    (inStage 4 false 3000000000).sys.stemAt + 3000000000 ≤ (inStage 4 false 3000000000).now := by decide +kernel

def anEvent : Event := ⟨0x7001, true, 0, 5, 6, 7, 8⟩
def eventing (f : Func → Func) (n : Fin 65) : State :=
  chip.modFunc n fun x => f { x with ebase := 0x1000, esize := 16, eenable := true, events := [anEvent] }
theorem witness_EventsAndTestPort : bit (0x8000001F : Word) 31 = true ∧ (chip.func 64).eenable = false ∧ chip.fab.drainTo = none ∧ (asks (1, 3) (some 1)).fab.drainTo = some 1 ∧
    ((asks (1, 3) (some 1)).func 64).eenable = false ∧
    ((eventing (fun x => { x with eenable := false }) 64).func 64).eventOk = true ∧
    ((eventing (fun x => { x with eenable := false }) 0).func 0).eventOk = true ∧ chip.pcieUp = true ∧ (chip.func 0).eventOk = false ∧
    ((eventing id 0).func 0).events = anEvent :: [] ∧ ((eventing id 0).func 0).eenable = true ∧ ((eventing id 0).func 0).eventFull = false ∧
    (eventing id 0).host.wf = true ∧ ((eventing (fun x => { x with ehead := 1 }) 0).func 0).eventFull = true ∧
    (chained fun c => { c with modResetN := false }).chain.modResetN = false ∧ (chained id).chain.modResetN = true := by decide +kernel

/-! Invariants and the queue. -/

theorem witness_IdleStepTicks : State.reset.pending = [] ∧ (powered fun x => { x with mstate := 3 }).pending = [] := by decide +kernel
theorem queue_ok : QueueOk State.reset := fun _ h => nomatch h
theorem mems_ok : MemsOk State.reset := ⟨rfl, rfl, rfl, rfl, by decide +kernel⟩
theorem reset_free : ∀ p : Fin 64, (State.reset.part p).state = 0 ∧ (State.reset.part p).zero = none ∧ (State.reset.part p).job = none := by
  decide +kernel
theorem parts_apart : PartsApart State.reset :=
  ⟨fun p _ _ h => absurd (reset_free p).1 h, fun p h => by simp [(reset_free p).2.1] at h, fun p _ h => by simp [(reset_free p).2.2] at h⟩
/-- From the state after reset, a step answers a next state. -/
theorem reset_steps : step State.reset = .next State.reset.tick := rfl
theorem witness_QueueKeepsOrder : step State.reset = .next State.reset.tick ∧ QueueOk State.reset := ⟨reset_steps, queue_ok⟩
theorem witness_MemoriesKeepForm : step State.reset = .next State.reset.tick ∧ MemsOk State.reset := ⟨reset_steps, mems_ok⟩
theorem witness_PartitionsStayApart : step State.reset = .next State.reset.tick ∧ PartsApart State.reset ∧ TableUntouched State.reset :=
  ⟨reset_steps, parts_apart, fun _ h => nomatch h⟩
theorem witness_MisalignedAccess : bit State.reset.fab.badacc 31 = false ∧ bit (hubOf fun b => { b with badacc := 0x80000000 }).fab.badacc 31 = true ∧
    (0x000003 : BitVec 24).toNat % 4 ≠ 0 ∧ (64 : Nat) ≠ 32 := by decide +kernel
theorem witness_EngineOpsStayInTheirStall : Instr.caLoad 0 0 ∈ engineCmds 0 0 ∧ exec (.caLoad 0 0) runs = .next (after (.caLoad 0 0) runs) :=
  ⟨by simp [engineCmds], rfl⟩
theorem outside_of (s : State) (b : Int) (n p : Nat) (hp : n ≤ p)
    (h : ∀ i : Nat, i < n → okAt ((s.stl 0).xl.check (b.toNat + i) .write true) i = true) : Outside s 0 b n p := fun j hj e => by
  have h1 := ok_of _ _ (h j hj)
  rw [h1] at e
  have h2 : j = p := Except.ok.inj e
  omega
def storeOp : Op := begun (caAgent 0 0) (caAgent 0 0) 3 2 2 (.store 0 (List.replicate 8 Row.zero))
def opAt (a : Agent) (w : Work) : Op := { begun a a 1 8 8 w with t := 2 }
theorem witness_EngineStores : (leConsts.stl 0).pad.mem.wf = true ∧ exec (.leMul 0 (eng 1 0)) leConsts = .next (after (.leMul 0 (eng 1 0)) leConsts) ∧
    exec (.caStore 0 0) runs = .next (after (.caStore 0 0) runs) ∧
    Outside runs 0 (addrAt runs 0 0 0) ((fld (recordAt runs 0 0)[4] 17 13 + 1) * (precAt runs 0 0).rs) 200 :=
  ⟨by decide +kernel, rfl, rfl, outside_of _ _ _ _ (by decide +kernel) (by decide +kernel)⟩
theorem witness_EngineStores_later : (runs.stl 0).pad.mem.wf = true ∧ (loadOp 1).isLoad = true ∧ runOp.isRun = true ∧ ldcOp.isLdc = true ∧
    cntOp.work = .count 0 5 ∧ storeOp.work = .store 0 (List.replicate 8 Row.zero) ∧ Outside runs 0 0 8 8 ∧
    scycOp.work = .words 0 30 [1, 2] ∧ Outside runs 0 0 1 1 :=
  ⟨by decide +kernel, rfl, rfl, rfl, rfl, rfl, outside_of _ _ _ _ (by decide) (by decide +kernel), rfl,
    outside_of _ _ _ _ (by decide) (by decide +kernel)⟩
theorem te_out : Outside teDesc 0 (descAt teDesc 0 0).base ((descAt teDesc 0 0).rows (teDesc.stl 0).xl.mesh) 1 :=
  outside_of _ _ _ _ (by decide +kernel) (by decide +kernel)
theorem witness_LayoutStores : (teDesc.stl 0).pad.mem.wf = true ∧ exec (.ltMove 0 (eng 1 0)) teDesc = .next (after (.ltMove 0 (eng 1 0)) teDesc) ∧
    exec (.ltFill 0 (eng 1 0)) teDesc = .next (after (.ltFill 0 (eng 1 0)) teDesc) ∧
    Outside teDesc 0 (descAt teDesc 0 0).base ((descAt teDesc 0 0).rows (teDesc.stl 0).xl.mesh) 1 := ⟨by decide +kernel, rfl, rfl, te_out⟩
def movesOp : Op := opAt (teAgent 1 (descAt teDesc 0 0)) (.moveRows (descAt teDesc 0 0) (descAt teDesc 0 0) 1 [[Row.zero]])
def gathersOp : Op := opAt (teAgent 1 (descAt teDesc 0 0)) (.gather false (descAt teDesc 0 0) 0 0 1 1 1 [0] [[Row.zero]])
theorem witness_LayoutStores_later : (opAt (teAgent 1 (descAt teDesc 0 0)) (.fill (descAt teDesc 0 0))).work = .fill (descAt teDesc 0 0) ∧
    movesOp.work = .moveRows (descAt teDesc 0 0) (descAt teDesc 0 0) 1 [[Row.zero]] ∧
    1 * (movesOp.t - 2) + 1 ≤ (descAt teDesc 0 0).rows (teDesc.stl 0).xl.mesh ∧
    gathersOp.work = .gather false (descAt teDesc 0 0) 0 0 1 1 1 [0] [[Row.zero]] ∧ (gathersOp.t - ceilDiv 1 32 - 2) / (1 / 1) < 1 ∧
    Outside teDesc 0 (0 : Nat) (1 * 1) 1 :=
  ⟨rfl, rfl, by decide +kernel, rfl, by decide, outside_of _ _ _ _ (by decide) (by decide +kernel)⟩

end Sys2Proof.Tests
end

