-- ==== Sys2Proof/Proofs/BadAccess.lean ====
section
/-! PROOFS. What a bad register access records (16 Table 16.7), and the accesses that are not aligned 32-bit ones (00 R17). -/

namespace Sys2Proof.Machine

/-- The fields of FAB.BADACC lie apart, so putting them together adds them up. -/
theorem badAccWord_toNat (reason ix : Nat) (off : BitVec 24) (hr : reason < 8) (hi : ix < 16) :
    (pack [(1, 31), (reason, 28), (ix, 24), (off.toNat, 0)]).toNat =
      2 ^ 31 + (2 ^ 28 * reason + (2 ^ 24 * ix + off.toNat)) := by
  have ho : off.toNat < 2 ^ 24 := off.isLt
  have hix : 2 ^ 24 * ix + off.toNat < 2 ^ 28 := by omega
  have hrs : 2 ^ 28 * reason + (2 ^ 24 * ix + off.toNat) < 2 ^ 31 := by omega
  have hor : (pack [(1, 31), (reason, 28), (ix, 24), (off.toNat, 0)]).toNat =
      2 ^ 31 * 1 ||| (2 ^ 28 * reason ||| (2 ^ 24 * ix ||| off.toNat)) := by
    simp only [pack, List.foldl, BitVec.toNat_or, BitVec.toNat_ofNat, Nat.or_assoc, Nat.mul_comm reason, Nat.mul_comm ix]
    rw [Nat.mod_eq_of_lt (by omega : 2 ^ 28 * reason < 2 ^ 32), Nat.mod_eq_of_lt (by omega : 2 ^ 24 * ix < 2 ^ 32),
      Nat.mod_eq_of_lt (by omega : off.toNat * 2 ^ 0 < 2 ^ 32)]
    simp
  rw [hor, ← Nat.two_pow_add_eq_or_of_lt ho, ← Nat.two_pow_add_eq_or_of_lt hix, ← Nat.two_pow_add_eq_or_of_lt hrs, Nat.mul_one]

/-- A word written to FAB.BADACC has VALID set and shows the reason and the offset of the access. -/
theorem badAccWord_fields (reason ix : Nat) (off : BitVec 24) (hr : reason < 8) (hi : ix < 16) :
    let w := pack [(1, 31), (reason, 28), (ix, 24), (off.toNat, 0)]
    bit w 31 = true ∧ fld w 30 28 = reason ∧ fld w 23 0 = off.toNat := by
  have ho : off.toNat < 2 ^ 24 := off.isLt
  refine ⟨?_, ?_, ?_⟩
  · rw [bit, BitVec.getLsbD, badAccWord_toNat reason ix off hr hi, Nat.testBit_eq_decide_div_mod_eq, decide_eq_true_iff]
    omega
  · rw [fld, badAccWord_toNat reason ix off hr hi]
    omega
  · rw [fld, badAccWord_toNat reason ix off hr hi]
    omega

/-- Looking up an initiator's index draws at most a free value. -/
theorem initIx_fst (s : State) (rq : Requester) : ∃ fc : Nat, (s.initIx rq).1 = { s with freeCtr := fc } := by
  cases rq with
  | chain => exact ⟨s.freeCtr + 1, rfl⟩
  | _ => exact ⟨s.freeCtr, rfl⟩

theorem initIx_lt (s : State) (rq : Requester) : (s.initIx rq).2 < 16 := by
  cases rq with
  | chain => exact Nat.mod_lt _ (by decide)
  | _ => simp [State.initIx]

/-- All that recording a bad access can do: BADACC takes the access if its VALID was 0, and is kept otherwise. -/
theorem badAcc_cases (s : State) (reason : Nat) (rq : Requester) (off : BitVec 24) (hr : reason < 8) :
    ∃ (ba : Word) (new : Bool) (fc : Nat),
      s.badAcc reason rq off =
        { s with fab := { s.fab with badacc := ba, bitsNew := (s.fab.bitsNew.1, new, s.fab.bitsNew.2.2) }, freeCtr := fc } ∧
      (bit s.fab.badacc 31 = true → ba = s.fab.badacc ∧ new = s.fab.bitsNew.2.1) ∧
      (bit s.fab.badacc 31 = false → bit ba 31 = true ∧ fld ba 30 28 = reason ∧ fld ba 23 0 = off.toNat ∧ new = true) := by
  obtain ⟨fc, hfc⟩ := initIx_fst s rq
  by_cases hv : bit s.fab.badacc 31 = true
  · refine ⟨s.fab.badacc, s.fab.bitsNew.2.1, fc, ?_, fun _ => ⟨rfl, rfl⟩, fun h => absurd hv (by simp [h])⟩
    simp [State.badAcc, State.badAccAt, hfc, hv]
  · obtain ⟨hvalid, hreason, hoff⟩ := badAccWord_fields reason (s.initIx rq).2 off hr (initIx_lt s rq)
    refine ⟨_, true, fc, ?_, fun h => absurd h hv, fun _ => ⟨hvalid, hreason, hoff, rfl⟩⟩
    simp [State.badAcc, State.badAccAt, hfc, hv]

/-- While no warm reset drains the matrix, an access crosses it at once (16 R466). -/
theorem viaMatrix_of_not_draining (s : State) (rq : Requester) (off : BitVec 24) (wr : Option Word) (go : State → State)
    (hd : s.fab.drainTo = none) : s.viaMatrix rq off wr go = go s := by
  simp [State.viaMatrix, hd]

theorem regReadOut_of_misaligned (s : State) (rq : Requester) (off : BitVec 24) (h : off.toNat % 4 ≠ 0) :
    s.regReadOut rq off = (s.badAcc 1 rq off).emit (.read rq 0xFFFFFFFF) := by
  simp [State.regReadOut, State.regRead, h]

theorem regWrite_of_misaligned (s : State) (rq : Requester) (off : BitVec 24) (v : Word) (h : off.toNat % 4 ≠ 0) :
    s.regWrite rq off v = s.badAcc 1 rq off := by
  simp [State.regWrite, h]

/-- A MISALIGNED_REGISTER_ACCESS that is no aligned 32-bit access is recorded; only a read is answered. -/
theorem execMisalignedRegisterAccess_eq (s : State) (rq : Requester) (off : BitVec 24) (width : Nat) (write : Bool)
    (h : off.toNat % 4 ≠ 0 ∨ width ≠ 32) :
    execMisalignedRegisterAccess rq off width write s =
      .next (if write then s.badAcc 1 rq off else (s.badAcc 1 rq off).emit (.read rq 0xFFFFFFFF)) := by
  have hna : ¬ (off.toNat % 4 = 0 ∧ width = 32) := by omega
  simp [execMisalignedRegisterAccess, hna]

/-- Settles O13: each of these accesses answers by recording itself, and the record is what `badAcc_cases` says. -/
theorem misalignedAccess : Obligations.MisalignedAccess := by
  intro s rq off
  obtain ⟨ba, new, fc, hbad, hkept, hrecord⟩ := badAcc_cases s 1 rq off (by decide)
  have hread (hoff : off.toNat % 4 ≠ 0) (hd : s.fab.drainTo = none) :
      s.viaMatrix rq off none (State.regReadOut · rq off) = (s.badAcc 1 rq off).emit (.read rq 0xFFFFFFFF) := by
    rw [viaMatrix_of_not_draining _ _ _ _ _ hd, regReadOut_of_misaligned s rq off hoff]
  refine ⟨ba, new, fc, hkept, hrecord, fun width hw => ⟨?_, ?_⟩, fun hoff hd => ⟨?_, ?_, fun v => ?_⟩⟩
  · change execMisalignedRegisterAccess rq off width false s = _
    rw [execMisalignedRegisterAccess_eq s rq off width false hw, hbad]
    rfl
  · change execMisalignedRegisterAccess rq off width true s = _
    rw [execMisalignedRegisterAccess_eq s rq off width true hw, hbad]
    rfl
  · change execRsRegisterRead rq off s = _
    rw [execRsRegisterRead, hread hoff hd, hbad]
    rfl
  · change execLowWordRead rq off s = _
    rw [execLowWordRead, hread hoff hd, hbad]
    rfl
  · change execRegisterWrite rq off v s = _
    rw [execRegisterWrite, viaMatrix_of_not_draining _ _ _ _ _ hd, regWrite_of_misaligned s rq off v hoff, hbad]

end Sys2Proof.Machine
end

