-- ==== Sys2Proof/Proofs/LnsProduct.lean ====
section
/-! PROOFS. The LNS16 codes, their saturation and their product (05 R153, R154). -/

namespace Sys2Proof.Machine

/-- A code is zero when its L field is 0x4000, whatever its sign bit (05 R153). -/
theorem lnsZero_iff (h : Half) : lnsZero h = true ↔ h.setWidth 15 = (0x4000 : BitVec 15) := by
  have hmask : (h &&& 0x7FFF).toNat = (h.setWidth 15).toNat := by
    simpa using Nat.and_two_pow_sub_one_eq_mod h.toNat 15
  rw [lnsZero, decide_eq_true_iff, ← BitVec.toNat_inj, ← BitVec.toNat_inj, hmask]
  rfl

theorem lnsZero_eq_false_iff (h : Half) : lnsZero h = false ↔ h.setWidth 15 ≠ (0x4000 : BitVec 15) := by
  rw [← Bool.not_eq_true, lnsZero_iff]

/-- The low 15 bits of a packed code are its L alone: the sign is bit 15. -/
theorem setWidth_lnsPack (neg : Bool) (l : Int) : (lnsPack neg l).setWidth 15 = BitVec.ofInt 15 l := by
  have hsign : (if neg then (0x8000 : Half) else 0).setWidth 15 = 0 := by cases neg <;> rfl
  rw [lnsPack, BitVec.setWidth_or, hsign]
  simp

@[simp] theorem lnsL_lnsPack (neg : Bool) (l : Int) (hlo : -16384 ≤ l) (hhi : l < 16384) : lnsL (lnsPack neg l) = l := by
  rw [lnsL, setWidth_lnsPack, BitVec.toInt_ofInt_eq_self (by decide) hlo hhi]

@[simp] theorem lnsNeg_lnsPack (neg : Bool) (l : Int) : lnsNeg (lnsPack neg l) = neg := by
  cases neg <;> simp [lnsNeg, lnsPack, bit]

/-- Below the smallest magnitude a result is zero (05 R154). -/
theorem lnsClamp_code_of_underflow (neg : Bool) (l : Int) (h : l < -16383) : (lnsClamp neg l).code = 0x4000 := by
  have hle : ¬ 16383 < l := by omega
  simp [lnsClamp, hle, h]

/-- From the smallest magnitude on, a result is packed, its L cut off at the largest (05 R154). -/
theorem lnsClamp_code_of_ge (neg : Bool) (l : Int) (h : -16383 ≤ l) :
    (lnsClamp neg l).code = lnsPack neg (min l 16383) := by
  have hnu : ¬ l < -16383 := by omega
  by_cases hsat : 16383 < l
  · rw [Int.min_eq_right (by omega)]
    simp [lnsClamp, hsat]
  · rw [Int.min_eq_left (by omega)]
    simp [lnsClamp, hsat, hnu]

theorem lnsMul_of_zero (a b : Half) (h : lnsZero a = true ∨ lnsZero b = true) : lnsMul a b = ⟨0x4000, false, false⟩ := by
  simp [lnsMul, h]

theorem lnsMul_of_nonzero (a b : Half) (ha : lnsZero a = false) (hb : lnsZero b = false) :
    lnsMul a b = lnsClamp (lnsNeg a != lnsNeg b) (lnsL a + lnsL b) := by
  simp [lnsMul, ha, hb]

/-- Settles O26: the product of nonzero codes is `lnsClamp` of the signs' exclusive or and of the sum of the L fields, and
`lnsPack` keeps the sign and the L it is given. -/
theorem logProduct : Obligations.LogProduct := by
  intro a b
  refine ⟨fun hzero => ?_, fun ha hb => ?_⟩
  · rw [← lnsZero_iff, ← lnsZero_iff] at hzero
    rw [lnsMul_of_zero a b hzero]
  · rw [lnsMul_of_nonzero a b ((lnsZero_eq_false_iff a).mpr ha) ((lnsZero_eq_false_iff b).mpr hb)]
    refine ⟨lnsClamp_code_of_underflow _ _, fun (hge : -16383 ≤ lnsL a + lnsL b) => ?_⟩
    rw [lnsClamp_code_of_ge _ _ hge]
    exact ⟨lnsL_lnsPack _ _ (by omega) (by omega), lnsNeg_lnsPack _ _⟩

end Sys2Proof.Machine
end

