-- ==== Sys2Proof/Proofs/DispatchStart.lean ====
section
/-! PROOFS. What DISPATCH_START does to the Sequencers of its partition (09 R248, R252). -/

namespace Sys2Proof.Machine

/-! Tables: reading past a filter by keys, and past writes of other keys. -/

/-- A rising table filtered by its keys keeps the entry of every key that the filter lets through. -/
theorem get_filter_key {α : Type} (keep : Nat → Bool) (lo : Option Nat) (t : Tab α) (a : Nat) (ha : keep a = true)
    (h : Tab.rising lo t = true) : Tab.get? (t.filter fun e => keep e.1) a = t.get? a := by
  induction t generalizing lo with
  | nil => rfl
  | cons x l ih =>
    obtain ⟨k, v⟩ := x
    have hk : Tab.rising (some k) l = true := by
      simp only [Tab.rising, Bool.and_eq_true] at h
      exact h.2
    by_cases hkeep : keep k = true
    · rw [List.filter_cons_of_pos (p := fun e : Nat × α => keep e.1) hkeep]
      simp only [Tab.get?, ih (some k) hk]
    · have hka : k ≠ a := fun e => hkeep (e ▸ ha)
      rw [List.filter_cons_of_neg (p := fun e : Nat × α => keep e.1) hkeep, ih (some k) hk]
      by_cases hlt : a < k
      · simp [Tab.get?, hlt, get_of_low l a k hk (Nat.le_of_lt hlt)]
      · simp [Tab.get?, hlt, hka]

theorem get_foldl_set_of_not_key {α : Type} (l t : Tab α) (a : Nat) (h : ∀ e ∈ l, e.1 ≠ a) :
    (l.foldl (fun u e => Tab.set u e.1 e.2) t).get? a = t.get? a := by
  induction l generalizing t with
  | nil => rfl
  | cons e l ih =>
    rw [List.foldl_cons, ih _ fun x hx => h x (List.mem_cons_of_mem e hx)]
    exact get_set_ne t e.1 a e.2 (h e List.mem_cons_self).symm

/-! Modifying the Stalls of a list one after another. -/

section
variable {α : Type} (ix : α → Fin 64) (f : State → α → Stall → Stall)

theorem part_foldl_modStl (l : List α) (s : State) (p : Fin 64) :
    (l.foldl (fun s a => s.modStl (ix a) (f s a)) s).part p = s.part p := by
  induction l generalizing s with
  | nil => rfl
  | cons a l ih => rw [List.foldl_cons, ih, part_modStl]

theorem stl_foldl_modStl_of_not_mem (l : List α) (s : State) (st : Fin 64) (h : st ∉ l.map ix) :
    (l.foldl (fun s a => s.modStl (ix a) (f s a)) s).stl st = s.stl st := by
  induction l generalizing s with
  | nil => rfl
  | cons a l ih =>
    rw [List.map_cons, List.mem_cons, not_or] at h
    rw [List.foldl_cons, ih _ h.2, stl_modStl_ne _ _ _ _ h.1]

/-- A Stall that stands once in the list is modified once, in some intermediate state. -/
theorem stl_foldl_modStl_of_mem (l : List α) (hl : (l.map ix).Nodup) (s : State) (st : Fin 64) (h : st ∈ l.map ix) :
    ∃ (u : State) (a : α), (l.foldl (fun s a => s.modStl (ix a) (f s a)) s).stl st = f u a (s.stl st) := by
  induction l generalizing s with
  | nil => exact absurd h List.not_mem_nil
  | cons a l ih =>
    rw [List.map_cons, List.nodup_cons] at hl
    rw [List.foldl_cons]
    by_cases hst : st = ix a
    · subst hst
      exact ⟨s, a, by rw [stl_foldl_modStl_of_not_mem ix f l _ _ hl.1, stl_modStl_self]⟩
    · obtain ⟨u, b, hb⟩ := ih hl.2 (s.modStl (ix a) (f s a)) ((List.mem_cons.mp h).resolve_left hst)
      exact ⟨u, b, by rw [hb, stl_modStl_ne _ _ _ _ hst]⟩

end

theorem members_nodup (q : Part) : q.members.Nodup := (List.nodup_finRange 64).filter _

/-! The store lines written again at a dispatch start (09 R252). -/

/-- The Sequencer with its invalid lines of a BUNDLES section written again from the bundles `t` of the image. -/
def Seq.rewriteLines (q : Seq) (t : Tab (BitVec 256)) : Seq :=
  let lines := q.fromImg &&& ~~~q.valid
  if lines = 0 then q
  else
    let hit (a : Nat) : Bool := lines.getLsbD (a / 128)
    { q with
      store := (t.filter (fun x => hit x.1)).foldl (fun u x => Tab.set u x.1 x.2) (q.store.filter (fun x => !hit x.1)),
      storeBad := q.storeBad.filter (fun w => !hit (w / 8)), valid := q.valid ||| lines }

@[simp] theorem Seq.rewriteLines_tally (q : Seq) (t : Tab (BitVec 256)) : (q.rewriteLines t).tally = q.tally := by
  simp only [Seq.rewriteLines]
  split <;> rfl

@[simp] theorem Seq.rewriteLines_keys (q : Seq) (t : Tab (BitVec 256)) : (q.rewriteLines t).keys = q.keys := by
  simp only [Seq.rewriteLines]
  split <;> rfl

theorem Seq.rewriteLines_of_all_valid (q : Seq) (t : Tab (BitVec 256)) (h : q.fromImg &&& ~~~q.valid = 0) :
    q.rewriteLines t = q := by
  simp [Seq.rewriteLines, h]

/-- A valid line is not hit: its bundles are neither dropped from the store nor among those written. -/
theorem Seq.getD_store_rewriteLines_of_valid (q : Seq) (t : Tab (BitVec 256)) (a : Nat)
    (hr : Tab.rising none q.store = true) (hv : q.valid.getLsbD (a / 128) = true) :
    Tab.getD (q.rewriteLines t).store a 0 = Tab.getD q.store a 0 := by
  have hmiss : (q.fromImg &&& ~~~q.valid).getLsbD (a / 128) = false := by simp [hv]
  simp only [Seq.rewriteLines]
  split
  · rfl
  · rw [Tab.getD, Tab.getD, get_foldl_set_of_not_key,
      get_filter_key (fun k => !(q.fromImg &&& ~~~q.valid).getLsbD (k / 128)) none _ _ (by simp [hmiss]) hr]
    intro e he hea
    have hhit := (List.mem_filter.mp he).2
    rw [hea, hmiss] at hhit
    exact Bool.false_ne_true hhit

/-- With an image placed, the members of the partition write their lines again, one after another. -/
theorem State.rewriteLines_eq (s : State) (p : Fin 64) (i : Image) (hi : (s.part p).image = some i) :
    s.rewriteLines p = (s.part p).members.zipIdx.foldl (fun s e => s.modStl e.1 fun x =>
      { x with seq := x.seq.rewriteLines (i.store (s.part p).rank.toNat e.2).1 }) s := by
  simp only [State.rewriteLines, hi]
  rfl

theorem stl_rewriteLines_of_mem (s : State) (p st : Fin 64) (i : Image) (hi : (s.part p).image = some i)
    (h : st ∈ (s.part p).members) :
    ∃ t : Tab (BitVec 256), (s.rewriteLines p).stl st = { s.stl st with seq := (s.stl st).seq.rewriteLines t } := by
  have hfst : (s.part p).members.zipIdx.map Prod.fst = (s.part p).members := List.zipIdx_map_fst 0 _
  obtain ⟨u, e, hue⟩ := stl_foldl_modStl_of_mem Prod.fst
    (fun s e x => { x with seq := x.seq.rewriteLines (i.store (s.part p).rank.toNat e.2).1 })
    (s.part p).members.zipIdx (by rw [hfst]; exact members_nodup _) s st (by rw [hfst]; exact h)
  rw [State.rewriteLines_eq s p i hi]
  exact ⟨_, hue⟩

theorem stl_rewriteLines_of_not_mem (s : State) (p st : Fin 64) (i : Image) (hi : (s.part p).image = some i)
    (h : st ∉ (s.part p).members) : (s.rewriteLines p).stl st = s.stl st := by
  have hfst : (s.part p).members.zipIdx.map Prod.fst = (s.part p).members := List.zipIdx_map_fst 0 _
  rw [State.rewriteLines_eq s p i hi]
  exact stl_foldl_modStl_of_not_mem Prod.fst _ _ s st (by rw [hfst]; exact h)

/-! A Stall at the start cycle (09 R248). -/

section
variable (x : Stall) (pc : BitVec 14) (cyc : Nat)

@[simp] theorem Stall.start_pc : (x.start pc cyc).seq.pc = pc := rfl
@[simp] theorem Stall.start_loops : (x.start pc cyc).seq.loops = Vector.replicate 8 ⟨0, 0⟩ := rfl
@[simp] theorem Stall.start_tally : (x.start pc cyc).seq.tally = x.seq.tally := rfl
@[simp] theorem Stall.start_keys : (x.start pc cyc).seq.keys = x.seq.keys := rfl
@[simp] theorem Stall.start_state : (x.start pc cyc).seq.state = .issuing := rfl
@[simp] theorem Stall.start_sched : (x.start pc cyc).seq.sched = 0 := rfl
@[simp] theorem Stall.start_store : (x.start pc cyc).seq.store = x.seq.store := rfl

end

/-- The Stalls of a list start one after another, at one bundle. -/
def State.startStalls (s : State) (l : List (Fin 64)) (pc : BitVec 14) : State :=
  l.foldl (fun s st => s.modStl st fun x => x.start pc s.cycle) s

@[simp] theorem part_startStalls (s : State) (l : List (Fin 64)) (pc : BitVec 14) (p : Fin 64) :
    (s.startStalls l pc).part p = s.part p :=
  part_foldl_modStl id (fun s _ x => x.start pc s.cycle) l s p

theorem stl_startStalls_of_mem (s : State) (l : List (Fin 64)) (pc : BitVec 14) (st : Fin 64) (hl : l.Nodup) (h : st ∈ l) :
    ∃ cyc : Nat, (s.startStalls l pc).stl st = (s.stl st).start pc cyc := by
  obtain ⟨u, _, hu⟩ := stl_foldl_modStl_of_mem id (fun s _ x => x.start pc s.cycle) l
    (by simpa using hl) s st (by simpa using h)
  exact ⟨u.cycle, hu⟩

theorem stl_startStalls_of_not_mem (s : State) (l : List (Fin 64)) (pc : BitVec 14) (st : Fin 64) (h : st ∉ l) :
    (s.startStalls l pc).stl st = s.stl st :=
  stl_foldl_modStl_of_not_mem id (fun s _ x => x.start pc s.cycle) l s st (by simpa using h)

/-! The dispatch that the head of the queue becomes. -/

/-- The record of a dispatch that starts in a cycle, with a declared length. -/
def Waiting.dispatch (w : Waiting) (len cyc : Nat) : Dispatch :=
  { pkt := w.pkt, entry := w.entry, length := len, start := cyc, sched := 0, frozen := false,
    wasFrozen := false, zskip := false, reruns := 0, rerunOf := [], padOver := 0, hkMiss := false,
    freezePs := 0, stop := none, faults := [], cut := false, restored := false, closing := false }

/-- The partition once a dispatch has left its queue and runs. -/
def Part.run (q : Part) (d : Dispatch) (l : List Waiting) : Part :=
  { q with disp := some d, queue := l, choice := q.pendChoice, pendChoice := 0, hkMiss := 0,
           winTold := false, tree := ⟨[], [], []⟩ }

/-- DISPATCH_START of a head that is due: lines are written again, the dispatch runs, and the members start. -/
theorem execDispatchStart_eq (s : State) (p : Fin 64) (i : Image) (w : Waiting) (l : List Waiting) (t0 : Nat)
    (hd : (s.part p).disp = none) (hq : (s.part p).queue = w :: l) (hi : (s.part p).image = some i)
    (ht : w.start = some t0) (hdue : t0 ≤ s.cycle) :
    execDispatchStart p s = .next
      (((s.rewriteLines p).modPart p fun q => q.run (w.dispatch (i.entries.getD w.entry (0, 0)).2 s.cycle) l).startStalls
        (s.part p).members (BitVec.ofNat 14 (i.entries.getD w.entry (0, 0)).1)) := by
  simp only [execDispatchStart, hd, hq, hi, ht, if_neg (Nat.not_lt.mpr hdue)]
  rfl

/-- Settles O36: a member's Sequencer is the one that wrote its lines again, started; `Stall.start` gives PC and the loop
counters and keeps the rest, and the lines written again are none of the valid ones. -/
theorem dispatchStarts : Obligations.DispatchStarts := by
  intro s p i w l t0 hd hq hi ht hdue hrising
  refine ⟨_, execDispatchStart_eq s p i w l t0 hd hq hi ht hdue, fun st hst => ?_, ?_, ?_, fun st hst => ?_⟩
  · obtain ⟨bundles, hlines⟩ := stl_rewriteLines_of_mem s p st i hi hst
    obtain ⟨cyc, hstart⟩ := stl_startStalls_of_mem _ _ _ st (members_nodup _) hst
    rw [hstart, stl_modPart, hlines]
    refine ⟨Stall.start_pc _ _ _, Stall.start_loops _ _ _,
      (Stall.start_tally _ _ _).trans (Seq.rewriteLines_tally _ bundles),
      (Stall.start_keys _ _ _).trans (Seq.rewriteLines_keys _ bundles),
      Stall.start_state _ _ _, Stall.start_sched _ _ _, fun a hvalid => ?_, fun hall => ?_⟩
    · rw [Stall.start_store]
      exact Seq.getD_store_rewriteLines_of_valid _ bundles a (hrising st) hvalid
    · rw [Stall.start_store, Seq.rewriteLines_of_all_valid _ bundles hall]
  · rw [part_startStalls, part_modPart_self]
    rfl
  · rw [part_startStalls, part_modPart_self]
    exact ⟨_, rfl, rfl, rfl, rfl, rfl⟩
  · rw [stl_startStalls_of_not_mem _ _ _ st hst, stl_modPart]
    exact stl_rewriteLines_of_not_mem s p st i hi hst

end Sys2Proof.Machine
end

