-- ==== Sys2Proof/Proofs/NoPath.lean ====
section
/-! PROOFS. Accesses at offsets that name no register, or to registers outside the paths of Table 16.2 (16 R443, 21 R627). -/

namespace Sys2Proof.Machine

theorem reaches_read_of_no_path (s : State) (rq : Requester) (r : Reg) (h : mayRead rq r = false) :
    s.reaches rq r false = false := by
  simp [State.reaches, h]

theorem reaches_write_of_no_path (s : State) (rq : Requester) (r : Reg) (h : mayWrite rq r = false) :
    s.reaches rq r true = false := by
  simp [State.reaches, h]

/-- A read that finds no register, or no path to it, is recorded with reason NO_PATH and answers all ones. -/
theorem regRead_of_no_path (s : State) (rq : Requester) (off : BitVec 24) (hal : off.toNat % 4 = 0)
    (hno : regAt rq off = none ∨ ∃ r, regAt rq off = some r ∧ (mayRead rq r = false ∨ s.regVal r = none)) :
    s.regRead rq off = (s.badAcc 2 rq off, 0xFFFFFFFF) := by
  obtain hnone | ⟨r, hr, hpath | hval⟩ := hno
  · simp [State.regRead, hal, hnone]
  · cases hval : s.regVal r with
    | none => simp [State.regRead, hal, hr, hval]
    | some v => simp [State.regRead, hal, hr, hval, reaches_read_of_no_path s rq r hpath]
  · simp [State.regRead, hal, hr, hval]

/-- A write that finds no register, or no path to it, does nothing but be recorded with reason NO_PATH. -/
theorem regWrite_of_no_path (s : State) (rq : Requester) (off : BitVec 24) (v : Word) (hal : off.toNat % 4 = 0)
    (hno : regAt rq off = none ∨ ∃ r, regAt rq off = some r ∧ (mayWrite rq r = false ∨ s.regVal r = none)) :
    s.regWrite rq off v = s.badAcc 2 rq off := by
  obtain hnone | ⟨r, hr, hpath | hval⟩ := hno
  · simp [State.regWrite, hal, hnone]
  · simp [State.regWrite, hal, hr, reaches_write_of_no_path s rq r hpath]
  · simp [State.regWrite, hal, hr, hval]

/-- Settles O14: while the matrix does not drain, such an access is only recorded, and the record is what `badAcc_cases` says. -/
theorem noPathAccess : Obligations.NoPathAccess := by
  intro s rq off hal hd
  obtain ⟨ba, new, fc, hbad, hkept, hrecord⟩ := badAcc_cases s 2 rq off (by decide)
  refine ⟨ba, new, fc, hkept, hrecord, fun hno => ?_, fun hno v => ?_⟩
  · have hread : s.viaMatrix rq off none (State.regReadOut · rq off) = (s.badAcc 2 rq off).emit (.read rq 0xFFFFFFFF) := by
      rw [viaMatrix_of_not_draining _ _ _ _ _ hd, State.regReadOut, regRead_of_no_path s rq off hal hno]
    constructor
    · change execRsRegisterRead rq off s = _
      rw [execRsRegisterRead, hread, hbad]
      rfl
    · change execLowWordRead rq off s = _
      rw [execLowWordRead, hread, hbad]
      rfl
  · change execRegisterWrite rq off v s = _
    rw [execRegisterWrite, viaMatrix_of_not_draining _ _ _ _ _ hd, regWrite_of_no_path s rq off v hal hno, hbad]

end Sys2Proof.Machine
end

