-- ==== Sys2Proof/Proofs/RingSetup.lean ====
section
/-! PROOFS. The setup of a command ring, and CMDQ.CTL written with ENABLE from 0 to 1 (17 R471). -/

namespace Sys2Proof.Machine

/-- Between two powers of 2, `pow2In` asks for a power whose exponent lies between theirs. -/
theorem pow2In_two_pow_iff (n a b : Nat) : pow2In n (2 ^ a) (2 ^ b) = true ↔ ∃ e : Nat, a ≤ e ∧ e ≤ b ∧ n = 2 ^ e := by
  have hexp (x y : Nat) : 2 ^ x ≤ 2 ^ y ↔ x ≤ y := Nat.pow_le_pow_iff_right (by decide)
  simp only [pow2In, Bool.and_eq_true, decide_eq_true_iff]
  constructor
  · rintro ⟨⟨hlo, hhi⟩, hn⟩
    rw [hn, hexp] at hlo hhi
    exact ⟨n.log2, hlo, hhi, hn⟩
  · rintro ⟨e, hlo, hhi, rfl⟩
    exact ⟨⟨(hexp a e).2 hlo, (hexp e b).2 hhi⟩, by rw [Nat.log2_two_pow]⟩

/-- `Func.setupOk` is the condition of 17 R471, with the exponents of the ring sizes written out. -/
theorem setupOk_iff (x : Func) : x.setupOk = true ↔
    x.cbase.toNat % 4096 = 0 ∧ x.rbase.toNat % 4096 = 0 ∧
      (∃ e : Nat, 4 ≤ e ∧ e ≤ 12 ∧ x.csize.toNat = 2 ^ e) ∧ (∃ e : Nat, 4 ≤ e ∧ e ≤ 12 ∧ x.rsize.toNat = 2 ^ e) := by
  have hsize (n : Nat) : pow2In n 16 4096 = true ↔ ∃ e : Nat, 4 ≤ e ∧ e ≤ 12 ∧ n = 2 ^ e := pow2In_two_pow_iff n 4 12
  simp only [Func.setupOk, Bool.and_eq_true, decide_eq_true_iff, hsize, and_assoc]

/-- The fields of CTL other than ENABLE are no part of the ring's setup. -/
@[simp] theorem setupOk_ctl (x : Func) (v : Word) : (x.ctl v).setupOk = x.setupOk := rfl

/-- ENABLE written from 0 to 1 over a bad setup: the error is recorded, and RUNNING is not written. -/
theorem enableRing_of_bad_setup (s : State) (f : Fin 65) (v : Word) (hbad : (s.func f).setupOk = false) :
    s.enableRing f v =
      s.setFunc f { (s.func f).ctl v with enable := true, error := true, errNew := true, errCode := 1 } := by
  simp [State.enableRing, hbad]

/-- While the matrix does not drain, CMDQ_ENABLE is the write of ENABLE from 0 to 1. -/
theorem execCmdqEnable_of_not_draining (s : State) (f : Fin 65) (v : Word) (hd : s.fab.drainTo = none)
    (hv : bit v 31 = true) (hoff : (s.func f).enable = false) : execCmdqEnable f v s = .next (s.enableRing f v) := by
  simp [execCmdqEnable, hv, hoff, viaMatrix_of_not_draining _ _ _ _ _ hd]

/-- Settles O52: the new record of the function differs from the old one in CTL's fields and the error only. -/
theorem badRingSetup : Obligations.BadRingSetup := by
  intro s f v x size hd hv hoff hsetup
  have hbad : (s.func f).setupOk = false := by
    rw [← Bool.not_eq_true, setupOk_iff]
    exact hsetup
  refine ⟨_, execCmdqEnable_of_not_draining s f v hd hv hoff, ?_⟩
  dsimp only
  rw [enableRing_of_bad_setup s f v hbad, func_setFunc_self]
  exact ⟨rfl, id, rfl, rfl⟩

end Sys2Proof.Machine
end
